-- ==== Sys2Proof/Word.lean ====
section
/-!
DEFINITION. The machine words of the module: 32-bit registers (R14), bytes, 64-bit registers (R15), time values (R11).
-/
namespace Sys2Proof

/-- A byte, the unit of the stores and of every frame (R17). -/
abbrev Byte := BitVec 8

/-- A register word (R14). -/
abbrev Word := BitVec 32

/-- A 64-bit register or a host address (R15). -/
abbrev DWord := BitVec 64

/-- A 96-bit time value: seconds 95:48, nanoseconds 47:16, fraction 15:0 (R11). -/
abbrev Time96 := BitVec 96

end Sys2Proof
end

