-- ==== Sys2Proof/Syntax.lean ====
section
/-!
DEFINITION. The commands of the block: one constructor for each row of the opcode table, and the operand types they use.
A command stands for one indivisible step of the module: a host access, an event at a pin or on a link, a tick boundary,
or the end of something the module was doing. What arrives from outside with it (a written value, a frame, a billet) is its operand.
-/
namespace Sys2Proof

/-- The two PCI Express functions from which the host accesses registers (R13, R19, R382). -/
inductive Pf where
  | pf0 | pf1
deriving DecidableEq, Repr

/-- The two safety inputs (R367). -/
inductive SafeCh where
  | a | b
deriving DecidableEq, Repr

/-- A malformed host access (R14, R16): an access of another size than 32 bits, read or write, or a 32-bit read of a reserved address. -/
inductive BadAccess where
  | sizeRead | sizeWrite | reservedRead | reservedWrite (v : Word)
deriving DecidableEq, Repr

/-- The request that a failed DMA read served (R386). -/
inductive DmaUser where
  | imageLoad | ucodeLoad | recovery | recorderRead | ringFetch (ring : Fin 64) | worker (w : Fin 12)
deriving DecidableEq, Repr

/-- The fields of configuration space that a write can change and that this manual gives an effect (R382, R387); and the address and data of an
entry of the MSI-X table in BAR2, for which the table of commands has no row of its own. -/
inductive CfgField where
  | powerState (d3hot : Bool) | memSpace (on : Bool) | busMaster (on : Bool) | msixEnable (on : Bool)
  | vector (vec : Fin 64) (addr : BitVec 64) (data : BitVec 32)
deriving DecidableEq, Repr

/-- What a peat store line write belonged to (R421, R422). -/
inductive PeatKind where
  | epoch | arc | lmsLeaf | checkValue | proofHours | calibration | failedMap | slotState | bootSel | keyTable | snapshot | imageLine
deriving DecidableEq, Repr

/-- A billet as the host wrote it (R392), with the slot it stands in. -/
structure Billet where
  opcode : Byte
  flags  : Byte
  prio   : Byte
  flow   : BitVec 16
  tag    : BitVec 16
  addr   : DWord
  len    : Word
  args   : List Word
deriving DecidableEq, Repr

/-- A partner heartbeat frame (R343), as received and found valid. -/
structure Heartbeat where
  state   : BitVec 8
  seq     : BitVec 16
  epoch   : Word
  mode    : BitVec 8
  flags   : BitVec 8
  cause   : BitVec 8
  trace   : BitVec 8
  hash32  : Word
  snapSeq : Word
  nak     : BitVec 16
  tb      : List Time96
deriving DecidableEq, Repr

/-- A partner slot report (R97). -/
structure SlotReport where
  valid  : Bool
  staged : Bool
  banked : Bool
  hash   : BitVec 384
deriving DecidableEq, Repr

/-- A snapshot chunk frame (R349): the chunk and the SNAP_SEQ that are due, and the payload with its CRC as it came. -/
structure SnapChunk where
  chunk : Fin 16
  seq   : Word
  bytes : List Byte
deriving DecidableEq, Repr

/-- What one lane received since the last boundary (R202 to R205, R222): the code groups as they came off the fibre, bit a of a group being its
bit 0, those up to 64 CK_FAB cycles before the boundary and those that came later; and by how many characters the other end's clock gained on
the own one. -/
structure Uplink where
  lane  : Fin 50
  slip  : Int
  chars : List (BitVec 10)
  late  : List (BitVec 10)
deriving DecidableEq, Repr

/-- What a tick boundary finds beside the lanes: how many boundaries passed unseen while the outputs were gated, and whether the partner that holds
the token commits the image of this unit's inactive slot at this boundary (R97 gives no frame that announces it). -/
structure TickNote where
  skip    : Nat
  partner : Bool
deriving DecidableEq, Repr

/-- The packet number and the ACK field in the header of a management packet (R225). -/
structure PacketHead where
  seq : Byte
  ack : Byte
deriving DecidableEq, Repr

/-- What the wake checks of a lane found (R231): the other end's fresh record, and the samples of its delay exchanges, round trip and
residence of each. -/
structure WakeReport where
  lane    : Fin 48
  cap     : List Byte
  samples : List (Nat × Nat)
deriving DecidableEq, Repr

/-- What a precision-time event message is (R324). -/
inductive SyncKind where
  | oneStep | twoStep | followUp
deriving DecidableEq, Repr

/-- A Sync or Follow_Up as received: sequence number, sending port, origin time, correctionField in 2^−16 ns, and the local count at
arrival in 2^−16 ns (R324, R325). -/
structure SyncMsg where
  kind    : SyncKind
  seq     : BitVec 16
  src     : BitVec 80
  origin  : Time96
  corr    : Int
  arrival : Nat
deriving DecidableEq, Repr

/-- An Announce as received (R324). -/
structure Announce where
  prio1 : Byte
  cls   : Byte
  acc   : Byte
  var   : BitVec 16
  prio2 : Byte
  gm    : DWord
  steps : BitVec 16
  src   : BitVec 80
  utc   : BitVec 16
deriving DecidableEq, Repr

/-- What MON measures for the live block (R452): twelve rails in mV, four currents in mA, the power in mW, and four temperatures in
1/16 °C (0x8000 where unavailable). -/
structure Measured where
  rails : List (BitVec 16)
  amps  : List (BitVec 16)
  power : Word
  temps : List (BitVec 16)
deriving DecidableEq, Repr

/-- The commands, one constructor per row of the opcode table in its order, those without operands last (Lean's compiler
admits at most 244 constructors with fields before them). -/
inductive Instr where
  /-- TICK_BOUNDARY (R28). A tick boundary falls on the SYS time base, and the fabric tick starts with its votes, scheduled actions, latches and frame departures. -/
  | tickBoundary (uplinks : List Uplink) (build : List (Fin 48)) (offs : List (Fin 48)) (note : TickNote)
  /-- TICK_OVERRUN (R30). A phase misses its deadline, so the last completed bits are repeated and a second overrun within 16 ticks blocks and releases. -/
  | tickOverrun (ph : Fin 5)
  /-- MODE_REQUEST (R51). A host write of SYS_MODE_REQ requests a target mode, which is checked, held or voted. -/
  | modeRequest (pf : Pf) (v : Word)
  /-- MODULE_RESET (R54). A host write of SYS_MRST with the key forces MD_0 at once where accepted. -/
  | moduleReset (pf : Pf) (v : Word)
  /-- FUNCTION_RESET (R36). A host write of SYS_FRST requests a reset of each named function, which is executed, held or refused. -/
  | functionReset (pf : Pf) (v : Word)
  /-- FUNCTION_RESET_DONE (R38). A reset function has reinitialised and is ready, so its SYS_FRST_STAT bit clears. -/
  | functionResetDone (fn : Fin 23)
  /-- TMR_REPLICA_DIFFER (R55). One replica of the mode controller differs from the other two and is masked, or fenced on a repeat within 1,000 ticks. -/
  | tmrReplicaDiffer (rep : Fin 3)
  /-- SA_ARM (R59). A host write of SYS_SA_CTL_i with ARM = 1 checks and arms a scheduled entry. -/
  | saArm (pf : Pf) (k : Fin 64) (v : Word)
  /-- SA_DISARM (R65). A host write clearing ARM disarms the entry with STATUS IDLE. -/
  | saDisarm (pf : Pf) (k : Fin 64) (v : Word)
  /-- IMG_LOAD (R89). SEC_IMG_CTL LOAD empties the target slot and starts loading an image from host memory. -/
  | imgLoad (pf : Pf) (key : BitVec 16) (slot : Fin 2)
  /-- IMG_LOAD_DONE (R85). A loaded image is checked in order, and the slot becomes VALID or stays empty with the failing status. -/
  | imgLoadDone (dmaOk : Bool) (bytes : List Byte)
  /-- IMG_ERASE (R88). SEC_IMG_CTL ERASE empties a slot and starts rewriting its lines. -/
  | imgErase (pf : Pf) (key : BitVec 16) (slot : Fin 2)
  /-- IMG_ABORT (R88). SEC_IMG_CTL ABORT stops a load or erase and leaves the slot empty. -/
  | imgAbort (pf : Pf) (key : BitVec 16)
  /-- IMG_BOOT_NEXT (R91). SEC_IMG_CTL BOOT_NEXT makes a VALID slot the boot slot from the next MD_0. -/
  | imgBootNext (pf : Pf) (key : BitVec 16) (slot : Fin 2)
  /-- IMG_STAGE (R93). FAB_IMG_CTL STAGE starts loading a VALID slot into the idle plane and matching names. -/
  | imgStage (pf : Pf) (key : BitVec 16) (slot : Fin 2)
  /-- IMG_UNSTAGE (R93). FAB_IMG_CTL UNSTAGE discards the staged plane. -/
  | imgUnstage (pf : Pf) (key : BitVec 16)
  /-- IMG_COMMIT (R96). FAB_IMG_CTL COMMIT requests a live commit, voted like a mode cause. -/
  | imgCommit (pf : Pf) (key : BitVec 16) (solo : Bool)
  /-- IMG_CONFIRM (R90). FAB_IMG_CTL CONFIRM marks the active slot confirmed and advances its anti-rollback counter. -/
  | imgConfirm (pf : Pf) (key : BitVec 16)
  /-- SLOT_REPORT_RX (R97). A partner slot report frame arrives and updates the partner's slot and staging state. -/
  | slotReportRx (bytes : List Byte)
  /-- NODE_FEEDBACK_LOSS (R114). A compensator's feedback has been invalid for LOSS_N evaluations, so it enters its loss action. -/
  | nodeFeedbackLoss (node : Fin 8192)
  /-- NODE_FREEZE (R114). A compensator's feedback has repeated FREEZE_N times, so it enters its loss action. -/
  | nodeFreeze (node : Fin 8192)
  /-- NODE_DOWNSHIFT (R104). After 16 evaluations with small mantissas a stage exponent falls by one. -/
  | nodeDownshift (node : Fin 8192)
  /-- XFORM_FILL_END (R123). A sequence decomposition node finishes its fill count and its outputs become valid. -/
  | xformFillEnd (node : Fin 8192)
  /-- FAB_LOCKSTEP_MISMATCH (R127). The two physical tiles disagree, so the tick's deliveries are discarded and the tile reloads and soft-starts. -/
  | fabLockstepMismatch (node : Fin 8192)
  /-- PEEK_ARM (R129). A write of FAB_PEEK_CTL arms a capture of one node. -/
  | peekArm (pf : Pf) (v : Word)
  /-- PEEK_STAT_READ (R129). A read of FAB_PEEK_STAT returns FRESH and latches the capture on its first read. -/
  | peekStatRead (pf : Pf)
  /-- TRACKER_LOCK (R150). A phase tracker has held a small error for 20 ms and becomes locked. -/
  | trackerLock (grid : Bool)
  /-- SWG_INPUT_HOLD_END (R161). A swing engine input has been invalid for LOSS_N ticks and its after-hold rule applies. -/
  | swgInputHoldEnd (ep : Fin 16)
  /-- SWG_INPUT_LOSS_LIMIT (R161). A swing engine input has been invalid for LOSS_LIMIT and its reaction is raised. -/
  | swgInputLossLimit (ep : Fin 16)
  /-- SWG_SNAP_ARM (R165). A write of SWG_SNAP_CTL.ARM arms a capture of the engine state. -/
  | swgSnapArm (pf : Pf) (v : Word)
  /-- SWG_SNAP_STAT_READ (R165). A read of SWG_SNAP_STAT returns FRESH and latches the capture on its first read. -/
  | swgSnapStatRead (pf : Pf)
  /-- SM_MEAS_LOSS (R168). A submodule's measurement has been invalid for SM_LOSS_N ticks and it becomes FAILED. -/
  | smMeasLoss (arm : Fin 6) (sm : Fin 512)
  /-- SM_SET (R169). RDL_FAIL_CMD SET marks a submodule FAILED by host command. -/
  | smSet (pf : Pf) (key : BitVec 16) (arm : Fin 8) (sm : Fin 512)
  /-- SM_CLEAR (R169). RDL_FAIL_CMD CLEAR returns a FAILED submodule to HEALTHY where accepted. -/
  | smClear (pf : Pf) (key : BitVec 16) (arm : Fin 8) (sm : Fin 512)
  /-- SM_CLEAR_ARM (R169). RDL_FAIL_CMD CLEAR_ARM clears every FAILED submodule of an arm where accepted. -/
  | smClearArm (pf : Pf) (key : BitVec 16) (arm : Fin 8)
  /-- DEM_LOSS_LIMIT (R177). An arm's demand has been invalid for DEM_LOSS_N ticks, raising a block-and-release reaction. -/
  | demLossLimit (arm : Fin 6)
  /-- ARM_CURRENT_LOSS_LIMIT (R177). An arm current has been invalid for I_LOSS_LIMIT, raising a block-and-release reaction. -/
  | armCurrentLossLimit (arm : Fin 6)
  /-- UPLINK_HOLD_END (R177). An arm's uplink set has been held for UP_HOLD ticks and its values become invalid. -/
  | uplinkHoldEnd (arm : Fin 6)
  /-- UPLINK_LOSS_LIMIT (R177). An arm's uplink set has been invalid for UP_LIMIT, raising a block-and-release reaction. -/
  | uplinkLossLimit (arm : Fin 6)
  /-- CAP_RUN_START (R187). RDL_ID_CTL CAP starts a capacitance identification run in MD_4. -/
  | capRunStart (pf : Pf) (key : BitVec 16)
  /-- IND_RUN_START (R192). RDL_ID_CTL IND starts an inductance identification run on a leg in MD_11. -/
  | indRunStart (pf : Pf) (key : BitVec 16) (leg : Fin 4)
  /-- ID_RUN_ABORT (R187). RDL_ID_CTL ABORT ends the identification run in progress with ABORTED. -/
  | idRunAbort (pf : Pf) (key : BitVec 16)
  /-- ID_STAT_READ (R194). A read of RDL_ID_STAT returns FRESH and latches the results on its first read. -/
  | idStatRead (pf : Pf)
  /-- SM_CAPTURE_ARM (R198). A write of RDL_SM_SEL arms a capture of one submodule. -/
  | smCaptureArm (pf : Pf) (v : Word)
  /-- SM_STAT_READ (R198). A read of RDL_SM_STAT returns FRESH and latches the capture on its first read. -/
  | smStatRead (pf : Pf)
  /-- LANE_T0_DONE (R211). A lane has aligned 256 ordered sets and received TS2 and proceeds to the capability exchange. -/
  | laneT0Done (lane : Fin 50)
  /-- CAPABILITY_RX (R208). A valve-base unit's capability record completes and is checked, passing the lane to T2 or making it ABSENT. -/
  | capabilityRx (lane : Fin 50) (rec_ : PacketHead × List Byte)
  /-- LANE_EYE_RESULT (R211). An eye margin measurement in T2 completes and the lane passes, steps down a generation or becomes ABSENT. -/
  | laneEyeResult (lane : Fin 50) (own : Byte) (vbu : Byte)
  /-- DELAY_TRAINING_DONE (R209). A lane's delay exchanges give a consistent D_l and the lane becomes READY or ABSENT. -/
  | delayTrainingDone (lane : Fin 50) (samples : List (Nat × Nat))
  /-- MAP_ACK_RX (R227). A MAP_ACK arrives and the lane becomes ACTIVE, or ABSENT where refused. -/
  | mapAckRx (lane : Fin 48) (mapId : Byte) (result : PacketHead × Byte)
  /-- LANE_PHASE_TIMEOUT (R206). A training phase does not end within T_PHASE and the lane becomes ABSENT. -/
  | lanePhaseTimeout (lane : Fin 50)
  /-- LANE_RETRY_TIMER (R206). An ABSENT lane's retry time is reached and it restarts training at T0. -/
  | laneRetryTimer (lane : Fin 50)
  /-- PORT_TRAIN_TIMEOUT (R212). T_PORT expires and the port goes to MAPPING or DOWN. -/
  | portTrainTimeout (port : Fin 6)
  /-- LANE_LINK_ERROR (R211). An ACTIVE lane loses signal or alignment, or sees LINK_ERR_N bad uplinks, and retrains. -/
  | laneLinkError (lane : Fin 50)
  /-- RTR_RX (R211). A retrain request ordered set arrives and the lane retrains from T0. -/
  | rtrRx (lane : Fin 50)
  /-- RATE_ERR (R205). A lane's elastic buffer overflows or underflows, invalidating the frame in transit. -/
  | rateErr (lane : Fin 50)
  /-- DLY_EXCHANGE_TIMER (R210). DLY_PERIOD elapses and an ACTIVE lane sends a delay request. -/
  | dlyExchangeTimer (lane : Fin 50)
  /-- DLY_RSP_RX (R210). A delay response arrives and updates the filtered lane delay. -/
  | dlyRspRx (lane : Fin 50) (exch : Byte) (rtt : Nat) (turn : Nat)
  /-- EYE_MEASURE (R230). Every 100 ms an ACTIVE lane measures its eye margin and raises EYE_LOW below the warning level. -/
  | eyeMeasure (lane : Fin 50) (fom : Byte)
  /-- LANE_WAKE_DONE (R231). A waking lane passes its checks and returns to ACTIVE. -/
  | laneWakeDone (wake : WakeReport)
  /-- LANE_WAKE_TIMEOUT (R211). A waking lane fails its checks or 500 µs pass, and it retrains. -/
  | laneWakeTimeout (lane : Fin 48)
  /-- LANE_DISABLE (R211). A write of CRD_LANE_CFG_n.DISABLE takes the lane OFF once the port carries BLOCK. -/
  | laneDisable (pf : Pf) (lane : Fin 48) (v : Word)
  /-- RETRAIN_LANE (R237). CRD_CMD RETRAIN_LANE restarts a lane at T0. -/
  | retrainLane (pf : Pf) (key : BitVec 16) (lane : Fin 64)
  /-- RETRAIN_PORT (R237). CRD_CMD RETRAIN_PORT restarts every enabled lane of a blocked port. -/
  | retrainPort (pf : Pf) (key : BitVec 16) (port : Fin 8)
  /-- REMAP (R212). CRD_CMD REMAP sends a blocked port to MAPPING. -/
  | remap (pf : Pf) (key : BitVec 16) (port : Fin 8)
  /-- MGT_REQUEST (R228). A write of CRD_MGT_CTL sends a host request packet to a port's valve-base unit. -/
  | mgtRequest (pf : Pf) (key : BitVec 16) (port : Fin 8) (len : Fin 128) (tag : Fin 64)
  /-- MGT_RESPONSE_RX (R228). A RESPONSE packet arrives and ends the host request DONE. -/
  | mgtResponseRx (port : Fin 6) (tag : BitVec 16) (data : PacketHead × List Byte)
  /-- MGT_EVENT_RX (R227). An EVENT packet arrives and is acknowledged and logged. -/
  | mgtEventRx (lane : Fin 48) (head : PacketHead) (data : List Byte)
  /-- MGT_FOM_RX (R227). A FOM packet arrives and updates the unit's eye margin. -/
  | mgtFomRx (lane : Fin 48) (fom : PacketHead × Byte)
  /-- MGT_ACK_RX (R226). An acknowledgement or NAK arrives for the outstanding management packet. -/
  | mgtAckRx (lane : Fin 50) (ack : Byte) (nak : Bool)
  /-- MGT_RETRY_TIMER (R226). A packet is not acknowledged within MGT_RETRY_INT and is resent or the channel fails. -/
  | mgtRetryTimer (lane : Fin 50)
  /-- MGT_REQ_TIMEOUT (R379). HOST_REQ_TIMEOUT runs out and the host request ends TIMEOUT with its retries frozen. -/
  | mgtReqTimeout (port : Fin 6)
  /-- MGT_RES_READ (R228). A read of CRD_MGT_RES returns FRESH and latches the response on its first read. -/
  | mgtResRead (pf : Pf)
  /-- SVC_PULSE (R234). CRD_SVC_CTL PULSE commands a service pulse on one submodule where accepted. -/
  | svcPulse (pf : Pf) (key : BitVec 16) (choice : Fin 4) (port : Fin 8) (sm : Fin 512)
  /-- SVC_STOP (R234). CRD_SVC_CTL STOP ends the running service pulse with STOPPED. -/
  | svcStop (pf : Pf) (key : BitVec 16)
  /-- PERIOD_BOUNDARY (R245). A channel's period counter reaches zero, reloads its compare values and schedules the period's edges. -/
  | periodBoundary (ch : Fin 24)
  /-- EDGE_RELEASE (R239). A scheduled edge is released with its enable notch and dead time. -/
  | edgeRelease (ch : Fin 24)
  /-- PWM_LOCKSTEP_MISMATCH (R241). The two copies of the timer logic disagree, so every enable of the port goes low. -/
  | pwmLockstepMismatch (ch : Fin 24)
  /-- PIN_READBACK_FAULT (R365). A PUL or ENA pin differs from the guard's drive and the port is blocked. -/
  | pinReadbackFault (pin : Fin 48)
  /-- CMP_LOSS (R244). A channel's fabric values have been invalid for LOSS_N ticks, so it goes OFF. -/
  | cmpLoss (ch : Fin 24)
  /-- LOADALL_ARM (R248). A write of PWM_LOADALL.ARM arms a load-all transfer. -/
  | loadallArm (pf : Pf) (v : Word)
  /-- SHADOW_WRITE (R250). A host write of PWM_CH_SHD_n stores new compare values for a later reload. -/
  | shadowWrite (pf : Pf) (ch : Fin 24) (rise : BitVec 24) (fall : BitVec 24)
  /-- REFRESH_END (R252). A channel's bootstrap refresh has lasted T_BS and it enters RUN. -/
  | refreshEnd (ch : Fin 24)
  /-- BS_CUT (R260). A HIGH level without the pump has lasted T_HOLD and is cut by a falling edge. -/
  | bsCut (ch : Fin 24)
  /-- TRIP_FILTERED (R254). A trip input has stayed active for TRP_FILT and is accepted, or deferred to its blanking window's end. -/
  | tripFiltered (ch : Fin 24) (off : Nat)
  /-- BLANK_END (R254). A blanking window ends and a trip deferred by it is accepted if still active. -/
  | blankEnd (ch : Fin 24)
  /-- TRIP_RETRY (R255). T_RETRY after a trip, the channel retries if its trip input is inactive. -/
  | tripRetry (ch : Fin 24)
  /-- RETRY_WINDOW_CLOSE (R255). A channel's retry window closes, locking it with cause STUCK where its trip is still active. -/
  | retryWindowClose (ch : Fin 24)
  /-- CLEAR_CH (R258). GGD_CLR CLEAR_CH clears a LOCKED channel where accepted. -/
  | clearCh (pf : Pf) (key : BitVec 16) (index : Fin 32)
  /-- CLEAR_GROUP (R258). GGD_CLR CLEAR_GROUP clears a GLOCKED group where accepted. -/
  | clearGroup (pf : Pf) (key : BitVec 16) (index : Fin 32)
  /-- CLEAR_PORT (R258). GGD_CLR CLEAR_PORT clears HLOCKED where accepted. -/
  | clearPort (pf : Pf) (key : BitVec 16) (index : Fin 32)
  /-- CHAIN_OUTPUT (R279). A filter chain produces an output and forms its result word, window state and validity. -/
  | chainOutput (chain : Fin 32) (codes : List (BitVec 16))
  /-- DCB_HOLD_END (R276). The DC-block freeze held after a window ends after DCB_HOLD outputs. -/
  | dcbHoldEnd (chain : Fin 32)
  /-- SH_FADE_END (R277). A cross-fade finishes and the new bank alone is in force. -/
  | shFadeEnd (chain : Fin 32)
  /-- INVALID_COUNT_END (R284). A chain's invalid count runs out and its outputs become valid. -/
  | invalidCountEnd (chain : Fin 32)
  /-- CHAIN_MISMATCH (R274). The two datapaths of a chain disagree and the chain restarts invalid. -/
  | chainMismatch (chain : Fin 32)
  /-- REF_BUFFER_WRITE (R271). A write of ADC_REF_CTL.EN enables or disables the reference buffer. -/
  | refBufferWrite (pf : Pf) (v : Word)
  /-- PLS_CHECK (R287). The plausibility frame converts a PLS input on both converters of a pair and compares the codes. -/
  | plsCheck (pair : Fin 2) (codes : BitVec 16 × BitVec 16) (frame : Fin 32)
  /-- PLS_FAULT (R288). PLS_N consecutive failed checks make a plausibility fault and may invalidate the pair's chains. -/
  | plsFault (pair : Fin 2) (exp : Bool)
  /-- PLS_CLEAR (R288). PLS_N consecutive passes clear the plausibility fault and the chains restart. -/
  | plsClear (pair : Fin 2)
  /-- CAL_ZERO (R289). ADC_CAL_CTL ZERO starts a zero measurement in a calibration session. -/
  | calZero (pf : Pf) (key : BitVec 16) (chain : Fin 32)
  /-- CAL_FULL (R289). ADC_CAL_CTL FULL starts a full-scale measurement in a calibration session. -/
  | calFull (pf : Pf) (key : BitVec 16) (chain : Fin 32)
  /-- CAL_COMMIT (R289). ADC_CAL_CTL COMMIT computes and stores new calibration coefficients where in range. -/
  | calCommit (pf : Pf) (key : BitVec 16) (chain : Fin 32)
  /-- CAL_END (R289). ADC_CAL_CTL END closes the session and the chain restarts. -/
  | calEnd (pf : Pf) (key : BitVec 16) (chain : Fin 32)
  /-- CAL_DEFAULT (R289). ADC_CAL_CTL DEFAULT restores the factory coefficients for the present gain. -/
  | calDefault (pf : Pf) (key : BitVec 16) (chain : Fin 32)
  /-- CAL_STAT_READ (R290). A read of ADC_CAL_STAT returns FRESH and latches the measurement on its first read. -/
  | calStatRead (pf : Pf)
  /-- CH_CFG_WRITE (R291). A write of FLT_CH_CFG_i changes a chain's settings and starts its invalid count. -/
  | chCfgWrite (pf : Pf) (chain : Fin 32) (v : Word)
  /-- SH_BANK_WRITE (R278). A write to a shaping bank coefficient or exponent is stored or refused. -/
  | shBankWrite (pf : Pf) (chain : Fin 32) (bank : Bool) (tap : Fin 65) (v : Word)
  /-- SH_SWAP_REQUEST (R278). A write of FLT_SH_CTL_i requests a bank swap, taken at the next output or held. -/
  | shSwapRequest (pf : Pf) (chain : Fin 32) (v : Word)
  /-- FLT_RES_STAT_READ (R286). A read of FLT_RES_STAT_i returns FRESH and latches the result word on its first read. -/
  | fltResStatRead (pf : Pf) (chain : Fin 32)
  /-- REC_SET (R297). At a set instant the recorder takes a set, evaluates its triggers and advances its record cycle. -/
  | recSet (drained : Nat)
  /-- REC_ARM (R302). REC_CTL ARM starts filling from IDLE where accepted. -/
  | recArm (pf : Pf) (key : BitVec 16)
  /-- REC_STOP (R302). REC_CTL STOP discards the pre-trigger history or closes a record as truncated. -/
  | recStop (pf : Pf) (key : BitVec 16)
  /-- REC_SWTRIG (R301). REC_CTL SWTRIG sends a software trigger to a unit. -/
  | recSwtrig (pf : Pf) (key : BitVec 16) (unit : Fin 16)
  /-- REC_READ (R311). REC_RD_CTL READ starts copying a CLOSED record to host memory. -/
  | recRead (pf : Pf) (key : BitVec 16) (slot : Fin 256)
  /-- REC_READ_DONE (R311). A record copy completes and RD_DONE is raised. -/
  | recReadDone (ok : Bool)
  /-- REC_ERASE (R311). REC_RD_CTL ERASE empties one CLOSED slot. -/
  | recErase (pf : Pf) (key : BitVec 16) (slot : Fin 256)
  /-- REC_ERASE_ALL (R311). REC_RD_CTL ERASE_ALL empties every CLOSED slot not being read. -/
  | recEraseAll (pf : Pf) (key : BitVec 16) (slot : Fin 256)
  /-- REC_MEAS_FETCH (R312). A write of REC_MEAS_SEL starts fetching one channel's measurements from a slot. -/
  | recMeasFetch (pf : Pf) (v : Word)
  /-- REC_MEAS_STAT_READ (R312). A read of REC_MEAS_STAT returns FRESH and latches the measurements on its first read. -/
  | recMeasStatRead (pf : Pf)
  /-- SYNTH_LOCK (R318). The synthesiser achieves lock and ungates every output, letting MD_0 end. -/
  | synthLock (us : Nat)
  /-- CLOCK_LOSS (R320). REFCLK or synthesiser lock is lost and the always-on domain blocks every output at once. -/
  | clockLoss (ref : Bool)
  /-- CLK_CFG_WRITE (R319). A write of CLK_CFG restarts acquisition where accepted. -/
  | clkCfgWrite (pf : Pf) (v : Word)
  /-- CLK_OUT_WRITE (R321). A write of CLK_OUT_k changes delay and restarts acquisition, or gates CK_ACQ alone. -/
  | clkOutWrite (pf : Pf) (k : Fin 7) (v : Word)
  /-- SYNC_MSG_RX (R325). A Sync or Follow_Up arrives and updates a tracker's offset and rate. -/
  | syncMsgRx (dom : Fin 2) (port : Fin 2) (m : SyncMsg)
  /-- ANNOUNCE_RX (R324). An Announce arrives and enters the best master clock algorithm. -/
  | announceRx (dom : Fin 2) (port : Fin 2) (a : Announce)
  /-- ANNOUNCE_TIMEOUT (R326). No Announce arrives within the timeout on every port and the tracker goes to holdover. -/
  | announceTimeout (dom : Fin 2) (port : Fin 2)
  /-- PDELAY_REQ_RX (R325). A Pdelay_Req arrives and is answered with a one-step Pdelay_Resp. -/
  | pdelayReqRx (port : Fin 2) (dom : Byte) (seq : BitVec 16) (src : BitVec 80) (corr : Int) (turn : Nat)
  /-- PDELAY_REQ_TIMER (R324). The Pdelay interval elapses and a port sends a Pdelay_Req. -/
  | pdelayReqTimer (port : Fin 2)
  /-- PDELAY_RESP_RX (R324). A Pdelay_Resp arrives and updates the port's mean link delay. -/
  | pdelayRespRx (port : Fin 2) (rtt : Nat) (turn : Nat)
  /-- HOLDOVER_LIMIT (R328). A time base has been in holdover for HO_LIMIT and becomes untraceable. -/
  | holdoverLimit (tb : Fin 4)
  /-- STEP_REL (R332). TIM_STEP_CTL STEP_REL requests a relative step pending the next boundary. -/
  | stepRel (pf : Pf) (key : BitVec 16) (tb : Fin 4)
  /-- ALIGN (R332). TIM_STEP_CTL ALIGN requests a step to the source's estimate at the next boundary. -/
  | align (pf : Pf) (key : BitVec 16) (tb : Fin 4)
  /-- DOMSEL_WRITE (R327). A write of TIM_DOMSEL forces the precision-time domain followed. -/
  | domselWrite (pf : Pf) (v : Word)
  /-- TB_FRAC_READ (R337). A read of TIM_TB_FRAC_b latches the rest of the time value. -/
  | tbFracRead (pf : Pf) (tb : Fin 4)
  /-- ETH_LINK_CHANGE (R334). An Ethernet port gains or loses link and its trackers move port or change state. -/
  | ethLinkChange (port : Fin 2) (up : Bool)
  /-- ETH_RX_FRAME (R395). A non-PTP frame arrives and is placed in the oldest posted receive buffer or dropped. -/
  | ethRxFrame (port : Fin 2) (frame : List Byte)
  /-- HEARTBEAT_RX (R343). A partner heartbeat arrives and may start a claim, a yield or a release. -/
  | heartbeatRx (bytes : List Byte) (arrival : Nat)
  /-- RED_CLAIM (R358). RED_CTL CLAIM takes the token in MD_2 or MD_11 where accepted. -/
  | redClaim (pf : Pf) (key : BitVec 16)
  /-- RED_RELEASE (R358). RED_CTL RELEASE releases the token. -/
  | redRelease (pf : Pf) (key : BitVec 16)
  /-- HBK_INHIBIT (R358). RED_CTL HBK_INHIBIT inhibits handback and clears an armed handback entry. -/
  | hbkInhibit (pf : Pf) (key : BitVec 16)
  /-- HBK_ALLOW (R358). RED_CTL HBK_ALLOW lifts the handback inhibit. -/
  | hbkAllow (pf : Pf) (key : BitVec 16)
  /-- SNAP_CHUNK_RX (R350). A snapshot chunk frame arrives, and a complete snapshot with a correct CRC replaces the previous one. -/
  | snapChunkRx (c : SnapChunk)
  /-- SNAP_CHUNK_RETRY (R349). PP_RETRY_INT after a NAK, the holder resends the chunk. -/
  | snapChunkRetry (chunk : Fin 16)
  /-- SB_INPUT (R367). A safety input enters or leaves demand after its off-pulse filter. -/
  | sbInput (ch : SafeCh) (demand : Bool)
  /-- COUPLER_TEST (R369). Every 10 ms each safety coupler is tested and two failures set CPL. -/
  | couplerTest (passA : Bool) (passB : Bool)
  /-- RST_SAFE_RELEASE (R375). The RST_SAFE button is released and the press is classified and judged. -/
  | rstSafeRelease (ms : Nat)
  /-- SAF_ACK (R374). SAF_RST_CTL ACK arms a host acknowledgement for ACK_WIN. -/
  | safAck (pf : Pf) (key : BitVec 16)
  /-- SAF_CANCEL (R374). SAF_RST_CTL CANCEL withdraws the armed acknowledgement. -/
  | safCancel (pf : Pf) (key : BitVec 16)
  /-- CV_CONFIRM (R377). SAF_CV_CTL CONFIRM arms confirmation of the check value, completed by a valid press. -/
  | cvConfirm (pf : Pf) (key : BitVec 16)
  /-- PCIE_FLR (R384). A function-level reset resets one function's configuration and halts its rings. -/
  | pcieFlr (pf : Pf)
  /-- LINK_RETRAIN (R381). HIF_LINK_CTL RETRAIN retrains the PCI Express link. -/
  | linkRetrain (pf : Pf) (v : Word)
  /-- DMA_ERROR (R386). A DMA read times out or completes with an error, ending its request. -/
  | dmaError (u : DmaUser)
  /-- MSIX_UNMASK (R387). A masked vector with its pending bit set is unmasked and sends its message. -/
  | msixUnmask (pf : Pf) (vec : Fin 64)
  /-- EVT_REG_WRITE (R387). A write of TAG_EVT or TAG_EVT_EN clears flags or enables and resends the interrupt where flags remain. -/
  | evtRegWrite (pf : Pf) (fn : Fin 23) (en : Bool) (v : Word)
  /-- RING_ENABLE (R388). A write of STK_RING_CFG_r.ENABLE = 1 starts a ring with PI and CI at zero. -/
  | ringEnable (pf : Pf) (ring : Fin 64) (v : Word)
  /-- RING_DISABLE (R404). A write of ENABLE = 0 stops a ring and aborts its fetched billets. -/
  | ringDisable (pf : Pf) (ring : Fin 64) (v : Word)
  /-- RING_PI_WRITE (R389). The owning function writes a new producer index, or halts the ring with BAD_PI. -/
  | ringPiWrite (pf : Pf) (ring : Fin 64) (v : Word)
  /-- BILLET_FETCH (R398). Fetched billets arrive, are checked and join their ready lists or flow queues. -/
  | billetFetch (ring : Fin 64) (bs : List Billet)
  /-- BILLET_COMPLETE (R393). A billet completes, its results and STATUS are written, CI advances and the next billet moves into service. -/
  | billetComplete (w : Fin 12)
  /-- ETH_TX (R395). An ETH_TX billet sends a frame and returns its departure time. -/
  | ethTx (port : Fin 2) (frame : List Byte)
  /-- ETH_RX_POST (R395). An ETH_RX_POST billet posts a receive buffer that completes when a frame is placed. -/
  | ethRxPost (port : Fin 2)
  /-- MEM_WRITE (R395). A MEM_WRITE billet copies host memory to device memory where the regions allow. -/
  | memWrite (data : List Byte)
  /-- PEEK_BATCH (R396). A PEEK_BATCH billet captures a list of nodes at their next evaluations. -/
  | peekBatch (ids : List (BitVec 16))
  /-- HASH (R395). A HASH billet computes a CRC-32C or SHA-384 of a host buffer. -/
  | hash (data : List Byte)
  /-- TRACE_CLEAR (R405). STK_TRACE_CTL CLEAR empties the scheduling trace. -/
  | traceClear (pf : Pf) (v : Word)
  /-- RICK_POWER (R409). A write of RKS_PWR changes ricks between ON, RET and OFF. -/
  | rickPower (pf : Pf) (v : Word)
  /-- RICK_POWER_DONE (R409). A rick finishes its power transition and zero-fill and becomes accessible. -/
  | rickPowerDone (rick : Fin 16)
  /-- RGN_WRITE (R414). A write to a region register changes a master's access and is logged. -/
  | rgnWrite (pf : Pf) (m : Fin 7) (k : Fin 16) (w : Fin 3) (v : Word)
  /-- SCRUB_NOW (R418). BLK_SCRUB_CTL NOW starts an extra scrub pass. -/
  | scrubNow (pf : Pf) (v : Word)
  /-- PEAT_LINE_WRITE_DONE (R421). A peat store line write completes and is read back, retiring the line on failure. -/
  | peatLineWriteDone (kind : PeatKind) (ok : Bool)
  /-- ARC_ADVANCE (R424). SEC_ARC_CTL advances a host anti-rollback counter. -/
  | arcAdvance (pf : Pf) (key : BitVec 16) (idx : Fin 64)
  /-- KEY_APPLY (R426). SEC_KEY_CTL APPLY verifies and applies a key change. -/
  | keyApply (pf : Pf) (key : BitVec 16) (dmaOk : Bool) (bytes : List Byte)
  /-- UC_LOAD (R428). SEC_UC_CTL LOAD loads microcode into the slot not running. -/
  | ucLoad (pf : Pf) (key : BitVec 16) (slot : Fin 2)
  /-- UC_LOAD_DONE (R428). A microcode load completes and is verified. -/
  | ucLoadDone (dmaOk : Bool) (bytes : List Byte)
  /-- UC_BOOT_NEXT (R428). SEC_UC_CTL BOOT_NEXT makes a microcode slot run from the next MD_0. -/
  | ucBootNext (pf : Pf) (key : BitVec 16) (slot : Fin 2)
  /-- UC_CONFIRM (R428). SEC_UC_CTL CONFIRM advances counter 0 to the running bundle's BUILD. -/
  | ucConfirm (pf : Pf) (key : BitVec 16)
  /-- LOAD_IMAGE (R429). SEC_RCV_CTL LOAD_IMAGE loads an image and makes it the boot slot in halted MD_1. -/
  | loadImage (pf : Pf) (key : BitVec 16) (slot : Fin 2)
  /-- LOAD_UCODE (R429). SEC_RCV_CTL LOAD_UCODE loads microcode and makes it the boot slot in halted MD_1. -/
  | loadUcode (pf : Pf) (key : BitVec 16) (slot : Fin 2)
  /-- ENROLL (R429). SEC_RCV_CTL ENROLL applies a key change as recovery in halted MD_1. -/
  | enroll (pf : Pf) (key : BitVec 16) (dmaOk : Bool) (bytes : List Byte)
  /-- RECOVERY_LOAD_DONE (R429). A recovery load completes and its slot becomes the boot slot where it verifies. -/
  | recoveryLoadDone (dmaOk : Bool) (bytes : List Byte)
  /-- RESTART (R429). SEC_RCV_CTL RESTART restarts Kindle from its first step. -/
  | restart (pf : Pf) (key : BitVec 16)
  /-- KINDLE_DONE (R427). Kindle ends and the transition out of MD_1 is judged, or MD_1 halts. -/
  | kindleDone (selfTestOk : Bool)
  /-- SUPPLY_FAULT (R456). A rail leaves its reset window and the module enters MD_0. -/
  | supplyFault (rail : Fin 12)
  /-- SUPPLY_WARN (R456). A rail leaves its warning window and SUP_WARN is raised. -/
  | supplyWarn (rail : Fin 12)
  /-- TEMP_WARN (R467). A die exceeds its warning threshold and TEMP_WARN is raised. -/
  | tempWarn (die : Fin 4)
  /-- FIO_INPUT_CHANGE (R438). An input's filter counter reaches an end and its filtered level changes. -/
  | fioInputChange (inp : Fin 16) (samples : List Bool)
  /-- FIO_FILTER_FILLED (R440). An input's filter has taken IN_FILT samples since FIO started and its level becomes valid. -/
  | fioFilterFilled (samples : Fin 16 × List Bool)
  /-- INPUT_BREAK (R439). Low current for 10 ms puts an input in BREAK. -/
  | inputBreak (inp : Fin 16)
  /-- INPUT_BREAK_END (R439). Current restored for 10 ms takes an input out of BREAK. -/
  | inputBreakEnd (inp : Fin 16)
  /-- FIELD_SUPPLY_LOW (R441). The field supply falls below 18 V or 15 V, turning outputs off or inputs invalid. -/
  | fieldSupplyLow (mv : BitVec 16)
  /-- FIELD_SUPPLY_OK (R441). The field supply rises above 19 V and the outputs take their levels again. -/
  | fieldSupplyOk (mv : BitVec 16)
  /-- FIELD_OUTPUT_FAULT (R444). An output's readback fails for 1 ms and the common fault bit is set. -/
  | fieldOutputFault (present : Bool)
  /-- FIELD_SILENCE (R446). An output coupler has had no keep-alive for SIL_TIMEOUT and goes to its safe level. -/
  | fieldSilence (mask : BitVec 16)
  /-- FIO_OUT_WR (R442). A write of FIO_OUT_WR sets the masked host outputs or is refused. -/
  | fioOutWr (pf : Pf) (v : Word)
  /-- MGT_WRITE_TXN (R451). An I²C write transaction sets the management port pointer. -/
  | mgtWriteTxn (ptr : BitVec 16) (data : List Byte × Bool)
  /-- MGT_READ_TXN (R452). An I²C read transaction returns bytes from the pointer, latching the live block at 0x0200. -/
  | mgtReadTxn (n : Nat × Bool)
  /-- MON_LIVE_REFRESH (R452). Every 1 ms MON refreshes the live block. -/
  | monLiveRefresh (m : Measured)
  /-- MON_LIVE_READ (R453). A host read of MON_LIVE_0 latches the live block. -/
  | monLiveRead (pf : Pf) (w : Fin 32)
  /-- REG64_LOWER_READ (R15). A read of a 64-bit register's lower word latches its upper word. -/
  | reg64LowerRead (pf : Pf) (addr : BitVec 23)
  /-- REG64_LOWER_WRITE (R15). A write of a 64-bit register's lower word holds it until the upper word. -/
  | reg64LowerWrite (pf : Pf) (addr : BitVec 23) (v : Word)
  /-- REG64_UPPER_WRITE (R15). A write of a 64-bit register's upper word commits both words at once. -/
  | reg64UpperWrite (pf : Pf) (addr : BitVec 23) (v : Word)
  /-- REG_BAD_ACCESS (R14). A non-32-bit or reserved-address access completes without effect and is logged as an access error. -/
  | regBadAccess (pf : Pf) (addr : BitVec 23) (acc : BadAccess)
  /-- REG_WRITE (R18). A write to a register without a row of its own stores its value under its access code. -/
  | regWrite (pf : Pf) (addr : BitVec 23) (v : Word)
  /-- PCIE_LINK_UP (R384). The PCI Express link finishes training after a reset or loss and HIF_EVT.LINK_DOWN is set. -/
  | pcieLinkUp (gen : Fin 4) (width : Fin 3)
  /-- TRP_INACTIVE (R254). A trip input pin leaves its active level, so the filtered trip becomes inactive. -/
  | trpInactive (ch : Fin 24)
  /-- CONFIG_SPACE_WRITE (R382). A PCI Express configuration write changes a function's power state, Memory Space Enable, bus mastering or MSI-X Enable. -/
  | configSpaceWrite (pf : Pf) (f : CfgField)
  /-- MODE_TRANSITION_DONE (R48). A transition's entry action completes, TRANS returns to 0, and any held request or function reset is evaluated against the new mode. -/
  | modeTransitionDone
  /-- TMR_TWO_OF_TWO_DIFFER (R55). The two remaining replicas after a fence differ, which causes a safe stop. -/
  | tmrTwoOfTwoDiffer
  /-- TMR_NO_MAJORITY (R55). No two replicas agree, which causes a safe stop. -/
  | tmrNoMajority
  /-- IMG_ERASE_DONE (R88). The erase of a slot completes DONE. -/
  | imgEraseDone
  /-- IMG_STAGE_DONE (R94). Staging completes with the node pairs fixed and the plane STAGED. -/
  | imgStageDone
  /-- SWG_LOCKSTEP_MISMATCH (R135). The two swing engine cores disagree, so the tick is discarded and the engine soft-starts. -/
  | swgLockstepMismatch
  /-- ENERGY_HOLD_END (R143). The energy account has been invalid for LOSS_N ticks, so the engine falls back to the reserve. -/
  | energyHoldEnd
  /-- RAMP_TARGET_REACHED (R152). The voltage ramp has held its target for BS_SETTLE, which ends the ramp of MD_5 or MD_6. -/
  | rampTargetReached
  /-- INRUSH_LIMIT_EXPIRE (R153). The inrush limit has been active for the inrush time limit, which blocks and releases with cause INRUSH. -/
  | inrushLimitExpire
  /-- SYNC_HOLD_DONE (R155). The close conditions have held for SYNC_HOLD, so the engine starts predicting the close command. -/
  | syncHoldDone
  /-- CLOSE_WINDOW_EXPIRE (R156). The close window ends without a confirmed breaker close, raising BRK_FAIL. -/
  | closeWindowExpire
  /-- SYNC_LIMIT_EXPIRE (R44). The synchronisation time limit is reached and the unit returns to the mode before MD_6. -/
  | syncLimitExpire
  /-- ISLAND_DETECTED (R157). The speed deviation has exceeded ISL_DF for ISL_TIME, detecting islanding. -/
  | islandDetected
  /-- FAULT_CONDITION (R158). A voltage fault threshold is crossed in two consecutive evaluations, giving the fault condition. -/
  | faultCondition
  /-- RECOVERY_MET (R159). The clear condition has held for the recovery count, allowing the exit from MD_8. -/
  | recoveryMet
  /-- RT_LIMIT_EXPIRE (R44). The ride-through time limit is reached and the unit blocks and releases with cause RT_LIMIT. -/
  | rtLimitExpire
  /-- RDL_LOCKSTEP_MISMATCH (R185). The two riddle engine cores disagree, so the tick is discarded and the engine soft-starts. -/
  | rdlLockstepMismatch
  /-- PRE_BYP_CONF_EXPIRE (R189). The bypass is not confirmed within PRE_BYP_CONF, so the sequence fails with cause BYPASS. -/
  | preBypConfExpire
  /-- PRE_SETTLE_DONE (R189). The settling timer reaches PRE_SETTLE and precharge becomes COMPLETE where the voltages are settled. -/
  | preSettleDone
  /-- PRE_OUTPUT_RELEASE (R189). T_L + T_G + 10 ms after a handback release, both precharge outputs turn OFF. -/
  | preOutputRelease
  /-- PRECHG_LIMIT_EXPIRE (R44). Precharge is not complete within the precharge time limit and the unit returns to MD_2. -/
  | prechgLimitExpire
  /-- STOP_LIMIT_EXPIRE (R45). A host stop has not ramped to zero within the stop time limit, so it blocks and logs STOP_FORCED. -/
  | stopLimitExpire
  /-- SERVICE_LIMIT_EXPIRE (R44). The service time limit is reached and MD_11 ends in MD_2. -/
  | serviceLimitExpire
  /-- SVC_PULSE_END (R234). The service pulse has run LEN ticks and ends DONE. -/
  | svcPulseEnd
  /-- HARD_TRIP (R257). The HARD_TRIP pin goes active, gating every enable and locking the port. -/
  | hardTrip
  /-- REF_READY (R271). The reference buffer has been enabled for 5 ms and every chain restarts. -/
  | refReady
  /-- REF_FAULT (R272). The reference leaves its window and every chain output becomes invalid. -/
  | refFault
  /-- REF_RECOVER (R272). The reference has been back inside its window for 1 ms and every chain restarts. -/
  | refRecover
  /-- CAL_MEAS_DONE (R289). A calibration measurement has averaged CAL_AVG outputs and ends DONE, NOISY or INVALID. -/
  | calMeasDone
  /-- REC_START (R302). Once the bulk store is ready after a running mode is entered, the recorder leaves OFF. -/
  | recStart
  /-- REC_AUTO_TIMEOUT (R302). AUTO_TIMEOUT elapses in ARMED and a trigger is forced at the next set. -/
  | recAutoTimeout
  /-- REC_CLOSE_DONE (R302). A record's header is written and its slot CLOSED, and the recorder re-arms or goes IDLE. -/
  | recCloseDone
  /-- REC_MEAS_FETCH_DONE (R312). A measurement fetch completes. -/
  | recMeasFetchDone
  /-- SYNTH_ACQ_TIMEOUT (R318). Acquisition does not lock within 2 ms and restarts. -/
  | synthAcqTimeout
  /-- REFCLK_RETURN (R318). REFCLK has been present for 1 ms after a loss and acquisition restarts. -/
  | refclkReturn
  /-- HEARTBEAT_LOSS (R343). No valid heartbeat for 300 µs, so the heartbeat is absent. -/
  | heartbeatLoss
  /-- TKN_I_RELEASED (R341). No edge on TKN_I for 2 µs, so the partner's token line reads released. -/
  | tknIReleased
  /-- TKN_I_CLAIMING (R341). An edge arrives on a released TKN_I, which reads claiming. -/
  | tknIClaiming
  /-- TKN_READBACK_FAULT (R341). The unit drives the claim signal but sees no readback edge for 2 µs and is not healthy. -/
  | tknReadbackFault
  /-- SILENT_CLAIM (R345). A banked standby's silence reaches T_L and it enters CLAIMING. -/
  | silentClaim
  /-- ORPHAN_CLAIM (R345). A banked standby sees the partner STANDBY with the token released for T_L and claims. -/
  | orphanClaim
  /-- CLAIM_GUARD_EXPIRE (R345). T_G elapses in CLAIMING and the unit becomes HOLDER and restores. -/
  | claimGuardExpire
  /-- LEASE_LAPSE (R347). The lease is not renewed within T_L and the holder releases. -/
  | leaseLapse
  /-- RELEASED_TIMEOUT (R345). T_L + T_G after a release, the unit returns to STANDBY. -/
  | releasedTimeout
  /-- RESTORE_TIMEOUT (R355). The restore's blocking condition is not met 20 ms after HOLDER, raising RESTORE_FAIL. -/
  | restoreTimeout
  /-- PLANE_COPY_REBUILD_DONE (R352). A banked unit finishes rebuilding its plane copy after a commit. -/
  | planeCopyRebuildDone
  /-- HBK_REQUEST (R356). SYNCED has held for HBK_HOLD and the preferred unit requests handback. -/
  | hbkRequest
  /-- SB_DISCREPANCY (R368). The safety inputs disagree for longer than SB_DISC, raising DISC and a demand. -/
  | sbDiscrepancy
  /-- RST_SAFE_PRESS (R375). The RST_SAFE button is pressed. -/
  | rstSafePress
  /-- RST_STUCK (R375). RST_SAFE is still pressed after 5 s and is classified STUCK. -/
  | rstStuck
  /-- RST_STUCK_CLEAR (R375). RST_SAFE has read released for 1 s and STUCK clears. -/
  | rstStuckClear
  /-- ACK_EXPIRE (R374). The acknowledgement lapses after ACK_WIN. -/
  | ackExpire
  /-- PROOF_DUE (R366). SAF_PROOF reaches 8,760 hours and raises PROOF_DUE. -/
  | proofDue
  /-- PCIE_LINK_DOWN (R384). A hot reset, link down or fundamental reset halts every ring and retrains the link. -/
  | pcieLinkDown
  /-- NOP (R395). A NOP billet completes without effect. -/
  | nop
  /-- EVLOG_READ (R395). An EVLOG_READ billet copies event log entries to host memory. -/
  | evlogRead
  /-- MEM_READ (R395). A MEM_READ billet copies device memory to the host where the regions allow. -/
  | memRead
  /-- PTS_READ (R395). A PTS_READ billet copies peat store bytes to the host. -/
  | ptsRead
  /-- PEEK_BATCH_TIMEOUT (R396). A PEEK_BATCH has waited 1,000 ticks and completes PARTIAL. -/
  | peekBatchTimeout
  /-- ATTEST (R431). An ATTEST billet signs an attestation report or returns the rate or exhaustion status. -/
  | attest
  /-- TRACE_READ (R395). A TRACE_READ billet copies scheduling trace entries to the host. -/
  | traceRead
  /-- BLK_READY (R417). The bulk store finishes zeroing and BLK_STAT.READY becomes 1. -/
  | blkReady
  /-- SCRUB_PERIOD (R418). The scrub period elapses and a patrol pass starts. -/
  | scrubPeriod
  /-- SCRUB_DONE (R418). A scrub pass ends and raises SCRUB_DONE. -/
  | scrubDone
  /-- SUPPLY_VALID (R456). Every rail has lain inside its narrowed reset window for 1 ms. -/
  | supplyValid
  /-- RESET_N_LOW (R464). RESET_N is held low for 1 µs and forces MD_0. -/
  | resetNLow
  /-- FIELD_LINK_SILENT (R440). The field link has been silent for 100 µs and the inputs become invalid. -/
  | fieldLinkSilent
  /-- FIELD_CONFIG_RESEND (R446). The logic side sends a full LNK_D configuration on SIL_SEEN or link return. -/
  | fieldConfigResend
  /-- MGT_BUS_TIMEOUT (R451). SCL stays low for 25 ms and the port releases SDA. -/
  | mgtBusTimeout
  /-- RESET_N_RELEASE (R464). RESET_N returns high after holding the module in MD_0, letting the synthesiser acquire and MD_0 end. -/
  | resetNRelease
  /-- BRK_PULSE_END (R442). VAL µs after a BRK_CLOSE entry runs, the breaker close output turns OFF. -/
  | brkPulseEnd
  /-- HARD_TRIP_INACTIVE (R257). The HARD_TRIP pin returns inactive, ending its gating of the ENA pins so that CLEAR_PORT can be accepted. -/
  | hardTripInactive
  /-- SYS_TB_MISMATCH (R365). The two held copies of the SYS time base counter differ in a CK_TIME cycle, raising a block-and-release reaction. -/
  | sysTbMismatch
  /-- CV_CONFIRM_EXPIRE (R376). A check-value confirmation armed by CONFIRM lapses after ACK_WIN without a valid press. -/
  | cvConfirmExpire
deriving DecidableEq, Repr

end Sys2Proof
end

