-- ==== Sys2Proof/Decode.lean ====
section
/-!
DEFINITION. Decoding of a table word. The opcode table gives no bits to any of its rows: a command is an access, a frame, an edge
on a pin or the end of a time, and no word spells it.
-/
namespace Sys2Proof

/-- The command that a table word spells: none, since no row of the table has bits. -/
def decodeTableWord (_nbits _w : Nat) : Option Instr := none

end Sys2Proof
end

