-- ==== Sys2Proof/Config.lean ====
section
/-!
DEFINITION. What this manual leaves open: free values (opaque, without a body, so that no proof can see them) and the
constants that each device or implementation fixes. Each is named in the assumption log.
-/
namespace Sys2Proof

/-- A fresh number each time, for values the manual leaves open; applied to the counter `State.free`. -/
opaque Config.freeValue : Nat → Nat

/-- The rounding error that an operation's stated accuracy leaves open, by operation and operands (R121, R122); every use bounds it. -/
opaque Config.roundErr : Nat → List Int → Int

/-- Fraction bits of the 64-bit fixed-point registers of the swing and riddle engines (R136 gives their width, not their scale). -/
opaque Config.engineFrac : Nat

/-- Whether a P-384 signature verifies: public key, SHA-384 digest of the signed bytes, r and s (R84). -/
opaque Config.ecdsaOk : List Byte → List Byte → List Byte → List Byte → Bool

/-- Whether an LMS signature verifies: public key, message, signature (R84, RFC 8554). -/
opaque Config.lmsOk : List Byte → List Byte → List Byte → Bool

/-- The device's own ECDSA signature (r then s, 96 bytes) over a digest (R433). -/
opaque Config.deviceEcdsa : List Byte → List Byte

/-- The device's own LMS signature (1,932 bytes) over a message with a given leaf (R433). -/
opaque Config.deviceLms : Nat → List Byte → List Byte

/-- The bytes of the identity record that differ from module to module, by their offset: serial number, MAC address, time of manufacture and
public keys (R430). -/
opaque Config.factoryByte : Nat → Byte

/-- K of the module's own trim, Q2.30, by chain and gain code (R289). -/
opaque Config.factoryGain : Nat → Nat → Int

/-- The proportional and integral step of the trackers' loop (R325 gives its bandwidth, not its form): the corrections of offset and rate
for a residual, by SERVO_BW (a BFP value times 2^40), whether the tracker is locked, and the residual. -/
opaque Config.trackerLoop : Int → Bool → Int → Int × Int

/-- Bytes of the N9's own capability record for which R207 states no value. -/
opaque Config.ownRecord : Nat → Byte

/-- SHA-384 digest of the P-384 microcode key held in the boot ROM (chapter Memory, boot and identity). -/
opaque Config.romEcdsaDigest : List Byte

/-- SHA-384 digest of the LMS microcode key held in the boot ROM. -/
opaque Config.romLmsDigest : List Byte

/-- The ECDSA and the LMS public key that a microcode bundle carries (R427 names them and gives no place). -/
opaque Config.bundleKeys : List Byte → List Byte × List Byte

/-- A byte of the peat store's system records region as it is stored (R421 gives no layout of the groups). -/
opaque Config.peatByte : Nat → Nat → Byte

/-- Subsystem Vendor ID and Subsystem ID, which both functions report (R382 gives no values). -/
opaque Config.subsystemIds : Nat × Nat

/-- A byte of the snapshot of the system records in a group's lines as they are stored (R421 gives a line no layout), from the content of the
store's groups. -/
opaque Config.recordByte : List (List Nat) → Nat → Byte

/-- What the check bits of an 8-byte group of the bulk store show at an access (R417): modulo 3, 0 no error, 1 one that is corrected, 2 one that is not. -/
opaque Config.groupState : Nat → Nat → Nat

/-- A byte as read of a group with an uncorrectable error (R417). -/
opaque Config.errByte : Nat → Nat → Byte

end Sys2Proof
end

