-- ==== Sys2Proof/Machine/Tab.lean ====
section
/-!
DEFINITION. Sparse tables in one canonical form: (key, entry) pairs with strictly rising keys and no entry equal to what an
unlisted key reads as. Every addressed store of the block is one of these: the register file, the memories, the lanes, the
submodules, the fabric cells.
-/
namespace Sys2Proof.Machine

/-- A sparse table over keys that are addresses or instance numbers. -/
abbrev Tab (α : Type) := List (Nat × α)

/-- What key `k` holds; `d` is what an unlisted key reads as. -/
def tabGet {α : Type} (d : α) : Tab α → Nat → α
  | [], _ => d
  | (k', v) :: t, k => if k' = k then v else tabGet d t k

/-- The table without key `k`. -/
def tabErase {α : Type} : Tab α → Nat → Tab α
  | [], _ => []
  | (k', v) :: t, k => if k' = k then t else if k < k' then (k', v) :: t else (k', v) :: tabErase t k

/-- The table with key `k` listed as `v`, keys kept rising. -/
def tabInsert {α : Type} : Tab α → Nat → α → Tab α
  | [], k, v => [(k, v)]
  | (k', v') :: t, k, v =>
    if k' = k then (k, v) :: t else if k < k' then (k, v) :: (k', v') :: t else (k', v') :: tabInsert t k v

/-- The table after `v` is written at `k`; writing what an unlisted key reads as removes the entry, so that equal contents are equal data. -/
def tabSet {α : Type} [DecidableEq α] (d : α) (t : Tab α) (k : Nat) (v : α) : Tab α :=
  if v = d then tabErase t k else tabInsert t k v

/-- The table after the entry at `k` is changed by `f`. -/
def tabUpd {α : Type} [DecidableEq α] (d : α) (t : Tab α) (k : Nat) (f : α → α) : Tab α :=
  tabSet d t k (f (tabGet d t k))

/-- Every listed key lies above `lo`, keys rise, and no entry equals the unlisted value `d`. -/
def tabWfFrom {α : Type} [DecidableEq α] (d : Nat → α) : Nat → Tab α → Bool
  | _, [] => true
  | lo, (k, v) :: t => decide (lo ≤ k) && decide (v ≠ d k) && tabWfFrom d (k + 1) t

/-- The canonical form. -/
def tabWf {α : Type} [DecidableEq α] (d : Nat → α) (t : Tab α) : Bool := tabWfFrom d 0 t

end Sys2Proof.Machine
end

