-- ==== Sys2Proof/Machine/Bits.lean ====
section
/-!
DEFINITION. Bit fields, little-endian byte strings (R17), saturating counts, rounding (R20) and scaled integers.
-/
namespace Sys2Proof.Machine

/-- Bits hi:lo of a word, as a number. -/
def field (w : Word) (hi lo : Nat) : Nat := (w.toNat >>> lo) % 2 ^ (hi - lo + 1)

/-- Bit n of a word. -/
def bit (w : Word) (n : Nat) : Bool := w.getLsbD n

/-- A word with value v in the bits from lo up. -/
def at_ (v lo : Nat) : Word := BitVec.ofNat 32 (v <<< lo)

/-- 1 or 0 in bit n. -/
def flagAt (b : Bool) (n : Nat) : Word := if b then at_ 1 n else 0

/-- The mask of bits hi:lo. -/
def maskOf (hi lo : Nat) : Word := at_ (2 ^ (hi - lo + 1) - 1) lo

/-- The words whose bits are OR-ed together. -/
def orAll : List Word → Word
  | [] => 0
  | w :: ws => w ||| orAll ws

/-- `w` with the bits of `m` taken from `v`. -/
def mergeMask (w v m : Word) : Word := (w &&& ~~~m) ||| (v &&& m)

/-- One more, saturating at 2^bits − 1. -/
def satInc (bits n : Nat) : Nat := if n + 1 < 2 ^ bits then n + 1 else 2 ^ bits - 1

/-- n, at most 2^bits − 1. -/
def satNat (bits n : Nat) : Nat := min n (2 ^ bits - 1)

/-- 1 for true. -/
def b2n (b : Bool) : Nat := if b then 1 else 0

/-- Little-endian value of a byte string (R17). -/
def leNat : List Byte → Nat
  | [] => 0
  | b :: bs => b.toNat + 256 * leNat bs

/-- Big-endian value of a byte string. -/
def beNat (bs : List Byte) : Nat := leNat bs.reverse

/-- The low n bytes of a number, little-endian (R17). -/
def leBytes : Nat → Nat → List Byte
  | 0, _ => []
  | n + 1, v => BitVec.ofNat 8 v :: leBytes n (v / 256)

/-- The low n bytes of a number, big-endian. -/
def beBytes (n v : Nat) : List Byte := (leBytes n v).reverse

/-- n zero bytes. -/
def zeros (n : Nat) : List Byte := List.replicate n 0

/-- A byte string cut or zero-filled to n bytes. -/
def padTo (n : Nat) (bs : List Byte) : List Byte := bs.take n ++ zeros (n - bs.length)

/-- Bytes [off, off + n) of a byte string; zero past its end. -/
def sliceBytes (bs : List Byte) (off n : Nat) : List Byte := padTo n (bs.drop off)

/-- Little-endian field of n bytes at an offset. -/
def leAt (bs : List Byte) (off n : Nat) : Nat := leNat (sliceBytes bs off n)

/-- True where every byte is zero. -/
def allZero (bs : List Byte) : Bool := bs.all (· == 0)

/-- ASCII bytes of a string. -/
def ascii (t : String) : List Byte := t.toList.map (fun c => BitVec.ofNat 8 c.toNat)

/-- Two's-complement reading of the low n bits. -/
def toSigned (n v : Nat) : Int :=
  let m := v % 2 ^ n
  if m < 2 ^ (n - 1) then (m : Int) else (m : Int) - (2 ^ n : Nat)

/-- Two's-complement coding in n bits. -/
def ofSigned (n : Nat) (x : Int) : Nat := (x % (2 ^ n : Nat)).toNat

/-- Nearest integer to a / b, ties to even (R20); b is positive. -/
def roundDiv (a : Int) (b : Nat) : Int :=
  let q := a.fdiv b
  let r := a.fmod b
  if 2 * r < b then q else if 2 * r > b then q + 1 else if q % 2 = 0 then q else q + 1

/-- x shifted right by n with rounding to nearest, ties to even (R20). -/
def roundShift (x : Int) (n : Nat) : Int := roundDiv x (2 ^ n)

/-- x brought into lo .. hi. -/
def clampInt (lo hi x : Int) : Int := if x < lo then lo else if x > hi then hi else x

/-- Integer square root, rounded down. -/
def isqrtAux : Nat → Nat → Nat → Nat
  | 0, _, r => r
  | fuel + 1, n, r =>
    let c := r + 2 ^ fuel
    if c * c ≤ n then isqrtAux fuel n c else isqrtAux fuel n r

/-- Integer square root of n < 2^(2 * w), rounded down. -/
def isqrt (w n : Nat) : Nat := isqrtAux w n 0

/-- Square root of n < 2^(2 * w), rounded to the nearest integer (R20); no integer lies half-way. -/
def isqrtNear (w n : Nat) : Nat :=
  let r := isqrt w n
  if n - r * r > r then r + 1 else r

/-- Reads of a list with a default, by number. -/
def nth {α : Type} (d : α) (l : List α) (k : Nat) : α := l.getD k d

/-- The list with entry k replaced; unchanged where there is no such entry. -/
def setNth {α : Type} (l : List α) (k : Nat) (v : α) : List α := l.set k v

/-- The list with entry k changed by f. -/
def updNth {α : Type} (l : List α) (k : Nat) (f : α → α) : List α := l.modify k f

/-- Positions of the entries that satisfy p, lowest first. -/
def idxsFrom {α : Type} (p : α → Bool) : Nat → List α → List Nat
  | _, [] => []
  | k, a :: l => if p a then k :: idxsFrom p (k + 1) l else idxsFrom p (k + 1) l

/-- A word whose bit k is p k, for k below n. -/
def bitsOf (n : Nat) (p : Nat → Bool) : Nat :=
  (List.range n).foldl (fun acc k => if p k then acc + 2 ^ k else acc) 0

end Sys2Proof.Machine
end

