-- ==== Sys2Proof/Machine/RegTab.lean ====
section
/-!
DEFINITION. The register map of BAR0: one entry per register table of the chapters, with the masks of its access codes (R18), its
reset value and whether only PF0 writes it (R19). Offsets are inside the 64 KiB window of the function (R13).
-/
namespace Sys2Proof.Machine

/-- One register, or a row of `n` equal registers `stride` bytes apart. A 64-bit register has its masks over both words (R15). -/
structure RegDef where
  name   : String
  off    : Nat
  n      : Nat
  stride : Nat
  wide   : Bool
  pf0    : Bool
  rw     : Nat
  rws    : Nat
  w1c    : Nat
  wo     : Nat
  ro     : Nat
  reset  : Nat
deriving DecidableEq, Repr

/-- Registers of function 0. -/
def regsSys : List RegDef := [
  ⟨"SYS_FRST", 0x100, 1, 0, false, true, 0, 0, 0, 0x7fffff, 0, 0⟩,
  ⟨"SYS_FRST_STAT", 0x104, 1, 0, false, false, 0, 0, 0, 0, 0x7fffff, 0⟩,
  ⟨"SYS_FRST_REF", 0x108, 1, 0, false, false, 0, 0, 0x7fffff, 0, 0, 0⟩,
  ⟨"SYS_FRST_CNT", 0x10c, 1, 0, false, false, 0, 0x1fffff, 0, 0, 0, 0⟩,
  ⟨"SYS_TICK_OVR", 0x110, 1, 0, false, false, 0, 0xffff0700, 0, 0, 0x3, 0x1⟩,
  ⟨"SYS_MODE", 0x20, 1, 0, false, false, 0, 0, 0, 0, 0x3fbff, 0⟩,
  ⟨"SYS_MODE_REQ", 0x24, 1, 0, false, false, 0, 0, 0, 0xffff00ff, 0, 0⟩,
  ⟨"SYS_MODE_RES", 0x28, 1, 0, false, false, 0, 0, 0, 0, 0xfff, 0⟩,
  ⟨"SYS_MRST", 0x30, 1, 0, false, true, 0, 0, 0, 0xffff0001, 0, 0⟩,
  ⟨"SYS_TMR_STAT", 0x40, 1, 0, false, false, 0, 0xffff0707, 0, 0, 0, 0⟩,
  ⟨"SYS_SA_NS_i", 0x1000, 64, 0x20, false, false, 0xffffffff, 0, 0, 0, 0, 0⟩,
  ⟨"SYS_SA_SECL_i", 0x1004, 64, 0x20, false, false, 0xffffffff, 0, 0, 0, 0, 0⟩,
  ⟨"SYS_SA_SECH_i", 0x1008, 64, 0x20, false, false, 0xffff, 0, 0, 0, 0, 0⟩,
  ⟨"SYS_SA_CTL_i", 0x100c, 64, 0x20, false, false, 0xfffff0f3, 0, 0, 0, 0, 0⟩,
  ⟨"SYS_SA_ARG_i", 0x1010, 64, 0x20, false, false, 0xffffffff, 0, 0, 0, 0, 0⟩,
  ⟨"SYS_SA_VAL_i", 0x1014, 64, 0x20, false, false, 0xffffffff, 0, 0, 0, 0, 0⟩,
  ⟨"SYS_SA_STAT_i", 0x1018, 64, 0x20, false, false, 0, 0, 0, 0, 0xff, 0⟩,
  ⟨"SYS_SA_DELAY_i", 0x101c, 64, 0x20, false, false, 0, 0, 0, 0, 0xffffffff, 0⟩,
  ⟨"SYS_SA_ARMED", 0x200, 1, 0, true, false, 0, 0, 0, 0, 0xffffffffffffffff, 0⟩,
  ⟨"SYS_SA_DONE", 0x208, 1, 0, true, false, 0, 0, 0xffffffffffffffff, 0, 0, 0⟩,
  ⟨"ID", 0, 1, 0, false, false, 0, 0, 0, 0, 0xffffffff, 0⟩,
  ⟨"REV", 0x4, 1, 0, false, false, 0, 0, 0, 0, 0xffffffff, 0⟩,
  ⟨"SYS_TICK_CNT", 0x118, 1, 0, true, false, 0, 0, 0, 0, 0xffffffffffffffff, 0⟩]

/-- Registers of function 1. -/
def regsClk : List RegDef := [
  ⟨"CLK_CFG", 0x10, 1, 0, false, true, 0x1, 0, 0, 0, 0, 0⟩,
  ⟨"CLK_STAT", 0x14, 1, 0, false, false, 0, 0, 0, 0, 0xffff0033, 0⟩,
  ⟨"CLK_OUT_k", 0x100, 7, 0x4, false, true, 0x803f0000, 0, 0, 0, 0x3ff, 0x80000000⟩,
  ⟨"CLK_EVT", 0x40, 1, 0, false, false, 0, 0, 0x1f, 0, 0, 0⟩,
  ⟨"CLK_EVT_EN", 0x44, 1, 0, false, false, 0x1f, 0, 0, 0, 0, 0xe⟩,
  ⟨"CLK_CNT", 0x48, 1, 0, false, false, 0, 0xffffffff, 0, 0, 0, 0⟩,
  ⟨"ID", 0, 1, 0, false, false, 0, 0, 0, 0, 0xffffffff, 0⟩,
  ⟨"REV", 0x4, 1, 0, false, false, 0, 0, 0, 0, 0xffffffff, 0⟩]

/-- Registers of function 2. -/
def regsTim : List RegDef := [
  ⟨"TIM_SEL", 0x10, 1, 0, false, false, 0, 0, 0, 0, 0x3, 0⟩,
  ⟨"TIM_STEP_CTL", 0x20, 1, 0, false, true, 0, 0, 0, 0xffff000f, 0, 0⟩,
  ⟨"TIM_STEP_RES", 0x24, 1, 0, false, false, 0, 0, 0, 0, 0x7, 0⟩,
  ⟨"TIM_DOMSEL", 0x30, 1, 0, false, true, 0x3, 0, 0, 0, 0, 0⟩,
  ⟨"TIM_EVT", 0x40, 1, 0, false, false, 0, 0, 0x3ff, 0, 0, 0⟩,
  ⟨"TIM_EVT_EN", 0x44, 1, 0, false, false, 0x3ff, 0, 0, 0, 0, 0x168⟩,
  ⟨"TIM_TB_STAT_b", 0x110, 4, 0x40, false, false, 0, 0, 0, 0, 0xff, 0x80⟩,
  ⟨"TIM_TB_CNT_b", 0x11c, 4, 0x40, false, false, 0, 0xffffffff, 0, 0, 0, 0⟩,
  ⟨"TIM_DOM_STAT_d", 0x200, 2, 0x40, false, false, 0, 0, 0, 0, 0xffffff17, 0⟩,
  ⟨"ID", 0, 1, 0, false, false, 0, 0, 0, 0, 0xffffffff, 0⟩,
  ⟨"REV", 0x4, 1, 0, false, false, 0, 0, 0, 0, 0xffffffff, 0⟩,
  ⟨"TIM_STEP_VAL", 0x28, 1, 0, true, true, 0xffffffffffffffff, 0, 0, 0, 0, 0⟩,
  ⟨"TIM_TB_FRAC_b", 0x100, 4, 0x40, false, false, 0, 0, 0, 0, 0xffff, 0⟩,
  ⟨"TIM_TB_NS_b", 0x104, 4, 0x40, false, false, 0, 0, 0, 0, 0xffffffff, 0⟩,
  ⟨"TIM_TB_SECL_b", 0x108, 4, 0x40, false, false, 0, 0, 0, 0, 0xffffffff, 0⟩,
  ⟨"TIM_TB_SECH_b", 0x10c, 4, 0x40, false, false, 0, 0, 0, 0, 0xffff, 0⟩,
  ⟨"TIM_TB_ERR_b", 0x114, 4, 0x40, false, false, 0, 0, 0, 0, 0xffffffff, 0⟩,
  ⟨"TIM_TB_RATE_b", 0x118, 4, 0x40, false, false, 0, 0, 0, 0, 0xffffffff, 0⟩,
  ⟨"TIM_DOM_GM_d", 0x208, 2, 0x40, true, false, 0, 0, 0, 0, 0xffffffffffffffff, 0⟩,
  ⟨"TIM_DOM_OFS_d", 0x210, 2, 0x40, false, false, 0, 0, 0, 0, 0xffffffff, 0⟩,
  ⟨"TIM_DOM_PD_d_0", 0x214, 2, 0x40, false, false, 0, 0, 0, 0, 0xffffffff, 0⟩,
  ⟨"TIM_DOM_PD_d_1", 0x218, 2, 0x40, false, false, 0, 0, 0, 0, 0xffffffff, 0⟩]

/-- Registers of function 3. -/
def regsEth : List RegDef := [
  ⟨"ETH_PORT_STAT_p", 0x100, 2, 0x10, false, false, 0, 0, 0, 0, 0xf, 0⟩,
  ⟨"ID", 0, 1, 0, false, false, 0, 0, 0, 0, 0xffffffff, 0⟩,
  ⟨"REV", 0x4, 1, 0, false, false, 0, 0, 0, 0, 0xffffffff, 0⟩]

/-- Registers of function 4. -/
def regsHif : List RegDef := [
  ⟨"HIF_LINK_STAT", 0x10, 1, 0, false, false, 0, 0, 0, 0, 0x1ff, 0⟩,
  ⟨"HIF_LINK_CTL", 0x14, 1, 0, false, true, 0, 0x7, 0, 0x8, 0, 0x4⟩,
  ⟨"HIF_EVT", 0x40, 1, 0, false, false, 0, 0, 0x1f, 0, 0, 0⟩,
  ⟨"HIF_EVT_EN", 0x44, 1, 0, false, false, 0x1f, 0, 0, 0, 0, 0xc⟩,
  ⟨"HIF_CNT", 0x48, 1, 0, false, false, 0, 0xffffffff, 0, 0, 0, 0⟩,
  ⟨"ID", 0, 1, 0, false, false, 0, 0, 0, 0, 0xffffffff, 0⟩,
  ⟨"REV", 0x4, 1, 0, false, false, 0, 0, 0, 0, 0xffffffff, 0⟩]

/-- Registers of function 5. -/
def regsStk : List RegDef := [
  ⟨"STK_STAT", 0x10, 1, 0, false, false, 0, 0, 0, 0, 0x3fff, 0⟩,
  ⟨"STK_EVT", 0x40, 1, 0, false, false, 0, 0, 0xf, 0, 0, 0⟩,
  ⟨"STK_EVT_EN", 0x44, 1, 0, false, false, 0xf, 0, 0, 0, 0, 0x1⟩,
  ⟨"STK_ETH_DROP", 0x50, 1, 0, false, false, 0, 0xffffffff, 0, 0, 0, 0⟩,
  ⟨"STK_TRACE_CTL", 0x100, 1, 0, false, true, 0, 0x3, 0, 0x8, 0, 0⟩,
  ⟨"STK_TRACE_STAT", 0x104, 1, 0, false, false, 0, 0, 0, 0, 0x1ffff, 0⟩,
  ⟨"STK_RING_CFG_r", 0x1010, 64, 0x20, false, true, 0xf90001, 0, 0, 0, 0, 0⟩,
  ⟨"STK_RING_PI_r", 0x1014, 64, 0x20, false, false, 0xffffffff, 0, 0, 0, 0, 0⟩,
  ⟨"STK_RING_CI_r", 0x1018, 64, 0x20, false, false, 0, 0, 0, 0, 0xffffffff, 0⟩,
  ⟨"ID", 0, 1, 0, false, false, 0, 0, 0, 0, 0xffffffff, 0⟩,
  ⟨"REV", 0x4, 1, 0, false, false, 0, 0, 0, 0, 0xffffffff, 0⟩,
  ⟨"STK_WORKER_w", 0x200, 12, 0x4, false, false, 0, 0, 0, 0, 0xe0fc0fff, 0⟩,
  ⟨"STK_RING_BASE_r", 0x1000, 64, 0x20, true, true, 0xffffffffffffffc0, 0, 0, 0, 0, 0⟩,
  ⟨"STK_RING_WB_r", 0x1008, 64, 0x20, true, true, 0xffffffffffffffc0, 0, 0, 0, 0, 0⟩,
  ⟨"STK_RING_SIZE_r", 0x101c, 64, 0x20, false, true, 0x1f, 0, 0, 0, 0, 0x4⟩,
  ⟨"STK_RING_HALT", 0x60, 1, 0, true, false, 0, 0, 0, 0, 0xffffffffffffffff, 0⟩,
  ⟨"STK_RING_CAUSE_r", 0x800, 64, 0x4, false, false, 0, 0, 0, 0, 0xff, 0⟩]

/-- Registers of function 6. -/
def regsRks : List RegDef := [
  ⟨"RKS_PWR", 0x10, 1, 0, false, true, 0xffffffff, 0, 0, 0, 0, 0xaaaaaaaa⟩,
  ⟨"RKS_EVT", 0x40, 1, 0, false, false, 0, 0, 0xf, 0, 0, 0⟩,
  ⟨"RKS_EVT_EN", 0x44, 1, 0, false, false, 0xf, 0, 0, 0, 0, 0xd⟩,
  ⟨"RKS_ERR_CNT", 0x48, 1, 0, false, false, 0, 0, 0, 0, 0xffffffff, 0⟩,
  ⟨"ID", 0, 1, 0, false, false, 0, 0, 0, 0, 0xffffffff, 0⟩,
  ⟨"REV", 0x4, 1, 0, false, false, 0, 0, 0, 0, 0xffffffff, 0⟩,
  ⟨"RKS_PWR_STAT", 0x14, 1, 0, false, false, 0, 0, 0, 0, 0xffffffff, 0⟩,
  ⟨"RKS_RGN_GEN", 0x4c, 1, 0, false, false, 0, 0, 0, 0, 0xffffffff, 0⟩,
  ⟨"RKS_RGN_BASE_0_k", 0x1000, 16, 0x10, false, true, 0xfffff000, 0, 0, 0, 0, 0⟩,
  ⟨"RKS_RGN_LIMIT_0_k", 0x1004, 16, 0x10, false, true, 0xfffff000, 0, 0, 0, 0, 0⟩,
  ⟨"RKS_RGN_CTL_0_k", 0x1008, 16, 0x10, false, true, 0x7, 0, 0, 0, 0, 0⟩,
  ⟨"RKS_RGN_BASE_1_k", 0x1100, 16, 0x10, false, true, 0xfffff000, 0, 0, 0, 0, 0⟩,
  ⟨"RKS_RGN_LIMIT_1_k", 0x1104, 16, 0x10, false, true, 0xfffff000, 0, 0, 0, 0, 0⟩,
  ⟨"RKS_RGN_CTL_1_k", 0x1108, 16, 0x10, false, true, 0x7, 0, 0, 0, 0, 0⟩,
  ⟨"RKS_RGN_BASE_2_k", 0x1200, 16, 0x10, false, true, 0xfffff000, 0, 0, 0, 0, 0⟩,
  ⟨"RKS_RGN_LIMIT_2_k", 0x1204, 16, 0x10, false, true, 0xfffff000, 0, 0, 0, 0, 0⟩,
  ⟨"RKS_RGN_CTL_2_k", 0x1208, 16, 0x10, false, true, 0x7, 0, 0, 0, 0, 0⟩,
  ⟨"RKS_RGN_BASE_3_k", 0x1300, 16, 0x10, false, true, 0xfffff000, 0, 0, 0, 0, 0⟩,
  ⟨"RKS_RGN_LIMIT_3_k", 0x1304, 16, 0x10, false, true, 0xfffff000, 0, 0, 0, 0, 0⟩,
  ⟨"RKS_RGN_CTL_3_k", 0x1308, 16, 0x10, false, true, 0x7, 0, 0, 0, 0, 0⟩,
  ⟨"RKS_RGN_BASE_4_k", 0x1400, 16, 0x10, false, true, 0xfffff000, 0, 0, 0, 0, 0⟩,
  ⟨"RKS_RGN_LIMIT_4_k", 0x1404, 16, 0x10, false, true, 0xfffff000, 0, 0, 0, 0, 0⟩,
  ⟨"RKS_RGN_CTL_4_k", 0x1408, 16, 0x10, false, true, 0x7, 0, 0, 0, 0, 0⟩,
  ⟨"RKS_RGN_BASE_5_k", 0x1500, 16, 0x10, false, true, 0xfffff000, 0, 0, 0, 0, 0⟩,
  ⟨"RKS_RGN_LIMIT_5_k", 0x1504, 16, 0x10, false, true, 0xfffff000, 0, 0, 0, 0, 0⟩,
  ⟨"RKS_RGN_CTL_5_k", 0x1508, 16, 0x10, false, true, 0x7, 0, 0, 0, 0, 0⟩,
  ⟨"RKS_RGN_BASE_6_k", 0x1600, 16, 0x10, false, true, 0xfffff000, 0, 0, 0, 0, 0⟩,
  ⟨"RKS_RGN_LIMIT_6_k", 0x1604, 16, 0x10, false, true, 0xfffff000, 0, 0, 0, 0, 0⟩,
  ⟨"RKS_RGN_CTL_6_k", 0x1608, 16, 0x10, false, true, 0x7, 0, 0, 0, 0, 0⟩]

/-- Registers of function 7. -/
def regsBlk : List RegDef := [
  ⟨"BLK_SCRUB_CTL", 0x14, 1, 0, false, true, 0xff, 0, 0, 0x100, 0, 0x18⟩,
  ⟨"BLK_STAT", 0x10, 1, 0, false, false, 0, 0, 0, 0, 0x3, 0⟩,
  ⟨"BLK_ECC_CNT", 0x18, 1, 0, false, false, 0, 0xffffffff, 0, 0, 0, 0⟩,
  ⟨"BLK_EVT", 0x40, 1, 0, false, false, 0, 0, 0x7, 0, 0, 0⟩,
  ⟨"ID", 0, 1, 0, false, false, 0, 0, 0, 0, 0xffffffff, 0⟩,
  ⟨"REV", 0x4, 1, 0, false, false, 0, 0, 0, 0, 0xffffffff, 0⟩,
  ⟨"BLK_UE_ADDR", 0x1c, 1, 0, false, false, 0, 0, 0, 0, 0xffffffff, 0⟩,
  ⟨"BLK_EVT_EN", 0x44, 1, 0, false, false, 0x7, 0, 0, 0, 0, 0x2⟩]

/-- Registers of function 8. -/
def regsPts : List RegDef := [
  ⟨"PTS_EVT", 0x40, 1, 0, false, false, 0, 0, 0x7, 0, 0, 0⟩,
  ⟨"ID", 0, 1, 0, false, false, 0, 0, 0, 0, 0xffffffff, 0⟩,
  ⟨"REV", 0x4, 1, 0, false, false, 0, 0, 0, 0, 0xffffffff, 0⟩,
  ⟨"PTS_EVT_EN", 0x44, 1, 0, false, false, 0x7, 0, 0, 0, 0, 0x7⟩,
  ⟨"PTS_WEAR", 0x14, 1, 0, false, false, 0, 0, 0, 0, 0xffffffff, 0⟩,
  ⟨"PTS_RETIRED", 0x48, 1, 0, false, false, 0, 0xffffffff, 0, 0, 0, 0⟩]

/-- Registers of function 9. -/
def regsSec : List RegDef := [
  ⟨"SEC_IMG_CTL", 0x100, 1, 0, false, true, 0, 0, 0, 0xffff001f, 0, 0⟩,
  ⟨"SEC_IMG_SRC", 0x108, 1, 0, true, false, 0xffffffffffffffc0, 0, 0, 0, 0, 0⟩,
  ⟨"SEC_IMG_LEN", 0x110, 1, 0, false, false, 0xffffff, 0, 0, 0, 0, 0⟩,
  ⟨"SEC_IMG_STAT", 0x114, 1, 0, false, false, 0, 0, 0, 0, 0xffff1f1f, 0⟩,
  ⟨"SEC_IMG_SLOT_s", 0x120, 2, 0x10, false, false, 0, 0, 0, 0, 0x3f, 0⟩,
  ⟨"SEC_BOOT_STAT", 0x10, 1, 0, false, false, 0, 0, 0, 0, 0xffff3f, 0⟩,
  ⟨"SEC_ARC_CTL", 0x20, 1, 0, false, true, 0, 0, 0, 0xffff003f, 0, 0⟩,
  ⟨"SEC_ATT_STAT", 0x78, 1, 0, false, false, 0, 0, 0, 0, 0x87ffffff, 0⟩,
  ⟨"SEC_EVT", 0x40, 1, 0, false, false, 0, 0, 0x7, 0, 0, 0⟩,
  ⟨"ID", 0, 1, 0, false, false, 0, 0, 0, 0, 0xffffffff, 0⟩,
  ⟨"REV", 0x4, 1, 0, false, false, 0, 0, 0, 0, 0xffffffff, 0⟩,
  ⟨"SEC_IMG_BUILD_s", 0x124, 2, 0x10, false, false, 0, 0, 0, 0, 0xffffffff, 0⟩,
  ⟨"SEC_IMG_HASH32_s", 0x128, 2, 0x10, false, false, 0, 0, 0, 0, 0xffffffff, 0⟩,
  ⟨"SEC_IMG_CV_s", 0x12c, 2, 0x10, false, false, 0, 0, 0, 0, 0xffffffff, 0⟩,
  ⟨"SEC_ARC_VAL", 0x24, 1, 0, false, true, 0xffffffff, 0, 0, 0, 0, 0⟩,
  ⟨"SEC_ARC_RES", 0x28, 1, 0, false, false, 0, 0, 0, 0, 0xf, 0⟩,
  ⟨"SEC_ARC_n", 0x400, 64, 0x4, false, false, 0, 0, 0, 0, 0xffffffff, 0⟩,
  ⟨"SEC_RCV_CTL", 0x30, 1, 0, false, true, 0, 0, 0, 0xffff001f, 0, 0⟩,
  ⟨"SEC_RCV_RES", 0x34, 1, 0, false, false, 0, 0, 0, 0, 0xf, 0⟩,
  ⟨"SEC_KEY_CTL", 0x50, 1, 0, false, true, 0, 0, 0, 0xffff001f, 0, 0⟩,
  ⟨"SEC_KEY_RES", 0x54, 1, 0, false, false, 0, 0, 0, 0, 0xf, 0⟩,
  ⟨"SEC_KEY_SRC", 0x58, 1, 0, true, true, 0xffffffffffffffc0, 0, 0, 0, 0, 0⟩,
  ⟨"SEC_UC_CTL", 0x70, 1, 0, false, true, 0, 0, 0, 0xffff001f, 0, 0⟩,
  ⟨"SEC_UC_STAT", 0x74, 1, 0, false, false, 0, 0, 0, 0, 0xf, 0⟩,
  ⟨"SEC_IDR_w", 0x200, 128, 0x4, false, false, 0, 0, 0, 0, 0xffffffff, 0⟩,
  ⟨"SEC_KEY_ID_e_w", 0x600, 32, 0x4, false, false, 0, 0, 0, 0, 0xffffffff, 0⟩,
  ⟨"SEC_ATT_WAIT", 0x7c, 1, 0, false, false, 0, 0, 0, 0, 0xffffffff, 0⟩,
  ⟨"SEC_EVT_EN", 0x44, 1, 0, false, false, 0x7, 0, 0, 0, 0, 0x7⟩]

/-- Registers of function 10. -/
def regsFab : List RegDef := [
  ⟨"FAB_IMG_CTL", 0x100, 1, 0, false, true, 0, 0, 0, 0xffff003f, 0, 0⟩,
  ⟨"FAB_IMG_STAT", 0x104, 1, 0, false, false, 0, 0, 0, 0, 0x1f0f31, 0⟩,
  ⟨"FAB_IMG_MATCH", 0x108, 1, 0, false, false, 0, 0, 0, 0, 0xffffffff, 0⟩,
  ⟨"FAB_IMG_DROP", 0x10c, 1, 0, false, false, 0, 0, 0, 0, 0xffff, 0⟩,
  ⟨"FAB_STAT", 0x10, 1, 0, false, false, 0, 0, 0, 0, 0xffff07, 0⟩,
  ⟨"FAB_RG_g", 0x20, 4, 0x4, false, false, 0, 0, 0, 0, 0x3ff03ff, 0x1⟩,
  ⟨"FAB_EVT", 0x40, 1, 0, false, false, 0, 0, 0xfff, 0, 0, 0⟩,
  ⟨"FAB_EVT_EN", 0x44, 1, 0, false, false, 0xfff, 0, 0, 0, 0, 0x204⟩,
  ⟨"FAB_ACT_CNT", 0x48, 1, 0, false, false, 0, 0xffffffff, 0, 0, 0, 0⟩,
  ⟨"FAB_SAT_CNT", 0x4c, 1, 0, false, false, 0, 0xffffffff, 0, 0, 0, 0⟩,
  ⟨"FAB_LS_STAT", 0x50, 1, 0, false, false, 0, 0xffff9fff, 0, 0, 0, 0⟩,
  ⟨"FAB_LAST_EVT", 0x54, 1, 0, false, false, 0, 0, 0, 0, 0xf0001fff, 0⟩,
  ⟨"FAB_PEEK_CTL", 0x200, 1, 0, false, false, 0x1fff, 0, 0, 0, 0, 0⟩,
  ⟨"FAB_PEEK_STAT", 0x204, 1, 0, false, false, 0, 0, 0, 0, 0x1f7, 0⟩,
  ⟨"FAB_PEEK_EXP", 0x208, 1, 0, false, false, 0, 0, 0, 0, 0xff, 0⟩,
  ⟨"FAB_PEEK_CNT", 0x20c, 1, 0, false, false, 0, 0, 0, 0, 0xffffffff, 0⟩,
  ⟨"FAB_PEEK_M_j", 0x210, 4, 0x8, false, false, 0, 0, 0, 0, 0xffffffff, 0⟩,
  ⟨"FAB_PEEK_E_j", 0x214, 4, 0x8, false, false, 0, 0, 0, 0, 0x1ff, 0⟩,
  ⟨"ID", 0, 1, 0, false, false, 0, 0, 0, 0, 0xffffffff, 0⟩,
  ⟨"REV", 0x4, 1, 0, false, false, 0, 0, 0, 0, 0xffffffff, 0⟩]

/-- Registers of function 11. -/
def regsSwg : List RegDef := [
  ⟨"SWG_STAT", 0x10, 1, 0, false, false, 0, 0, 0, 0, 0x1fff0f, 0⟩,
  ⟨"SWG_IN_VALID", 0x14, 1, 0, false, false, 0, 0, 0, 0, 0x1ffff, 0⟩,
  ⟨"SWG_BRK", 0x20, 1, 0, false, false, 0, 0, 0, 0, 0xff07, 0⟩,
  ⟨"SWG_EVT", 0x40, 1, 0, false, false, 0, 0, 0xfff, 0, 0, 0⟩,
  ⟨"SWG_EVT_EN", 0x44, 1, 0, false, false, 0xfff, 0, 0, 0, 0, 0x160⟩,
  ⟨"SWG_CNT", 0x48, 1, 0, false, false, 0, 0xffffffff, 0, 0, 0, 0⟩,
  ⟨"SWG_SNAP_CTL", 0x100, 1, 0, false, false, 0, 0, 0, 0x1, 0, 0⟩,
  ⟨"SWG_SNAP_STAT", 0x104, 1, 0, false, false, 0, 0, 0, 0, 0x1ff, 0⟩,
  ⟨"SWG_SNAP_THETA", 0x108, 1, 0, true, false, 0, 0, 0, 0, 0xffffffffffffffff, 0⟩,
  ⟨"ID", 0, 1, 0, false, false, 0, 0, 0, 0, 0xffffffff, 0⟩,
  ⟨"REV", 0x4, 1, 0, false, false, 0, 0, 0, 0, 0xffffffff, 0⟩,
  ⟨"SWG_SNAP_W_j", 0x110, 12, 0x4, false, false, 0, 0, 0, 0, 0xffffffff, 0⟩]

/-- Registers of function 12. -/
def regsRdl : List RegDef := [
  ⟨"RDL_PRE_STAT", 0x20, 1, 0, false, false, 0, 0, 0, 0, 0xffff, 0⟩,
  ⟨"RDL_STAT", 0x10, 1, 0, false, false, 0, 0, 0, 0, 0x73f3f3f, 0⟩,
  ⟨"RDL_EVT", 0x40, 1, 0, false, false, 0, 0, 0x3fff, 0, 0, 0⟩,
  ⟨"RDL_EVT_EN", 0x44, 1, 0, false, false, 0x3fff, 0, 0, 0, 0, 0x2590⟩,
  ⟨"RDL_ARM_N_a", 0x100, 6, 0x20, false, false, 0, 0, 0, 0, 0xfffffbff, 0⟩,
  ⟨"RDL_ARM_SW_a", 0x10c, 6, 0x20, false, false, 0, 0xffffffff, 0, 0, 0, 0⟩,
  ⟨"RDL_ARM_CNT_a", 0x110, 6, 0x20, false, false, 0, 0xffffffff, 0, 0, 0, 0⟩,
  ⟨"RDL_FAIL_CMD", 0x300, 1, 0, false, true, 0, 0, 0, 0xffff7fff, 0, 0⟩,
  ⟨"RDL_FAIL_RES", 0x304, 1, 0, false, false, 0, 0, 0, 0, 0x7, 0⟩,
  ⟨"RDL_SM_SEL", 0x200, 1, 0, false, false, 0xfff, 0, 0, 0, 0, 0⟩,
  ⟨"RDL_SM_STAT", 0x204, 1, 0, false, false, 0, 0, 0, 0, 0x1f0, 0⟩,
  ⟨"RDL_SM_INFO_0", 0x208, 1, 0, false, false, 0, 0, 0, 0, 0xffffffff, 0⟩,
  ⟨"RDL_ID_CTL", 0x600, 1, 0, false, true, 0, 0, 0, 0xffff003f, 0, 0⟩,
  ⟨"RDL_ID_STAT", 0x604, 1, 0, false, false, 0, 0, 0, 0, 0xf01ff, 0⟩,
  ⟨"RDL_ID_C_a", 0x610, 6, 0x4, false, false, 0, 0, 0, 0, 0x3fffffff, 0⟩,
  ⟨"RDL_ID_L_x", 0x630, 3, 0x4, false, false, 0, 0, 0, 0, 0xffffffff, 0⟩,
  ⟨"ID", 0, 1, 0, false, false, 0, 0, 0, 0, 0xffffffff, 0⟩,
  ⟨"REV", 0x4, 1, 0, false, false, 0, 0, 0, 0, 0xffffffff, 0⟩,
  ⟨"RDL_ACCT_W", 0x18, 1, 0, false, false, 0, 0, 0, 0, 0xffffffff, 0⟩,
  ⟨"RDL_ACCT_WNOM", 0x1c, 1, 0, false, false, 0, 0, 0, 0, 0xffffffff, 0⟩,
  ⟨"RDL_ARM_W_a", 0x104, 6, 0x20, false, false, 0, 0, 0, 0, 0xffffffff, 0⟩,
  ⟨"RDL_ARM_V_a", 0x108, 6, 0x20, false, false, 0, 0, 0, 0, 0xffffffff, 0⟩,
  ⟨"RDL_SM_INFO_1", 0x20c, 1, 0, false, false, 0, 0, 0, 0, 0xffffffff, 0⟩,
  ⟨"RDL_SM_INFO_2", 0x210, 1, 0, false, false, 0, 0, 0, 0, 0xffffffff, 0⟩,
  ⟨"RDL_FAIL_a_w", 0x400, 96, 0x4, false, false, 0, 0, 0, 0, 0xffffffff, 0⟩]

/-- Registers of function 13. -/
def regsCrd : List RegDef := [
  ⟨"CRD_SVC_CTL", 0x90, 1, 0, false, true, 0, 0, 0, 0xffffffff, 0, 0⟩,
  ⟨"CRD_SVC_RES", 0x98, 1, 0, false, false, 0, 0, 0, 0, 0xf, 0⟩,
  ⟨"CRD_STAT", 0x10, 1, 0, false, false, 0, 0, 0, 0, 0x3f3f3f, 0⟩,
  ⟨"CRD_EVT", 0x40, 1, 0, false, false, 0, 0, 0xffff, 0, 0, 0⟩,
  ⟨"CRD_EVT_EN", 0x44, 1, 0, false, false, 0xffff, 0, 0, 0, 0, 0x8e0a⟩,
  ⟨"CRD_CMD", 0x80, 1, 0, false, true, 0, 0, 0, 0xfffff1ff, 0, 0⟩,
  ⟨"CRD_CMD_RES", 0x84, 1, 0, false, false, 0, 0, 0, 0, 0x7, 0⟩,
  ⟨"CRD_PORT_STAT_p", 0x100, 6, 0x20, false, false, 0, 0, 0, 0, 0xfff3ff07, 0⟩,
  ⟨"CRD_PORT_CNT_p", 0x108, 6, 0x20, false, false, 0, 0xffffffff, 0, 0, 0, 0⟩,
  ⟨"CRD_LANE_CFG_n", 0x1000, 48, 0x10, false, true, 0x1d, 0, 0, 0, 0, 0⟩,
  ⟨"CRD_LANE_STAT_n", 0x1004, 48, 0x10, false, false, 0, 0, 0, 0, 0xffffffcf, 0⟩,
  ⟨"CRD_LANE_ERR_n", 0x100c, 48, 0x10, false, false, 0, 0xffffffff, 0, 0, 0, 0⟩,
  ⟨"CRD_MGT_CTL", 0x800, 1, 0, false, true, 0, 0, 0, 0xffffffff, 0, 0⟩,
  ⟨"CRD_MGT_RES", 0x804, 1, 0, false, false, 0, 0, 0, 0, 0xffff8f, 0⟩,
  ⟨"ID", 0, 1, 0, false, false, 0, 0, 0, 0, 0xffffffff, 0⟩,
  ⟨"REV", 0x4, 1, 0, false, false, 0, 0, 0, 0, 0xffffffff, 0⟩,
  ⟨"CRD_SVC_LEN", 0x94, 1, 0, false, true, 0x3ff, 0, 0, 0, 0, 0x1⟩,
  ⟨"CRD_PORT_DP_p", 0x104, 6, 0x20, false, false, 0, 0, 0, 0, 0xffffffff, 0⟩,
  ⟨"CRD_PORT_EPOCH_p", 0x10c, 6, 0x20, false, false, 0, 0, 0, 0, 0xffffffff, 0⟩,
  ⟨"CRD_CAP_p_w", 0x400, 96, 0x4, false, false, 0, 0, 0, 0, 0xffffffff, 0⟩,
  ⟨"CRD_MGT_DATA_w", 0x810, 13, 0x4, false, true, 0xffffffff, 0, 0, 0, 0, 0⟩,
  ⟨"CRD_MGT_RDATA_w", 0x850, 13, 0x4, false, false, 0, 0, 0, 0, 0xffffffff, 0⟩,
  ⟨"CRD_LANE_DLY_n", 0x1008, 48, 0x10, false, false, 0, 0, 0, 0, 0xffffffff, 0⟩]

/-- Registers of function 14. -/
def regsRed : List RegDef := [
  ⟨"RED_STAT", 0x10, 1, 0, false, false, 0, 0, 0, 0, 0x3ff77, 0x70⟩,
  ⟨"RED_SNAP", 0x1c, 1, 0, false, false, 0, 0, 0, 0, 0xffffffff, 0xffff0000⟩,
  ⟨"RED_CTL", 0x20, 1, 0, false, true, 0, 0, 0, 0xffff000f, 0, 0⟩,
  ⟨"RED_CTL_RES", 0x24, 1, 0, false, false, 0, 0, 0, 0, 0x7, 0⟩,
  ⟨"RED_EVT", 0x40, 1, 0, false, false, 0, 0, 0x7fff, 0, 0, 0⟩,
  ⟨"RED_EVT_EN", 0x44, 1, 0, false, false, 0x7fff, 0, 0, 0, 0, 0x7f1f⟩,
  ⟨"RED_CNT", 0x48, 1, 0, false, false, 0, 0xffffffff, 0, 0, 0, 0⟩,
  ⟨"RED_CNT2", 0x4c, 1, 0, false, false, 0, 0xffffffff, 0, 0, 0, 0⟩,
  ⟨"RED_PSNAP", 0x54, 1, 0, false, false, 0, 0, 0, 0, 0x1fff, 0⟩,
  ⟨"ID", 0, 1, 0, false, false, 0, 0, 0, 0, 0xffffffff, 0⟩,
  ⟨"REV", 0x4, 1, 0, false, false, 0, 0, 0, 0, 0xffffffff, 0⟩,
  ⟨"RED_EPOCH", 0x14, 1, 0, false, false, 0, 0, 0, 0, 0xffffffff, 0⟩,
  ⟨"RED_EPOCH_P", 0x18, 1, 0, false, false, 0, 0, 0, 0, 0xffffffff, 0⟩,
  ⟨"RED_TAKE_US", 0x50, 1, 0, false, false, 0, 0xffffffff, 0, 0, 0, 0⟩]

/-- Registers of function 15. -/
def regsGgd : List RegDef := [
  ⟨"GGD_STAT", 0x10, 1, 0, false, false, 0, 0, 0, 0, 0x1ffffff, 0⟩,
  ⟨"GGD_LOCK", 0x14, 1, 0, false, false, 0, 0xffffff, 0, 0, 0, 0⟩,
  ⟨"GGD_GLOCK", 0x18, 1, 0, false, false, 0, 0x7f, 0, 0, 0, 0⟩,
  ⟨"GGD_EVT", 0x40, 1, 0, false, false, 0, 0, 0x7fff, 0, 0, 0⟩,
  ⟨"GGD_EVT_EN", 0x44, 1, 0, false, false, 0x7fff, 0, 0, 0, 0, 0x50e4⟩,
  ⟨"GGD_VCH_CNT", 0x50, 1, 0, false, false, 0, 0xffffffff, 0, 0, 0, 0⟩,
  ⟨"GGD_VCH_LAST", 0x54, 1, 0, false, false, 0, 0xfff, 0, 0, 0, 0⟩,
  ⟨"GGD_CLR", 0x80, 1, 0, false, true, 0, 0, 0, 0xfffff01f, 0, 0⟩,
  ⟨"GGD_CLR_RES", 0x84, 1, 0, false, false, 0, 0, 0, 0, 0x7, 0⟩,
  ⟨"GGD_CH_MINP_n", 0x100, 24, 0x10, false, false, 0, 0xffffffff, 0, 0, 0, 0⟩,
  ⟨"GGD_CH_TRIP_n", 0x104, 24, 0x10, false, false, 0, 0xffffffff, 0, 0, 0, 0⟩,
  ⟨"GGD_CH_BS_n", 0x108, 24, 0x10, false, false, 0, 0xffffffff, 0, 0, 0, 0⟩,
  ⟨"GGD_CH_STAT_n", 0x10c, 24, 0x10, false, false, 0, 0, 0, 0, 0x30707, 0⟩,
  ⟨"ID", 0, 1, 0, false, false, 0, 0, 0, 0, 0xffffffff, 0⟩,
  ⟨"REV", 0x4, 1, 0, false, false, 0, 0, 0, 0, 0xffffffff, 0⟩]

/-- Registers of function 16. -/
def regsPwm : List RegDef := [
  ⟨"PWM_LOADALL", 0x14, 1, 0, false, false, 0, 0, 0, 0x1, 0, 0⟩,
  ⟨"PWM_STAT", 0x18, 1, 0, false, false, 0, 0, 0, 0, 0x1ff, 0⟩,
  ⟨"PWM_CH_CTL_n", 0x100, 24, 0x40, false, false, 0x11, 0, 0, 0, 0x20, 0⟩,
  ⟨"PWM_CH_SHD_n", 0x108, 24, 0x40, true, false, 0xffffff00ffffff, 0, 0, 0, 0, 0⟩,
  ⟨"PWM_CH_ACT_n", 0x110, 24, 0x40, true, false, 0, 0, 0, 0, 0xffffff00ffffff, 0⟩,
  ⟨"PWM_CH_STAT_n", 0x118, 24, 0x40, false, false, 0, 0, 0, 0, 0xffff0100, 0⟩,
  ⟨"ID", 0, 1, 0, false, false, 0, 0, 0, 0, 0xffffffff, 0⟩,
  ⟨"REV", 0x4, 1, 0, false, false, 0, 0, 0, 0, 0xffffffff, 0⟩,
  ⟨"PWM_CH_PER_n", 0x11c, 24, 0x40, false, false, 0, 0, 0, 0, 0xfffff, 0⟩,
  ⟨"PWM_CH_PHS_n", 0x120, 24, 0x40, false, false, 0, 0, 0, 0, 0xfffff, 0⟩]

/-- Registers of function 17. -/
def regsAdc : List RegDef := [
  ⟨"ADC_REF_CTL", 0x10, 1, 0, false, true, 0x1, 0, 0, 0, 0, 0x1⟩,
  ⟨"ADC_STAT", 0x14, 1, 0, false, false, 0, 0, 0, 0, 0x1ff0301, 0⟩,
  ⟨"ADC_TRG", 0x18, 1, 0, false, true, 0x83efffff, 0, 0, 0, 0, 0⟩,
  ⟨"ADC_PLS_STAT", 0x20, 1, 0, false, false, 0, 0, 0, 0, 0x3f, 0⟩,
  ⟨"ADC_PLS_CNT", 0x24, 1, 0, false, false, 0, 0xffffffff, 0, 0, 0, 0⟩,
  ⟨"ADC_PLS_CODE_p", 0x28, 2, 0x4, false, false, 0, 0, 0, 0, 0xffffffff, 0⟩,
  ⟨"ADC_EVT", 0x40, 1, 0, false, false, 0, 0, 0x3f, 0, 0, 0⟩,
  ⟨"ADC_EVT_EN", 0x44, 1, 0, false, false, 0x3f, 0, 0, 0, 0, 0xe⟩,
  ⟨"ADC_CAL_CTL", 0x100, 1, 0, false, true, 0, 0, 0, 0xffff1f07, 0, 0⟩,
  ⟨"ADC_CAL_STAT", 0x108, 1, 0, false, false, 0, 0, 0, 0, 0xf1ff, 0⟩,
  ⟨"ID", 0, 1, 0, false, false, 0, 0, 0, 0, 0xffffffff, 0⟩,
  ⟨"REV", 0x4, 1, 0, false, false, 0, 0, 0, 0, 0xffffffff, 0⟩,
  ⟨"ADC_CAL_REF", 0x104, 1, 0, false, true, 0xffffffff, 0, 0, 0, 0, 0⟩,
  ⟨"ADC_CAL_MEAS", 0x10c, 1, 0, false, false, 0, 0, 0, 0, 0xffffffff, 0⟩,
  ⟨"ADC_CAL_SPREAD", 0x110, 1, 0, false, false, 0, 0, 0, 0, 0xffff, 0⟩,
  ⟨"ADC_CAL_OFS_i", 0x400, 32, 0x8, false, false, 0, 0, 0, 0, 0xffffffff, 0⟩,
  ⟨"ADC_CAL_GAIN_i", 0x404, 32, 0x8, false, false, 0, 0, 0, 0, 0xffffffff, 0⟩]

/-- Registers of function 18. -/
def regsFlt : List RegDef := [
  ⟨"FLT_CH_CFG_i", 0x100, 32, 0x20, false, true, 0x1fffe3ff, 0, 0, 0, 0, 0⟩,
  ⟨"FLT_CH_STAT_i", 0x104, 32, 0x20, false, false, 0, 0, 0, 0, 0xfffff1ff, 0⟩,
  ⟨"FLT_RES_STAT_i", 0x10c, 32, 0x20, false, false, 0, 0, 0, 0, 0x30f, 0⟩,
  ⟨"FLT_SH_CTL_i", 0x11c, 32, 0x20, false, true, 0, 0, 0, 0x91ff, 0, 0⟩,
  ⟨"FLT_EVT", 0x40, 1, 0, false, false, 0, 0, 0x3f, 0, 0, 0⟩,
  ⟨"FLT_EVT_EN", 0x44, 1, 0, false, false, 0x3f, 0, 0, 0, 0, 0x31⟩,
  ⟨"FLT_WR_RES", 0x50, 1, 0, false, false, 0, 0, 0, 0, 0x1f0f, 0⟩,
  ⟨"ID", 0, 1, 0, false, false, 0, 0, 0, 0, 0xffffffff, 0⟩,
  ⟨"REV", 0x4, 1, 0, false, false, 0, 0, 0, 0, 0xffffffff, 0⟩,
  ⟨"FLT_RES_i", 0x108, 32, 0x20, false, false, 0, 0, 0, 0, 0xffffffff, 0⟩,
  ⟨"FLT_WIN_HI_i", 0x110, 32, 0x20, false, true, 0xffffff, 0, 0, 0, 0, 0⟩,
  ⟨"FLT_WIN_LO_i", 0x114, 32, 0x20, false, true, 0xffffff, 0, 0, 0, 0, 0⟩,
  ⟨"FLT_WIN_HYST_i", 0x118, 32, 0x20, false, true, 0xffffff, 0, 0, 0, 0, 0⟩,
  ⟨"FLT_OVR_CNT_i", 0xc00, 32, 0x4, false, false, 0, 0xffffffff, 0, 0, 0, 0⟩,
  ⟨"FLT_SH_EXP_i_b", 0x1000, 64, 0x4, false, true, 0xff, 0, 0, 0, 0, 0⟩,
  ⟨"FLT_SH_COEF_i_b_t", 0x2000, 4096, 0x4, false, true, 0xffffffff, 0, 0, 0, 0, 0⟩]

/-- Registers of function 19. -/
def regsRec : List RegDef := [
  ⟨"REC_STAT", 0x10, 1, 0, false, false, 0, 0, 0, 0, 0xfffeff07, 0⟩,
  ⟨"REC_CTL", 0x20, 1, 0, false, true, 0, 0, 0, 0xfffff00f, 0, 0⟩,
  ⟨"REC_CTL_RES", 0x24, 1, 0, false, false, 0, 0, 0, 0, 0x7, 0⟩,
  ⟨"REC_EVT", 0x40, 1, 0, false, false, 0, 0, 0x7ff, 0, 0, 0⟩,
  ⟨"REC_EVT_EN", 0x44, 1, 0, false, false, 0x7ff, 0, 0, 0, 0, 0x342⟩,
  ⟨"REC_IGN_CNT", 0x48, 1, 0, false, false, 0, 0xffffffff, 0, 0, 0, 0⟩,
  ⟨"REC_RD_ADDR", 0x100, 1, 0, true, false, 0xffffffffffffffc0, 0, 0, 0, 0, 0⟩,
  ⟨"REC_RD_CTL", 0x108, 1, 0, false, false, 0, 0, 0, 0xfffff0ff, 0, 0⟩,
  ⟨"REC_RD_STAT", 0x10c, 1, 0, false, false, 0, 0, 0, 0, 0xff0f, 0⟩,
  ⟨"REC_MEAS_SEL", 0x200, 1, 0, false, false, 0xff3f, 0, 0, 0, 0, 0⟩,
  ⟨"REC_MEAS_STAT", 0x204, 1, 0, false, false, 0, 0, 0, 0, 0x1ff, 0⟩,
  ⟨"ID", 0, 1, 0, false, false, 0, 0, 0, 0, 0xffffffff, 0⟩,
  ⟨"REV", 0x4, 1, 0, false, false, 0, 0, 0, 0, 0xffffffff, 0⟩,
  ⟨"REC_DROP_CNT", 0x4c, 1, 0, false, false, 0, 0xffffffff, 0, 0, 0, 0⟩,
  ⟨"REC_RD_LEN", 0x110, 1, 0, false, false, 0, 0, 0, 0, 0xffffffff, 0⟩,
  ⟨"REC_MEAS_MIN", 0x208, 1, 0, false, false, 0, 0, 0, 0, 0xffffffff, 0⟩,
  ⟨"REC_MEAS_MAX", 0x20c, 1, 0, false, false, 0, 0, 0, 0, 0xffffffff, 0⟩,
  ⟨"REC_MEAS_MEAN", 0x210, 1, 0, false, false, 0, 0, 0, 0, 0xffffffff, 0⟩,
  ⟨"REC_MEAS_AUX", 0x214, 1, 0, false, false, 0, 0, 0, 0, 0xffffffff, 0⟩,
  ⟨"REC_DIR_r_0", 0x1000, 256, 0x10, false, false, 0, 0, 0, 0, 0xf000ffff, 0⟩,
  ⟨"REC_DIR_r_1", 0x1004, 256, 0x10, false, false, 0, 0, 0, 0, 0xffffffff, 0⟩,
  ⟨"REC_DIR_r_2", 0x1008, 256, 0x10, false, false, 0, 0, 0, 0, 0xffffffff, 0⟩,
  ⟨"REC_DIR_r_3", 0x100c, 256, 0x10, false, false, 0, 0, 0, 0, 0xffffffff, 0⟩]

/-- Registers of function 20. -/
def regsSaf : List RegDef := [
  ⟨"SAF_STAT", 0x10, 1, 0, false, false, 0, 0xf0000000, 0, 0, 0x3003f7, 0⟩,
  ⟨"SAF_RST_CTL", 0x20, 1, 0, false, true, 0, 0, 0, 0xffff000f, 0, 0⟩,
  ⟨"SAF_RST_RES", 0x24, 1, 0, false, false, 0, 0, 0, 0, 0xf, 0⟩,
  ⟨"SAF_CV_CTL", 0x28, 1, 0, false, true, 0, 0, 0, 0xffff000f, 0, 0⟩,
  ⟨"SAF_EVT", 0x40, 1, 0, false, false, 0, 0, 0x7f, 0, 0, 0⟩,
  ⟨"SAF_EVT_EN", 0x44, 1, 0, false, false, 0x7f, 0, 0, 0, 0, 0x7f⟩,
  ⟨"SAF_CNT", 0x48, 1, 0, false, false, 0, 0xffffffff, 0, 0, 0, 0⟩,
  ⟨"ID", 0, 1, 0, false, false, 0, 0, 0, 0, 0xffffffff, 0⟩,
  ⟨"REV", 0x4, 1, 0, false, false, 0, 0, 0, 0, 0xffffffff, 0⟩,
  ⟨"SAF_CV_VAL", 0x2c, 1, 0, false, true, 0xffffffff, 0, 0, 0, 0, 0⟩,
  ⟨"SAF_CV_CONF", 0x30, 1, 0, false, false, 0, 0, 0, 0, 0xffffffff, 0⟩,
  ⟨"SAF_PROOF", 0x4c, 1, 0, false, false, 0, 0, 0, 0, 0xffffffff, 0⟩]

/-- Registers of function 21. -/
def regsFio : List RegDef := [
  ⟨"FIO_STAT", 0x10, 1, 0, false, false, 0, 0, 0, 0, 0xf000ffff, 0⟩,
  ⟨"FIO_IN", 0x14, 1, 0, false, false, 0, 0, 0, 0, 0xffffffff, 0⟩,
  ⟨"FIO_IN_WB", 0x18, 1, 0, false, false, 0, 0, 0, 0, 0xffff, 0⟩,
  ⟨"FIO_OUT_WR", 0x20, 1, 0, false, true, 0, 0, 0, 0xffffffff, 0, 0⟩,
  ⟨"FIO_OUT_RES", 0x24, 1, 0, false, false, 0, 0, 0, 0, 0x7, 0⟩,
  ⟨"FIO_OUT_HOST", 0x28, 1, 0, false, false, 0, 0, 0, 0, 0xffff, 0⟩,
  ⟨"FIO_OUT_STATE", 0x2c, 1, 0, false, false, 0, 0, 0, 0, 0xffffffff, 0⟩,
  ⟨"FIO_EVT", 0x40, 1, 0, false, false, 0, 0, 0x7f, 0, 0, 0⟩,
  ⟨"FIO_EVT_EN", 0x44, 1, 0, false, false, 0x7f, 0, 0, 0, 0, 0x3b⟩,
  ⟨"ID", 0, 1, 0, false, false, 0, 0, 0, 0, 0xffffffff, 0⟩,
  ⟨"REV", 0x4, 1, 0, false, false, 0, 0, 0, 0, 0xffffffff, 0⟩,
  ⟨"FIO_IN_CNT_i", 0x100, 16, 0x4, false, false, 0, 0xffffffff, 0, 0, 0, 0⟩]

/-- Registers of function 22. -/
def regsMon : List RegDef := [
  ⟨"MON_EVT", 0x40, 1, 0, false, false, 0, 0, 0x7, 0, 0, 0⟩,
  ⟨"MON_EVT_EN", 0x44, 1, 0, false, false, 0x7, 0, 0, 0, 0, 0x3⟩,
  ⟨"MON_MGT_STAT", 0x48, 1, 0, false, false, 0, 0, 0, 0, 0x17f, 0⟩,
  ⟨"ID", 0, 1, 0, false, false, 0, 0, 0, 0, 0xffffffff, 0⟩,
  ⟨"REV", 0x4, 1, 0, false, false, 0, 0, 0, 0, 0xffffffff, 0⟩,
  ⟨"MON_LIVE_w", 0x200, 32, 0x4, false, false, 0, 0, 0, 0, 0xffffffff, 0⟩]

/-- Registers of function n. -/
def regsOf : Nat → List RegDef
  | 0 => regsSys
  | 1 => regsClk
  | 2 => regsTim
  | 3 => regsEth
  | 4 => regsHif
  | 5 => regsStk
  | 6 => regsRks
  | 7 => regsBlk
  | 8 => regsPts
  | 9 => regsSec
  | 10 => regsFab
  | 11 => regsSwg
  | 12 => regsRdl
  | 13 => regsCrd
  | 14 => regsRed
  | 15 => regsGgd
  | 16 => regsPwm
  | 17 => regsAdc
  | 18 => regsFlt
  | 19 => regsRec
  | 20 => regsSaf
  | 21 => regsFio
  | 22 => regsMon
  | _ => []

end Sys2Proof.Machine
end

