-- ==== Sys2Proof/Machine/PartsAdc.lean ====
section
/-!
DEFINITION. State of the converters, the filter chains, plausibility and calibration (chapter 9).
-/
namespace Sys2Proof.Machine

/-- One filter chain (R273 to R286); its settings stand in FLT_CH_CFG_i, the window and the bank registers. -/
structure Chain where
  cfg    : BitVec 32               -- settings in force, as FLT_CH_CFG_i
  due    : Nat                     -- a restart that waits for the output boundary: 1 restart count, 2 channel count
  lines   : List (List Int)        -- delay line of each half-band stage, newest first
  d       : Int                    -- DC estimate
  dOn     : Bool                   -- the DC-block stage has started
  line    : List Int               -- delay line of the shaping stage, newest first
  bank    : Bool                   -- bank in force, or the fade's target: true is B
  fade    : Option (Nat × Nat)     -- a running cross-fade: F, and the last j
  want    : Option (Bool × Nat)    -- a swap that takes effect at the next output boundary
  held    : Option (Bool × Nat)    -- a swap held until the fade ends
  win     : Bool
  hold    : Nat                    -- outputs for which the automatic freeze is still held
  inv     : Nat                    -- remaining invalid outputs (R285)
  hbInv   : Nat                    -- those of them that the half-band stages need
  mism    : Bool                   -- a datapath mismatch holds the outputs invalid
  seq     : Nat
  word    : BitVec 32              -- newest result word
  ovr     : Bool                   -- the newest output was overrange
  full    : Bool                   -- the newest output took a code at full scale
  fresh   : Bool                   -- a valid output since the last latching read
  good    : BitVec 32              -- newest output with VALID = 1
  freshWas : Bool                  -- `fresh` and `good` as they were before the newest output
  goodWas : BitVec 32
  last    : BitVec 16              -- newest converter code that entered the chain
  rep     : Option Nat             -- the code of the next output whose frame went to a plausibility check (R287)
  lat     : BitVec 32              -- FLT_RES_i
deriving DecidableEq, Repr

/-- A chain as MD_0 leaves it. -/
def Chain.reset : Chain :=
  { cfg := 0, due := 0, lines := List.replicate 5 [], d := 0, dOn := false, line := [], bank := false, fade := none, want := none, held := none, win := false
    hold := 0, inv := 0, hbInv := 0, mism := false, seq := 0, word := 0, ovr := false, full := false, fresh := false, good := 0, freshWas := false, goodWas := 0
    last := 0, rep := none, lat := 0 }

/-- Plausibility of one pair (R287, R288). -/
structure Pls where
  c0    : Nat
  c1    : Nat
  fails : Nat
  oks   : Nat
  fail  : Bool
  exp   : Bool
  act   : Bool
deriving DecidableEq, Repr

/-- A measurement in progress (R289). -/
structure CalMeas where
  full : Bool
  skip : Nat                       -- outputs still discarded
  n    : Nat
  sum  : Int
  lo   : Int
  hi   : Int
deriving DecidableEq, Repr

/-- A calibration session (R289, R290). -/
structure Cal where
  chain  : Option Nat              -- the chain of the open session
  meas   : Option CalMeas
  zero   : Option Int              -- DONE result of ZERO, Q1.31
  full   : Option Int
  stat   : Nat
  cmd    : Nat
  mean   : Int                     -- mean of the last measurement, Q1.31
  spread : Nat                     -- its spread in 16-bit LSB
  seq    : Nat
  fresh  : Bool
  latCmd : Nat
  latSeq : Nat
  latMean : Int
  latSpread : Nat
  new    : List (Nat × Int × Int)  -- coefficients committed in the session, by chain × 4 + gain code, used from the first output after END
  save   : List (Nat × Option (BitVec 64)) -- stored coefficients that wait for their peat line write, by chain × 4 + gain code
deriving DecidableEq, Repr

/-- ADC and FLT. -/
structure Adc where
  chains   : List Chain
  refRdy   : Bool
  refFault : Bool
  refWait  : Bool                  -- REF_WAIT was raised in this wait
  pls      : List Pls
  cal      : Cal
  coef     : List (Int × Int)      -- z (Q1.31) and K (Q2.30) in force, by chain × 4 + gain code
  wrRes    : Nat                   -- FLT_WR_RES.STATUS
  wrCh     : Nat
deriving DecidableEq, Repr

/-- No session. -/
def Cal.reset : Cal := ⟨none, none, none, none, 0, 0, 0, 0, 0, false, 0, 0, 0, 0, [], []⟩

/-- ADC and FLT as MD_0 leaves them; the coefficients come back from the peat store in Kindle. -/
def Adc.reset : Adc :=
  ⟨List.replicate 32 Chain.reset, false, false, false, List.replicate 2 ⟨0, 0, 0, 0, false, false, false⟩, Cal.reset,
    List.replicate 128 (0, 0), 0, 0⟩

end Sys2Proof.Machine
end

