-- ==== Sys2Proof/Machine/LineCode.lean ====
section
/-!
DEFINITION. Characters and ordered sets of the fibre links (R202 to R204): the 8b/10b code with its running disparity, and what a lane's
received characters hold. A running disparity is true where it is positive; bit 0 of a code group is its bit a, which is sent first.
-/
namespace Sys2Proof.Machine

/-- A character: the comma K28.5 or a data byte. -/
inductive Sym where
  | comma
  | data (b : Byte)
deriving DecidableEq, Repr

/-! ### The code (R202; the tables are those of IEEE 802.3 Clause 36, PRESUMED) -/

/-- The six-bit sub-blocks of D0 to D31 at negative disparity. -/
def sixBits : List Nat := [
  57, 46, 45, 35, 43, 37, 38, 7, 39, 41, 42, 11, 44, 13, 14, 58,
  54, 49, 50, 19, 52, 21, 22, 23, 51, 25, 26, 27, 28, 29, 30, 53]

/-- The four-bit sub-blocks of .0 to .7 at negative disparity. -/
def fourBits : List Nat := [13, 9, 10, 3, 11, 5, 6, 7]

/-- Ones among the low n bits. -/
def onesOf (n v : Nat) : Nat := ((List.range n).filter v.testBit).length

/-- The running disparity after a sub-block of n bits; `low` and `high` are its two balanced sub-blocks that fix it. -/
def subDisparity (n low high : Nat) (rd : Bool) (v : Nat) : Bool :=
  let k := onesOf n v
  if 2 * k > n || v = high then true else if 2 * k < n || v = low then false else rd

/-- The running disparity after a code group. -/
def nextDisparity (rd : Bool) (c : Nat) : Bool := subDisparity 4 3 12 (subDisparity 6 7 56 rd (c % 64)) (c / 64)

/-- The six-bit sub-block of x. -/
def encodeSix (rd : Bool) (x : Nat) : Nat :=
  let v := nth 0 sixBits x
  if rd && (2 * onesOf 6 v ≠ 6 || x = 7) then 63 - v else v

/-- The four-bit sub-block of y after the sub-block of x, with the alternate .7 that avoids five equal bits. -/
def encodeFour (rd : Bool) (x y : Nat) : Nat :=
  let v := if y = 7 && (if rd then [11, 13, 14].contains x else [17, 18, 20].contains x) then 14 else nth 0 fourBits y
  if rd && (2 * onesOf 4 v ≠ 4 || y = 3) then 15 - v else v

/-- The code group of a character. -/
def encodeSym (rd : Bool) : Sym → Nat
  | .comma => if rd then 1023 - 380 else 380
  | .data b =>
    let a := encodeSix rd (b.toNat % 32)
    a + 64 * encodeFour (subDisparity 6 7 56 rd a) (b.toNat % 32) (b.toNat / 32)

/-- The code groups of a string of characters, with the running disparity after them. -/
def encodeSyms : Bool → List Sym → List (BitVec 10) × Bool
  | rd, [] => ([], rd)
  | rd, x :: l =>
    let c := encodeSym rd x
    let r := encodeSyms (nextDisparity rd c) l
    (BitVec.ofNat 10 c :: r.1, r.2)

/-- The character of a code group; none where it violates the code or the running disparity. -/
def decodeGroup (rd : Bool) (c : Nat) : Option Sym :=
  if c = encodeSym rd .comma then some .comma
  else
    match (List.range 32).find? (fun x => encodeSix rd x = c % 64) with
    | none => none
    | some x =>
      let mid := subDisparity 6 7 56 rd (c % 64)
      ((List.range 8).find? (fun y => encodeFour mid x y = c / 64)).map (fun y => .data (BitVec.ofNat 8 (x + 32 * y)))

/-- The characters of received code groups, with the running disparity after them. Before its first comma a receiver is not aligned, and takes
nothing; the comma gives it its disparity. -/
def decodeGroups : Option Bool → List (BitVec 10) → List (Option Sym) × Option Bool
  | rd, [] => ([], rd)
  | some rd, c :: l =>
    let r := decodeGroups (some (nextDisparity rd c.toNat)) l
    (decodeGroup rd c.toNat :: r.1, r.2)
  | none, c :: l =>
    if c.toNat = encodeSym false .comma || c.toNat = encodeSym true .comma then
      let r := decodeGroups (some (c.toNat = encodeSym false .comma)) l
      (some .comma :: r.1, r.2)
    else decodeGroups none l

/-! ### Ordered sets (R203) -/

/-- Type bytes of the ordered sets. -/
def setFIL : Nat := 1
def setSOF : Nat := 2
def setEOF : Nat := 3
def setSOM : Nat := 4
def setEOM : Nat := 5
def setTS1 : Nat := 6
def setTS2 : Nat := 7
def setDlyReq : Nat := 8
def setSLP : Nat := 10
def setWAK : Nat := 11

/-- The characters of an ordered set. -/
def setSyms (type a b : Nat) : List Sym :=
  [.comma, .data (BitVec.ofNat 8 type), .data (BitVec.ofNat 8 a), .data (BitVec.ofNat 8 b)]

/-! ### What a lane has received -/

/-- What the characters of a lane hold: the part of an ordered set, a frame or a packet that has begun, the uplink frames that are complete, each
with the code errors within it, the management packets, the fillers, and every code error. -/
structure Received where
  part   : List Sym                  -- the characters of an ordered set that has begun
  within : Nat                       -- 0 the gap, 1 an uplink frame, 2 a packet, 3 a frame of another kind or lane
  cur    : List Byte                 -- its bytes so far, last first
  curErr : Nat
  frames : List (List Byte × Nat)
  packets : List (List Byte)
  fils   : Nat
  errs   : Nat
deriving DecidableEq, Repr

/-- Nothing received. -/
def Received.none : Received := ⟨[], 0, [], 0, [], [], 0, 0⟩

/-- What stays for the next tick: what has begun and is not complete. -/
def Received.rest (r : Received) : Received := { r with frames := [], packets := [], fils := 0, errs := 0 }

/-- A code error (R202, R203). -/
def Received.error (r : Received) : Received := { r with errs := r.errs + 1, curErr := r.curErr + 1, part := [] }

/-- An ordered set on lane j of its port; one of an unlisted type is discarded and counts as a code error (R203). -/
def Received.set (j : Nat) (r : Received) (type a b : Nat) : Received :=
  let r := { r with part := [] }
  match type with
  | 1 => { r with fils := r.fils + 1 }
  | 2 => { r with within := if a = 1 && b = j then 1 else 3, cur := [], curErr := 0 }
  | 3 => { r with within := 0, frames := if r.within = 1 then r.frames ++ [(r.cur.reverse, r.curErr)] else r.frames }
  | 4 => { r with within := 2, cur := [], curErr := 0 }
  | 5 => { r with within := 0, packets := if r.within = 2 then r.packets ++ [r.cur.reverse] else r.packets }
  | _ => if 6 ≤ type && type ≤ 12 then r else r.error

/-- One character of lane j of a port, or none where its code group is no character. -/
def Received.char (j : Nat) (r : Received) (x : Option Sym) : Received :=
  match x, r.part with
  | Option.none, _ => r.error
  | some .comma, [] => { r with part := [.comma] }
  | some .comma, _ :: _ => { r.error with part := [.comma] }
  | some (.data b), [] => if r.within = 0 then r else { r with cur := b :: r.cur }
  | some (.data b), [.comma, .data t, .data a] => r.set j t.toNat a.toNat b.toNat
  | some (.data b), l => { r with part := l ++ [.data b] }

/-- The characters of lane j of a port, one after the other. -/
def Received.take (j : Nat) (xs : List (Option Sym)) (r : Received) : Received := xs.foldl (Received.char j) r

/-! ### The PRBS31 pattern (R237; the sequence of x³¹ + x²⁸ + 1, PRESUMED) -/

/-- The pattern generator and checker of a lane: the last 31 bits sent and received, last bit lowest, how many of them have come, up to 31, and
the received bits that differed from the pattern. -/
structure Prbs where
  tx   : Nat
  rx   : Nat
  seen : Nat
  bad  : Nat
deriving DecidableEq, Repr

/-- The bit that follows 31 bits of the pattern. -/
def prbsBit (r : Nat) : Bool := r.testBit 30 != r.testBit 27

/-- The last 31 bits after one more. -/
def prbsShift (r : Nat) (b : Bool) : Nat := (2 * r + b.toNat) % 2 ^ 31

/-- The next ten bits of the pattern, the first one lowest, with the generator after them. -/
def prbsGroup (r : Nat) : Nat × Nat :=
  (List.range 10).foldl (fun x k => (x.1 + (prbsBit x.2).toNat * 2 ^ k, prbsShift x.2 (prbsBit x.2))) (0, r)

/-- The next n groups of ten bits, with the generator after them. -/
def prbsGroups : Nat → Nat → List (BitVec 10) × Nat
  | 0, r => ([], r)
  | n + 1, r =>
    let x := prbsGroup r
    let y := prbsGroups n x.2
    (BitVec.ofNat 10 x.1 :: y.1, y.2)

/-- A received bit is held against the 31 before it. -/
def Prbs.check (p : Prbs) (b : Bool) : Prbs :=
  { p with rx := prbsShift p.rx b, seen := min 31 (p.seen + 1), bad := p.bad + (decide (p.seen = 31) && b != prbsBit p.rx).toNat }

/-- The ten bits of each received group are held against the pattern. -/
def Prbs.take (p : Prbs) (gs : List (BitVec 10)) : Prbs :=
  gs.foldl (fun p g => (List.range 10).foldl (fun p k => p.check (g.getLsbD k)) p) p

end Sys2Proof.Machine
end

