-- ==== Sys2Proof/Machine/PartsSys.lean ====
section
/-!
DEFINITION. State of the mode controller, the scheduled-action unit, the event log and the two stores' records (chapters 1, 2, 15).
-/
namespace Sys2Proof.Machine

/-- The twelve operating modes (R41). -/
inductive Mode where
  | md0 | md1 | md2 | md3 | md4 | md5 | md6 | md7 | md8 | md9 | md10 | md11
deriving DecidableEq, Repr

/-- The transitions whose entry action does not complete in the tick in which it starts (R48). -/
inductive Trans where
  | stopRamp      -- a host stop ramps the current references down (R45)
  | toBanked      -- entry to MD_3 until the control domains are off
  | fromBanked    -- exit from MD_3 until the planes are loaded
  | restore       -- exit from MD_3 until the snapshot is restored (R355)
  | firstCommand  -- entry to MD_4, MD_5 or MD_6 until the first deblock or charging command
deriving DecidableEq, Repr

/-- Where a mode request comes from (R49 ranks 6 to 8). -/
inductive Origin where
  | pf0 | pf1 | entry (k : Nat)
deriving DecidableEq, Repr

/-- A mode request of the host or of a scheduled MODE entry (R51, R61). -/
structure Req where
  target : Nat
  seq    : Nat
  origin : Origin
  num    : Nat               -- number of the host write, so that SYS_MODE_RES follows the last one (R52)
deriving DecidableEq, Repr

/-- The rows of the transition table in its order, by the condition that takes them (R44). -/
inductive Row where
  | toReset | resetDone | kindleLaid | kindleSafe | kindleHalt
  | bank | unbank | claimed | precharge | service
  | liveClosed | liveOpen | deadClosed | prechargeBack | prechargeLimit
  | rampDone | inrush | closed | syncBack | syncLimit
  | faultForm | gridLoss | faultIsland | resync | recovered | rtLimit
  | stop | handback | blockRelease | serviceEnd | serviceLimit | safe | reset
deriving DecidableEq, Repr

/-- A cause of a mode change that waits for the vote (R47, R49). -/
structure Cause where
  row    : Row
  target : Mode
  origin : Option Origin
  seq    : Nat
deriving DecidableEq, Repr

/-- One scheduled-action entry (R57): the six words the host writes, and the outcome. -/
structure SaEntry where
  ns     : Word
  secl   : Word
  sech   : Word
  ctl    : Word
  arg    : Word
  val    : Word
  armed  : Bool
  status : Nat
  res    : Nat
  delay  : Word
deriving DecidableEq, Repr

/-- An entry as MD_0 leaves it. -/
def SaEntry.empty : SaEntry := ⟨0, 0, 0, 0, 0, 0, false, 0, 0, 0⟩

/-- The mode controller (R41 to R56) and the tick (R27 to R30). -/
structure Sys where
  mode      : Mode
  prev      : Mode
  cause     : Nat
  halt      : Bool
  trans     : Option Trans
  before6   : Mode          -- the mode before MD_6
  held      : Option Req
  requests  : List Req      -- requests that wait for their vote
  reqNum    : Nat           -- host writes of SYS_MODE_REQ and refused SYS_MRST so far
  live      : Option Req    -- the request whose transition is in progress
  resTarget : Nat
  resSeq    : Nat
  resStatus : Nat
  causes    : List Cause
  blockNext : Bool          -- a block-and-release reaction that blocks at the next frame
  relCause  : Nat           -- cause of the release that goes with it, as the heartbeat codes it (R343)
  tickCnt   : Nat
  tickCode  : Nat           -- SYS_TICK_OVR.TICK
  bound     : Nat           -- the last tick boundary, in ns of the SYS time base
  ovrAt     : Option Nat    -- tick count of the first overrun of a pair (R30)
  repeatNext : Bool         -- the next frames repeat the last completed bits (R30)
  mrst      : Bool          -- the last MD_0 came from SYS_MRST (R54)
  late      : Bool          -- a safe stop came after phase F had begun: the next frames leave as built (R370)
deriving DecidableEq, Repr

/-- Function resets (R36 to R40). -/
structure Frst where
  inReset : Nat             -- bit n: function n is in reset or not yet ready
  held    : Nat             -- bit n: a request held until a transition completes (R37)
deriving DecidableEq, Repr

/-- The three replicas of the mode controller (R55, R56). -/
structure Tmr where
  masked : Option (Fin 3)
  fenced : Option (Fin 3)
  resync : List (Option Nat) -- per replica, the tick count of its last resynchronisation
  dead   : Bool              -- the remaining replicas differ, or no two agree
deriving DecidableEq, Repr

/-- The event log ring (R415): the next sequence number and the entries by ring slot, each 32 bytes. -/
structure EvLog where
  next : Nat
  ring : Tab (BitVec 256)
deriving DecidableEq, Repr

/-- One entry of the key table (R425). -/
structure KeyEntry where
  ecdsa : List Byte
  lms   : List Byte
deriving DecidableEq, Repr

/-- One image slot of the peat store (R88). -/
structure ImgSlot where
  bytes     : List Byte
  valid     : Bool
  confirmed : Bool
deriving DecidableEq, Repr

/-- An empty image slot. -/
def ImgSlot.empty : ImgSlot := ⟨[], false, false⟩

/-- One line of a system record's group (R421): its update number, whether its CRC is correct, and the content it carries. -/
structure RLine where
  upd  : Nat
  good : Bool
  val  : List Nat
deriving DecidableEq, Repr

/-- A group of 256 lines (R421): the next line in rotation, the last update number, the lines written, and the lines retired. -/
structure RGroup where
  next  : Nat
  upd   : Nat
  lines : Tab RLine
  dead  : List Nat
deriving DecidableEq, Repr

/-- A group of which nothing is written. -/
def RGroup.empty : RGroup := ⟨0, 0, [], []⟩

/-- A write that waits for banks (R422): of a record's group, a slot of the snapshot ring or a slot of an image or of microcode (2 and 3), with its
next line, its number of lines, and what a ring slot takes. -/
structure PJob where
  kind  : PeatKind
  group : Nat
  pos   : Nat
  total : Nat
  data  : List Byte
deriving DecidableEq, Repr

/-- A line that a bank writes. -/
structure PLine where
  kind  : PeatKind
  group : Nat
  pos   : Nat
  data  : List Byte
deriving DecidableEq, Repr

/-- What the peat store keeps through a loss of supply (R420, R421): image and microcode slots, the snapshot ring and the system records; and its
controller, whose writes do not outlive it (R422). -/
structure Peat where
  slots     : List ImgSlot
  uc        : List ImgSlot
  ring      : Tab (List Byte)    -- snapshot ring slots that hold a written snapshot (R351)
  ringNext  : Nat
  epoch     : Nat
  epochOk   : Bool               -- some copy of the epoch record reads back (R421)
  arc       : Tab Nat            -- anti-rollback counters (R424)
  leaf      : Nat                -- LMS leaves used over both trees (R433)
  reports   : Nat                -- reports signed since manufacture (R434)
  checkVal  : Option Word        -- confirmed check value (R376)
  proof     : Nat                -- proof hours (R366)
  failed    : Tab Nat            -- failed map: arm × 512 + submodule to REASON (R169)
  mapArms   : List (Nat × Nat)   -- N_SM and SM_TYPE of each arm under which that map was made
  calib     : Tab (BitVec 64)    -- stored calibration coefficients (R289)
  bootSlot  : Nat
  bootUc    : Nat
  keys      : Tab KeyEntry       -- enabled entries of the key table
  wear      : Nat                -- highest write count of any line
  retired   : Nat
  recs      : Tab RGroup         -- groups of the system records, two numbers for each record (R421)
  queue     : List PJob          -- writes that wait, oldest first (R422)
  banks     : List PLine         -- at most four lines that are being written
  wears     : Tab Nat            -- write count of each line of the store (R423)
deriving DecidableEq, Repr

/-- Ricks, bulk store and peat controller (R407 to R423). -/
structure Mem where
  dev      : Tab Byte            -- ricks and bulk store by device address (R407)
  pwr      : List Nat            -- state of each rick: 0 OFF, 1 RET, 2 ON, 3 TRANS
  rgnGen   : Nat
  parity   : Nat
  deny     : Nat
  blkReady : Bool
  scrub    : Bool
  ueAddr   : Word
deriving DecidableEq, Repr

/-- The security engine's commands and the result of Kindle (R88 to R91, R424 to R434). -/
structure Sec where
  imgStatus : Nat
  imgState  : Nat
  imgSlot   : Nat
  imgKib    : Nat
  imgLen    : Nat                  -- SEC_IMG_LEN at the start of the LOAD
  active    : Nat
  bootImg   : Nat                  -- image slot booted by the last Kindle
  ucSlot    : Nat
  ucLoading : Option Nat
  rcv       : Option (Bool × Nat)  -- a recovery load in progress: true for an image, and its slot
  rcvRes    : Nat
  arcRes    : Nat
  keyRes    : Nat
  ucStat    : Nat
  bootRes   : Nat
  bootFirst : Nat
  bootOther : Nat
  idKnown   : Bool                 -- the identity record and counters were read (R427 step 1)
  attWait   : Nat                  -- ns until a report is allowed (R432)
  arcPend   : Option (Nat × Nat)
deriving DecidableEq, Repr

end Sys2Proof.Machine
end

