-- ==== Sys2Proof/Machine/PartsImg.lean ====
section
/-!
DEFINITION. The parsed content of a charge image (chapter 3) and the fabric's two configuration planes.
-/
namespace Sys2Proof.Machine

/-- A parameter record (R73). -/
structure ParamRec where
  pid   : Nat
  kind  : Nat
  exp   : Int
  index : Nat
  sym   : Nat
  value : BitVec 64
deriving DecidableEq, Repr

/-- A node record (R77): the common part, and the 64 type-specific bytes from 0x20 on (R78). -/
structure NodeRec where
  id       : Nat
  type     : Nat
  sub      : Nat
  rg       : Nat
  phase    : Nat
  order    : Nat
  sym      : Nat
  inFirst  : Nat
  inCount  : Nat
  outCount : Nat
  cycles   : Nat
  initNode : Nat
  initOut  : Nat
  flags    : Nat
  outExp   : Int
  spec     : List Byte
deriving DecidableEq, Repr

/-- A route entry (R79). -/
structure RouteRec where
  src    : Nat
  srcOut : Nat
  delay  : Bool
  dst    : Nat
  dstIn  : Nat
deriving DecidableEq, Repr

/-- A symbol entry (R81) with its name bytes. -/
structure SymRec where
  kind    : Nat
  sect    : Nat
  target  : Nat
  name    : List Byte
deriving DecidableEq, Repr

/-- A section table entry (R70). -/
structure SectRec where
  type   : Nat
  offset : Nat
  length : Nat
  count  : Nat
  size   : Nat
  crc    : Nat
deriving DecidableEq, Repr

/-- An image as its plane holds it. -/
structure Image where
  slot    : Nat
  swap    : Bool
  build   : Nat
  arc     : Nat
  hash    : BitVec 384
  cv      : Nat
  sects   : List SectRec
  params  : List ParamRec
  nodes   : List NodeRec
  routes  : List RouteRec
  syms    : List SymRec
deriving DecidableEq, Repr

/-- The image state of the fabric (R93 to R99). -/
structure FabImg where
  plane    : Nat
  live     : Option Image      -- the image in force
  other    : Option Image      -- the idle plane, once staged
  state    : Nat               -- FAB_IMG_STAT.STATE
  status   : Nat
  stSlot   : Nat
  soft     : Nat
  moved    : Nat
  drop     : Nat
  commit   : Option Bool       -- a host COMMIT waiting for its vote, with FORCE_SOLO
deriving DecidableEq, Repr

end Sys2Proof.Machine
end

