-- ==== Sys2Proof/Machine/PartsFab.lean ====
section
/-!
DEFINITION. State of the control fabric (chapter 4).
-/
namespace Sys2Proof.Machine

/-- A word on a route (R102): mantissa M as an integer, exponent E (−128 for an angle word), and VALID. -/
structure SigW where
  m : Int
  e : Int
  v : Bool
deriving DecidableEq, Repr

/-- The zero word with VALID = 0. -/
def SigW.none : SigW := ⟨0, 0, false⟩

/-- An error history entry with the exponent at which it was formed (R113). -/
structure ErrW where
  m : Int
  e : Int
deriving DecidableEq, Repr

/-- What a node carries from one evaluation to the next (R101), with its output words. -/
structure Cell where
  outs   : List SigW       -- output words, by output
  stage  : Int             -- stage exponent (R104)
  hist   : List Int        -- output history mantissas y1, y2, y3 (COMP), last output (LIM), Dp Qp Dn Qn (XFORM 4)
  errs   : List ErrW       -- e1, e2, e3 (COMP)
  loss   : Nat
  freeze : Nat
  last   : SigW            -- last feedback word (COMP), last input word (SINK)
  frozen : SigW            -- the feedback word at the last freeze (COMP)
  down   : Nat             -- downshift count (R104)
  act    : Nat             -- 0 normal, 1 HOLD, 2 RAMP_TO, 3 TRIP, 4 soft-start pending
  cause  : Nat             -- cause of the action: 0 LOSS, 1 FREEZE
  winner : Option Nat      -- SEL
  seen   : Nat             -- SEL: bit i: candidate i has been valid since the soft-start
  fill   : Nat             -- XFORM 4: evaluations left until its outputs become valid
  there  : Bool            -- LIM 2: the output has reached input 0
  evald  : Bool            -- evaluated since its soft-start
  soft   : Bool            -- its soft-start falls in the next tick in which the mode evaluates it, due or not (R94, R110)
  init   : Option SigW     -- the soft-start word latched in that tick, until its first evaluation
deriving DecidableEq, Repr

/-- A cell that waits for its soft-start. -/
def Cell.fresh : Cell :=
  ⟨[], 0, [0, 0, 0, 0], [⟨0, 0⟩, ⟨0, 0⟩, ⟨0, 0⟩], 0, 0, SigW.none, SigW.none, 0, 4, 0, none, 0, 0, false, false, true, none⟩

/-- A capture of one node (R129). -/
structure Capture where
  act    : Nat
  exp    : Int
  loss   : Nat
  freeze : Nat
  outs   : List SigW
deriving DecidableEq, Repr

/-- A lockstep mismatch of the tick (R127): the tile, the phase in which it came, and whether the other tiles read the tile in that phase
after it. -/
structure Miss where
  tile  : Nat
  phase : Nat
  early : Bool
deriving DecidableEq, Repr

/-- The fabric beside its planes (R100 to R129). -/
structure Fab where
  cells   : Tab Cell       -- by NODE_ID
  before  : Tab Cell       -- the cells as they stood before the last tick (R127)
  src     : Tab SigW       -- words supplied to SRC nodes, by subtype, endpoint and instance
  latch   : Tab SigW       -- `src` as the Latch phase of the tick left it (R110)
  sink    : Tab SigW       -- words delivered by SINK nodes
  sinkOld : Tab SigW       -- the words delivered by the last tick before this one
  miss    : List Miss      -- the lockstep mismatches of the present tick (R127)
  skew    : List (Option Nat) -- per rate group, the index N of the last tick in which it was evaluated
  idx     : Nat            -- tick index N (R106)
  lastEvt : Nat            -- FAB_LAST_EVT.CAUSE
  lastNode : Nat
  peekArm : Option Nat
  capture : Option Capture -- a capture not yet read
  latched : Capture        -- the capture latched by the first read
  peekSeq : Nat
deriving DecidableEq, Repr

end Sys2Proof.Machine
end

