-- ==== Sys2Proof/Machine/PartsCrd.lean ====
section
/-!
DEFINITION. State of the Cord and partner lanes, the valve ports, the management channel and the service pulse (chapter 7).
-/
namespace Sys2Proof.Machine

/-- A management packet that waits for its acknowledgement (R226). -/
structure Packet where
  type    : Nat
  seq     : Nat
  tag     : Nat
  data    : List Byte
  retries : Nat
  again   : Bool              -- it has left before, and leaves again under the same number
deriving DecidableEq, Repr

/-- One lane, valve (0 to 47) or partner (48 and 49) (R199 to R211, R226, R230). -/
structure Lane where
  state   : Nat               -- CRD_LANE_STAT_n.STATE
  gen     : Nat
  fom     : Nat
  fomVbu  : Nat
  cause   : Nat
  retries : Nat
  dl      : Nat               -- D_l in force, ps
  dlTrain : Nat               -- D_l,trained, ps
  df      : Int               -- D_f, in 1/16 of 1 ps
  drift   : Bool              -- in an excursion of DLY_DRIFT
  eyeLow  : Bool              -- in an excursion of EYE_LOW, of the own margin
  eyeLowV : Bool              -- and of the other end's
  bad     : Nat               -- consecutive uplink frames with code or CRC errors
  flags   : Nat               -- FLAGS of the last valid uplink
  first   : Nat               -- slice in the map: FIRST_SM
  count   : Nat               -- and COUNT; 0 outside the map
  upOk    : Bool              -- the lane's uplink was valid at the last latch
  sms     : List (Nat × Nat)  -- voltage code and status byte of the last valid uplink
  exch    : Nat               -- number of the last delay exchange
  exchOut : Bool              -- an exchange waits for its response
  exchBad : Nat               -- exchanges ignored and counted (R210)
  mgt     : List Packet       -- the unacknowledged packet of the lane's channel, and those that wait behind it
  held    : List Packet       -- host requests that stand while the lane has no channel for them
  txSeq   : Nat
  rxSeq   : Nat
  ackWait : Option Nat        -- a received packet is not yet acknowledged; ticks since it came
  peer    : Option (List Byte) -- the other end's record, accepted in T1
  ownAck  : Nat               -- parts of the own record that are acknowledged
  fill    : Nat               -- of the elastic buffer, in characters (R205)
  rxRd    : Option Bool       -- running disparity of the receiver; none before its first comma (R202)
  rx      : Received          -- what has begun to arrive and is not complete
  prbs    : Option Prbs       -- the pattern of a lane in PRBS (R237)
  offReq  : Bool              -- a DISABLE written while the port carries BLOCK = 0 waits
deriving DecidableEq, Repr

/-- A lane that is OFF. -/
def Lane.off : Lane :=
  { state := 0, gen := 0, fom := 0, fomVbu := 0, cause := 0, retries := 0, dl := 0, dlTrain := 0, df := 0, drift := false
    eyeLow := false, eyeLowV := false, bad := 0, flags := 0, first := 0, count := 0, upOk := false, sms := [], exch := 0, exchOut := false
    exchBad := 0, mgt := [], held := [], txSeq := 0, rxSeq := 255, ackWait := none, peer := none, ownAck := 0, fill := 32
    rxRd := none, rx := Received.none, prbs := none, offReq := false }

/-- One valve port (R212, R213, R222). -/
structure Port where
  state  : Nat                -- CRD_PORT_STAT_p.STATE
  cause  : Nat
  mapId  : Nat
  lp     : Nat
  dp     : Nat                -- D_p in ps
  epoch  : Nat                -- CRD_PORT_EPOCH_p
  cap    : List Byte          -- accepted capability record of the unit; empty while none
  upset  : Bool               -- the uplink set was valid at the last latch
  carry  : Bool               -- the last frames carried BLOCK = 0
  req    : Option Nat         -- TAG of an outstanding host request
deriving DecidableEq, Repr

/-- A port that is OFF. -/
def Port.off : Port := ⟨0, 0, 0, 0, 0, 0, [], false, false, none⟩

/-- CRD (R199 to R237). -/
structure Crd where
  lanes   : List Lane         -- 50 lanes
  ports   : List Port         -- 6 ports
  cmdRes  : Nat               -- CRD_CMD_RES.STATUS
  mgtStat : Nat               -- CRD_MGT_RES.STATUS
  mgtTag  : Nat
  mgtRetr : Nat
  mgtData : List Byte         -- response as received
  mgtFresh : Bool
  mgtLat  : List Byte         -- latched response data
  mgtTagLat : Nat
  svc     : Option (Nat × Nat × Nat × Nat)  -- port, submodule, choice and ticks left of a service pulse
  svcRes  : Nat
deriving DecidableEq, Repr

/-- CRD as MD_0 leaves it. -/
def Crd.reset : Crd :=
  ⟨List.replicate 50 Lane.off, List.replicate 6 Port.off, 0, 0, 0, 0, [], false, [], 0, none, 0⟩

end Sys2Proof.Machine
end

