-- ==== Sys2Proof/Machine/PartsGgd.lean ====
section
/-!
DEFINITION. State of the gate guard and the pulse timer (chapter 8). Times are in fine steps, counted so that the tick boundary
of index N stands at N × C_T × 16 (R242).
-/
namespace Sys2Proof.Machine

/-- One half-bridge channel (R238 to R260). -/
structure Chan where
  state   : Nat              -- GGD_CH_STAT_n.STATE
  cause   : Nat
  tries   : Nat
  window  : Bool             -- the retry window is open
  retry   : Bool             -- a retry is due T_RETRY after the acceptance
  waitTrp : Bool             -- the retry is due and waits for TRP to go inactive
  pul     : Bool             -- PUL level in force, once its last change has come about
  ena     : Bool             -- ENA level the guard releases, outside the notch of an edge
  hold    : Bool             -- in an overlap hold that has been counted (R240)
  pulWas  : Bool             -- PUL before its last change
  chgAt   : Int              -- release of the last edge, or the drop of ENA (R239)
  notch   : Bool             -- that was an edge or a drop: ENA is low for the dead time, and PUL changes after half of it
  edges   : List (Int × Bool) -- scheduled edges, in time order, with the level each commands
  tLast   : Int              -- t_last of R245
  relAt   : Int              -- the last released edge
  hiAt    : Int              -- release of the last rising edge
  start   : Int              -- start of the period in progress
  lvl0    : Bool             -- level that the channel commanded as that period started (R243)
  rise    : Nat              -- shadow RISE
  fall    : Nat              -- shadow FALL
  aRise   : Nat              -- active RISE
  aFall   : Nat
  rseq    : Nat
  wseq    : Nat
  pend    : Bool             -- the last shadow write is not yet taken
  armed   : Bool             -- a load-all arming not yet taken
  wAt     : Int              -- when the fabric last wrote the shadow set, or armed it
  pRise   : Nat              -- the shadow set before that
  pFall   : Nat
  pArmed  : Bool             -- whether that set was armed
  pWrote  : Bool             -- whether it was written, not armed alone
  cmp     : Option (Nat × Nat) -- values converted in the last phase F, for the next boundary (R244)
  loss    : Nat              -- consecutive ticks with an invalid fabric word
  lost    : Bool             -- OFF for CMP_LOSS until every endpoint is valid
  en      : Bool             -- last valid ENABLE word was non-zero
  due     : Bool             -- a refresh is due
  offAt   : Int              -- when the channel went OFF
  refAt   : Int              -- when its refresh started
  blanks  : List (Int × Int) -- starts and ends of the blanking windows, earliest first
  deferred : Option Int      -- end of the window at which a deferred trip is judged
  trp     : Bool             -- filtered TRP_n active
  lastTrip : Option Int      -- when its last trip was accepted
  cutTo   : Option Int       -- end of a BS_CUT low interval
deriving DecidableEq, Repr

/-- A channel as MD_0 leaves it. -/
def Chan.reset : Chan :=
  { state := 0, cause := 0, tries := 0, window := false, retry := false, waitTrp := false, pul := false, ena := false, hold := false
    pulWas := false, chgAt := 0, notch := false, edges := [], tLast := 0, relAt := 0, hiAt := 0, start := 0, lvl0 := false, rise := 0, fall := 0, aRise := 0, aFall := 0, rseq := 0, wseq := 0
    pend := false, armed := false, wAt := -1, pRise := 0, pFall := 0, pArmed := false, pWrote := false, cmp := none, loss := 0, lost := false, en := false
    due := true, offAt := 0, refAt := 0, blanks := []
    deferred := none, trp := false, lastTrip := none, cutTo := none }

/-- The gate guard and the timer. -/
structure Ggd where
  chans  : List Chan         -- 24 channels
  ht     : Bool              -- HARD_TRIP active
  clrRes : Nat               -- GGD_CLR_RES.STATUS
  laSeq  : Nat               -- load-all armings, modulo 256
  mayWas : Bool              -- the port might switch at the last boundary (R251)
  idx    : Nat               -- tick index at the last boundary
  cyc    : Nat               -- count of CK_PWM at the last boundary
  tpc    : List Nat          -- divider at which TPC_g runs, 0 while it is stopped (R259)
  readback : Bool            -- blocked by a pin readback fault (R365)
deriving DecidableEq, Repr

/-- The guard as MD_0 leaves it. -/
def Ggd.reset : Ggd := ⟨List.replicate 24 Chan.reset, false, 0, 0, false, 0, 0, List.replicate 6 0, false⟩

end Sys2Proof.Machine
end

