-- ==== Sys2Proof/Machine/PartsHost.lean ====
section
/-!
DEFINITION. State of the host interface, the stoker, the redundancy function and the safe block function (chapters 12 to 14).
-/
namespace Sys2Proof.Machine

/-- What leaves the module in one command: posted writes, messages and frames. -/
inductive Out where
  | dma (addr : DWord) (bytes : List Byte)     -- a posted write to host memory
  | msix (pf : Pf) (vec : Nat) (addr : DWord) (data : Word)  -- the MSI-X message of a vector (R387)
  | eth (port : Nat) (bytes : List Byte)       -- an Ethernet frame
  | lane (n : Nat) (chars : List Sym) (groups : List (BitVec 10))  -- an ordered set, a frame or a management packet on a lane (R203, R217, R225, R342), and its code groups (R202)
  | i2c (bytes : List Byte)                    -- bytes on the management port
  | field (bytes : List Byte)                  -- a transfer to the field die
deriving DecidableEq, Repr

/-- One PCI Express function (R382, R387). -/
structure PfCfg where
  d3hot   : Bool
  memSp   : Bool
  busM    : Bool
  msixEn  : Bool
  mask    : DWord
  pend    : DWord
  table   : Tab (DWord × Word) -- address and data of the entries of the MSI-X table, by vector
deriving DecidableEq, Repr

/-- A function's configuration at its reset values. -/
def PfCfg.reset : PfCfg := ⟨false, false, false, false, BitVec.ofNat 64 (2 ^ 64 - 1), 0, []⟩

/-- The link and both functions. -/
structure Hif where
  up    : Bool
  gen   : Nat
  width : Nat
  pf0   : PfCfg
  pf1   : PfCfg
deriving DecidableEq, Repr

/-- A billet inside the stoker: its ring, its index in the ring, and what the host wrote. -/
structure Item where
  ring : Nat
  idx  : Nat
  arr  : Nat                   -- order of arrival
  prio : Nat
  owns : Bool                  -- made its flow busy
  b    : Billet
deriving DecidableEq, Repr

/-- The outcome a worker has worked out for the billet in SERVICE (R393). -/
structure Result where
  status : Nat
  outLen : Nat
  res0   : Nat
  res1   : Nat
deriving DecidableEq, Repr

/-- One worker (R400, R402). -/
structure Worker where
  service : Option Item
  result  : Option Result
  next    : Option Item
  caught  : List (Nat × List Byte)  -- PEEK_BATCH records captured so far, by position
  want    : List (BitVec 16)   -- PEEK_BATCH nodes wanted
  since   : Nat                -- tick count at which PEEK_BATCH began
deriving DecidableEq, Repr

/-- An empty worker. -/
def Worker.empty : Worker := ⟨none, none, none, [], [], 0⟩

/-- The part of a ring that is not in its configuration registers (R388 to R391). -/
structure Ring where
  pi     : Nat
  ci     : Nat
  fetch  : Nat                 -- index of the next billet to fetch
  done   : List Nat            -- completed indices that CI has not passed
  fence  : Option Item         -- a fenced billet that waits before its ready list
  halted : Bool
  cause  : Nat
deriving DecidableEq, Repr

/-- A ring as MD_0 leaves it. -/
def Ring.reset : Ring := ⟨0, 0, 0, [], none, false, 0⟩

/-- The stoker (R398 to R405). -/
structure Stk where
  rings   : Tab Ring
  workers : List Worker
  ready   : Tab (List Item)    -- 96 ready lists: worker × 8 + priority
  flows   : Tab (List Item)    -- billets waiting on a busy flow
  busy    : List Nat           -- busy flows
  posts   : List (Nat × Item)  -- posted receive buffers in order, with their port
  trace   : Tab (BitVec 128)
  trNext  : Nat
  trHeld  : Nat                -- entries held, at most 65,536
  arrNext : Nat                -- billets arrived so far
deriving DecidableEq, Repr

/-- RED states (R345, RED_STAT.STATE). -/
inductive RedState where
  | off | single | standby | claiming | holder | released
deriving DecidableEq, Repr

/-- A complete snapshot kept by the standby, with its age in ns of CK_AON (R350, R353). -/
structure Snap where
  seq   : Nat
  bytes : List Byte
  age   : Nat
deriving DecidableEq, Repr

/-- The snapshot a holder streams (R349). -/
structure Stream where
  seq    : Nat
  bytes  : List Byte
  chunk  : Nat             -- chunks sent so far
  final  : Bool
  nakd   : Nat             -- chunks reported in NAK and not yet sent again
  tries  : List Nat        -- per chunk, how often it was sent again
  lost   : Bool            -- a chunk of it found no ACTIVE partner lane
deriving DecidableEq, Repr

/-- Redundancy (R338 to R361). -/
structure Red where
  state    : RedState
  unitSel  : Bool              -- strap UNIT_SEL
  epoch    : Nat               -- epoch in force
  eNew     : Nat               -- epoch of the claim in progress
  epochP   : Nat
  pstate   : Nat
  hb       : Option Heartbeat  -- last valid partner heartbeat
  hbHere   : Bool              -- partner heartbeat present
  hbSeq    : Nat
  tknIn    : Bool              -- TKN_I reads claiming
  tknFault : Bool
  tok      : Bool              -- a single unit holds the token (R339)
  takeDue  : Bool              -- a single unit takes the token at this entry to MD_2 (R339)
  lease    : Bool
  leaseAt  : Nat               -- local count at which the lease was last renewed
  relCause : Nat
  hbkReq   : Bool
  inhibit  : Bool
  snapSeq  : Nat
  stream   : Option Stream
  rxSeq    : Nat
  rxAge    : Nat               -- age of the snapshot that arrives, in ns
  rx       : Tab (List Byte)   -- chunks received of rxSeq
  nak      : Nat
  snap     : Option Snap
  copyOk   : Bool              -- plane copy in rick 14 current (R352)
  slotRep  : Option SlotReport
  repDue   : Bool              -- a slot report goes with the next heartbeat (R97)
  gone     : Nat               -- local count since which the partner's heartbeat is absent
  takeOpen : Bool              -- the first deblocking frame since the last claim is still to leave
  claimAt  : Nat               -- local count at which the claim's condition began
  cmd      : Option Nat        -- RED_CTL command that takes effect at the next boundary
  cmdRes   : Nat
  restored : Bool              -- a restore waits for step 3 of R355
  met      : Nat               -- bit p: port p has met step 3 of R355 in the present restore
  pwr      : Bool              -- a claim has powered up the control domains of a banked unit (R345)
deriving DecidableEq, Repr

/-- Classification of RST_SAFE (R375). -/
inductive RstState where
  | released | pressed | stuck
deriving DecidableEq, Repr

/-- The safe block function (R366 to R380). -/
structure Saf where
  lock    : Bool
  sbA     : Bool               -- SB_A in demand
  sbB     : Bool
  disc    : Bool
  discBoth : Bool              -- both inputs have been in demand together since DISC was set
  cplA    : Bool
  cplB    : Bool
  failA   : Nat
  failB   : Nat
  passA   : Nat
  passB   : Nat
  ack     : Bool
  confArm : Bool
  btn     : Bool               -- RST_SAFE reads pressed (R375)
  rstate  : RstState
  res     : Nat
  proofDue : Bool              -- PROOF_DUE was raised for the present count
  hour    : Nat                -- ns of CK_AON since the last whole hour of the proof interval (R366)
  shorts  : Nat                -- presses of RST_SAFE shorter than 0.2 s (R375)
  due     : Nat                -- bit c: a safe stop with CAUSE c was demanded in MD_1 and waits for the end of Kindle (R372)
deriving DecidableEq, Repr

end Sys2Proof.Machine
end

