-- ==== Sys2Proof/Machine/PartsIo.lean ====
section
/-!
DEFINITION. State of the recorder, the clocks, the time bases, the Ethernet ports, the field I/O and the monitor
(chapters 10, 11 and 16).
-/
namespace Sys2Proof.Machine

/-! ### Recorder (R295 to R312) -/

/-- A stored set: its bytes (R298), the time value of its instant, and the RATE at which it was stored. -/
structure RSet where
  bytes : List Byte
  time  : Nat              -- 96-bit time value
  rate  : Nat
deriving DecidableEq, Repr

/-- An event table entry (R307, R309). -/
structure REvt where
  index : Int              -- set index counted from the first set stored in FILLING
  kind  : Nat
  arg   : Nat              -- byte 5
  drop  : Nat
  time  : Nat
deriving DecidableEq, Repr

/-- What one trigger unit remembers (R299, R300). -/
structure TrigUnit where
  win   : Bool             -- WIN of the previous set
  valid : Bool             -- VALID of the previous set
  above : Option Bool      -- side of TH_A at the previous value
  run   : Int              -- sets since the pulse began, or since the last crossing; -1 before the first set of an arming
  pulse : Bool             -- a pulse is in progress
  beyond : Bool            -- the pulse has exceeded TH_B
  peak  : Int
  fired : Bool             -- TIMEOUT has fired since the last crossing
  hist  : List (Option Int) -- values of earlier sets, newest first (SLEW)
  meas  : Int              -- measurement at the last firing
deriving DecidableEq, Repr

/-- A unit with nothing seen. -/
def TrigUnit.fresh : TrigUnit := ⟨true, false, none, -1, false, false, 0, false, [], 0⟩

/-- A record slot of the bulk store (R303, R311). -/
structure RSlot where
  state  : Nat             -- 0 EMPTY, 1 FILLING, 2 CLOSED, 3 READING
  num    : Nat
  header : List Byte
  sets   : List Byte
deriving DecidableEq, Repr

/-- An empty slot. -/
def RSlot.empty : RSlot := ⟨0, 0, [], []⟩

/-- The recorder. -/
structure Rec where
  state  : Nat             -- REC_STAT.STATE
  slot   : Nat
  full   : Bool
  clamp  : Bool
  image  : Option Image    -- settings in force since the entry to FILLING (R305)
  rate   : Nat             -- stored RATE in force
  num    : Nat             -- record numbers used since MD_0
  slots  : Tab RSlot
  sets   : List RSet       -- sets of the record in progress, newest first
  base   : Int             -- index of the oldest kept set
  count  : Int             -- index of the next stored set
  evts   : List REvt       -- event table entries beyond START, oldest first
  units  : List TrigUnit
  soft   : Nat             -- units named by software triggers not yet taken
  post   : Nat             -- POST_EFF
  left   : Nat             -- sets still to store in POST
  trigAt : Option Int      -- index of the trigger set
  mask   : Nat             -- TRIG_MASK
  trigTime : Nat
  trigs  : List (Nat × Bool) -- triggers whose TRIG entry goes with the next stored set: the unit, and whether it opened the record
  meas   : Nat × Nat       -- unit of the first firing and its measurement
  flags  : Nat             -- FLAGS of the record in progress
  extra  : Nat
  drops  : Nat             -- sets dropped in the record
  gap    : Nat             -- length of a run of dropped sets in progress
  high   : Bool            -- the staging buffer has been at 48 KiB or more since it last was below
  force  : Bool            -- the auto timeout forces a trigger at the next set
  halve  : Bool            -- a halving that takes effect at the first set instant on the new grid
  rateDue : Bool           -- a halving whose RATE entry goes with the next stored set
  stage  : Nat             -- fill of the staging buffer in bytes
  tick   : Nat             -- the next set instant, in units of 312.5 ns from the last tick boundary
  step   : Bool            -- the time base was stepped since the last set
  acq    : List Nat        -- T_ACQ_i at entry to FILLING
  hash   : Nat             -- SEC_IMG_HASH32 at entry to FILLING
  ctlRes : Nat
  rdSlot : Nat
  rdStat : Nat
  rdLen  : Nat
  rdPf   : Pf              -- function whose READ runs or ran last (R385)
  fetch  : Option (Nat × Nat)  -- a measurement fetch in progress: slot and channel
  fStat  : Nat
  fVals  : List Nat        -- MIN, MAX, MEAN, AUX of the last fetch
  fSeq   : Nat
  fFresh : Bool
  fLat   : List Nat
  fSeqLat : Nat
deriving DecidableEq, Repr

/-- The recorder as MD_0 leaves it. -/
def Rec.reset : Rec :=
  { state := 0, slot := 0, full := false, clamp := false, image := none, rate := 0, num := 0, slots := [], sets := []
    base := 0, count := 0, evts := [], units := List.replicate 16 TrigUnit.fresh, soft := 0, post := 0, left := 0
    trigAt := none, mask := 0, trigTime := 0, trigs := [], meas := (0, 0), flags := 0, extra := 0, drops := 0, gap := 0, high := false, force := false, halve := false
    rateDue := false, stage := 0, tick := 0, step := false, acq := List.replicate 32 0, hash := 0, ctlRes := 0, rdSlot := 0, rdStat := 0
    rdLen := 0, rdPf := .pf0, fetch := none, fStat := 0, fVals := [0, 0, 0, 0], fSeq := 0, fFresh := false, fLat := [0, 0, 0, 0], fSeqLat := 0 }

/-! ### Clocks and time (R317 to R334) -/

/-- The synthesiser (R317 to R321). -/
structure Clk where
  state  : Nat             -- CLK_STAT.STATE
  acqUs  : Nat
  rosc   : Bool
  refOk  : Bool
  lost   : Option Nat      -- the mode in which the clocks were lost, until the first boundary after relock
  lossAt : Nat             -- SYS time value at the detection
  lossBit : Nat            -- CLK_EVT bit of that loss
  gap    : Bool            -- the outputs were gated since the last tick boundary
  refMode : Bool           -- level of the strap REFMODE
deriving DecidableEq, Repr

/-- A step command that waits for the boundary (R332). -/
structure StepCmd where
  align : Bool
  ns    : Int
deriving DecidableEq, Repr

/-- A time base (R322 to R331); times in units of 2^−16 ns. -/
structure Tb where
  val    : Nat
  rho    : Int             -- ρ_b in units of 2^−42
  rsrc   : Int             -- last rate of the source
  err    : Int             -- e_b
  trace  : Bool
  hold   : Bool
  never  : Bool
  pendSt : Bool            -- STEP_PEND
  slew   : Bool
  dom    : Nat             -- domain followed under PTP
  was    : Bool            -- the source was LOCKED at the last boundary
  cmd    : Option StepCmd
  lat    : Nat             -- value latched by a read of TIM_TB_FRAC_b
  differs : Bool           -- DOM_DIFF was raised in this stay
  slewTo : Bool            -- a new domain is being reached by slewing alone (R327)
  led    : Bool            -- the source has been LOCKED since MD_0
  stepped : Bool           -- a TB_STEP entry takes effect at the running boundary (R333)
deriving DecidableEq, Repr

/-- A time base as MD_0 leaves it. -/
def Tb.reset : Tb := ⟨0, 0, 0, 0, false, false, true, false, false, 0, false, none, 0, false, false, false, false⟩

/-- A master heard (R324). -/
structure Master where
  prio1 : Nat
  cls   : Nat
  acc   : Nat
  var   : Nat
  prio2 : Nat
  gm    : Nat              -- clockIdentity of the grandmaster
  steps : Nat
  src   : Nat              -- identity of the sending port
  utc   : Int
deriving DecidableEq, Repr

/-- A precision-time tracker (R324 to R327). -/
structure Dom where
  state  : Nat
  port   : Nat
  heard  : List (Nat × Master)  -- the masters heard, each with its port
  src    : Nat             -- port identity of the selected master
  gm     : Nat
  cls    : Nat
  utc    : Int
  o      : Int             -- o_d
  r      : Int             -- r_d in units of 2^−42
  seeded : Bool
  resid  : Int             -- last Sync residual
  good   : Nat
  bad    : Nat
  pd     : List Int        -- meanLinkDelay per port
  sync   : Option (Nat × Nat × Int)  -- a two-step Sync waiting for its Follow_Up: sequence, local arrival, correction
deriving DecidableEq, Repr

/-- A tracker as MD_0 leaves it. -/
def Dom.reset : Dom := ⟨0, 0, [], 0, 0, 0, 0, 0, 0, false, 0, 0, 0, [0, 0], none⟩

/-- TIM and ETH. -/
structure Tim where
  sys    : Nat             -- SYS time base
  tbs    : List Tb
  doms   : List Dom
  loc    : Nat             -- free-running local count, 2^−16 ns
  link   : List Bool       -- link of each Ethernet port
  pdSeq  : List Nat        -- Pdelay_Req sequence number per port
  stepRes : Nat
  pofs   : List (Option Int) -- per time base, the partner's value minus the local count (R331)
  ptrace : Nat             -- bit b: the partner reports its TB_b traceable
deriving DecidableEq, Repr

/-- TIM and ETH as MD_0 leaves them. -/
def Tim.reset : Tim := ⟨0, List.replicate 4 Tb.reset, List.replicate 2 Dom.reset, 0, [false, false], [0, 0], 0, [none, none, none, none], 0⟩

/-! ### Field I/O and monitor (R436 to R453) -/

/-- FIO. -/
structure Fio where
  cnt    : List Nat        -- the inputs' up-down counters (R438)
  taken  : List Nat        -- samples that each filter has taken since FIO started, up to IN_FILT
  lvl    : Nat             -- filtered levels
  filled : Nat             -- filters that have taken IN_FILT samples
  brk    : Nat             -- inputs in BREAK
  link   : Bool
  fault  : Bool
  uv     : Bool
  low    : Bool
  mv     : Nat
  host   : Nat             -- stored host values
  n9     : Nat             -- levels the N9 drives
  fab    : List SigW       -- words delivered to outputs in the last tick, by output
  level  : Nat             -- level sent to each output
  safe   : Nat             -- outputs at OUT_SAFE or OFF under ranks 1 to 5
  silent : Nat             -- outputs in the silence state (R446)
  cut    : Bool            -- the logic side lost its power before it could send OUT_SAFE (R446)
  config : Bool            -- the field die holds a complete configuration
  dieEn  : Nat             -- outputs that the configuration last in force enables (R443, R458)
  dieSafe : List Nat       -- OUT_SAFE of each output in that configuration
  outRes : Nat
deriving DecidableEq, Repr

/-- FIO as MD_0 leaves it. -/
def Fio.reset : Fio :=
  { cnt := List.replicate 16 0, taken := List.replicate 16 0, lvl := 0, filled := 0, brk := 0, link := false, fault := false, uv := false, low := false, mv := 0, host := 0, n9 := 0
    fab := List.replicate 16 SigW.none, level := 0, safe := 0, silent := 0, cut := false, config := false, dieEn := 0, dieSafe := [], outRes := 0 }

/-- MON and the pins that hold the module in MD_0. -/
structure Mon where
  ptr    : Nat
  live   : List Byte       -- live block as last refreshed, 128 bytes
  fresh  : Bool            -- no latch since the refresh, management port
  freshH : Bool            -- the same for the host
  lat    : List Byte       -- block latched by the management port
  latH   : List Byte       -- block latched by the host
  seq    : Nat
  uptime : Nat             -- milliseconds since the end of MD_0
  busy   : Bool            -- a transaction of the management port has not ended
  served : Bool            -- the core supply has been valid, and the management port answers (R451)
  strap  : Nat             -- straps MGT_A1 and MGT_A0
  rails  : Nat             -- rails outside their reset window, bit k for rail k of R452
  resetN : Bool            -- RESET_N is high
deriving DecidableEq, Repr

/-- MON at reset. -/
def Mon.reset : Mon :=
  ⟨0, List.replicate 128 0, false, false, List.replicate 128 0, List.replicate 128 0, 0, 0, false, false, 0, 0, true⟩

end Sys2Proof.Machine
end

