-- ==== Sys2Proof/Machine/PartsRdl.lean ====
section
/-!
DEFINITION. State of the riddle engine: submodules, arms, identification runs and the precharge sequence (chapter 6).
Fixed-point quantities are integers scaled by 2^Config.engineFrac; voltages of submodules are held as their uplink codes.
-/
namespace Sys2Proof.Machine

/-- One submodule (R168, R175, R187, R198). FAILED is not held here but in the failed map. -/
structure Sm where
  code    : Nat        -- uplink code of the last valid voltage
  unknown : Bool       -- UNKNOWN
  miss    : Nat        -- consecutive ticks with the measurement-valid flag clear
  choice  : Nat        -- 0 BLOCK, 1 BYPASS, 2 INS_POS, 3 INS_NEG
  age     : Nat        -- ticks since the last change of choice, saturating at 65,535
  dwell   : Nat        -- the same for the dwell lock; 65,535 is expired
  changes : Nat        -- changes of choice since MD_0
  start   : Nat        -- code at the first tick of a capacitance run
  run     : Option Int -- estimate of the run in progress, 0.1 µF scaled
  est     : Int        -- estimate of the last run that produced one
  dev     : Bool       -- CAP_DEV
deriving DecidableEq, Repr

/-- A submodule of which nothing is known. -/
def Sm.fresh : Sm := ⟨0, false, 0, 0, 65535, 65535, 0, 0, none, 0, false⟩

/-- One arm (R172 to R182). -/
structure Arm where
  sLast   : Int        -- s_last of R173
  dem     : SigW       -- last valid demand
  demBad  : Nat        -- consecutive ticks with V_ARM_REF invalid
  iBad    : Nat
  upBad   : Nat        -- consecutive ticks with the uplink set invalid
  seen    : Bool       -- a valid uplink set has arrived since the last reset of the engine
  deb     : Bool       -- selecting in the last tick
  short   : Bool
  nIns    : Int
  w       : Int
  wnom    : Int
  cCount  : Nat        -- estimates in the mean of the identified capacitance; 0 for none
  cVal    : Int        -- C_a in 0.1 µF, scaled
deriving DecidableEq, Repr

/-- An arm as MD_0 leaves it. -/
def Arm.reset : Arm := ⟨1, SigW.none, 0, 0, 0, false, false, false, 0, 0, 0, 0, 0⟩

/-- An identification run in progress (R187, R192, R193). -/
structure IdRun where
  cap     : Bool
  leg     : Nat
  tick    : Nat        -- ticks done in this run, or in this repeat
  q       : List Int   -- per arm, the sum of the charging current over the ticks, pu
  nb      : Nat        -- N_b of the repeat
  vbar    : Int        -- v̄ of the repeat
  ia      : Int
  ib      : Int
  ic      : Int
  reps    : Nat
  lsum    : Int        -- sum of the repeats' inductances, µH scaled
deriving DecidableEq, Repr

/-- The precharge sequence (R189). -/
structure Pre where
  state   : Nat
  cause   : Nat
  vmin    : Int
  run     : Nat        -- ticks since the present state's timer started
  hist    : List (List Int)  -- means per arm, newest first, since that timer started
  acctBad : Nat        -- consecutive ticks with the account invalid
  relPend : Bool       -- both outputs stay ON until T_L + T_G + 10 ms have passed
deriving DecidableEq, Repr

/-- The latched words of a submodule capture (R198). -/
structure SmCap where
  w0 : Nat
  w1 : Nat
  w2 : Nat
deriving DecidableEq, Repr

/-- What the engine asks of the rest of the module. -/
inductive RdlFx where
  | flag (n arm sm : Nat)              -- RDL_EVT bit
  | react (arm : Nat)                  -- block-and-release reaction
  | count (arm sw ovr sat : Nat)       -- RDL_ARM_SW_a, RDL_ARM_CNT_a
  | preState (old new cause : Nat)     -- event log entry of R189
  | outputs (chg byp : Bool)           -- PRE_CHG_OUT, PRE_BYP_OUT
deriving DecidableEq, Repr

/-- The riddle engine. -/
structure Rdl where
  sms     : Tab Sm           -- by arm × 512 + submodule
  arms    : List Arm
  failed  : Tab Nat          -- failed map: REASON by arm × 512 + submodule (R169)
  dirty   : Bool             -- the map has changed since its record was written
  cmds    : List (Nat × Nat × Nat)  -- accepted SET and CLEAR commands waiting for phase D
  start   : Bool             -- a soft-start is pending (R183)
  acctW   : Int
  acctN   : Int
  acctOk  : Bool
  acctInv : Bool             -- ACCT_INV was raised in this invalid stretch
  needSet : Bool             -- no tick yet in which every enabled arm delivered a valid set
  failRes : Nat              -- RDL_FAIL_RES.STATUS
  run     : Option IdRun
  idStat  : Nat
  idKind  : Nat
  idSeq   : Nat
  idFresh : Bool
  idSeqLat : Nat
  idL     : List (Nat × Nat) -- repeats and inductance per leg
  idCLat  : List Nat         -- latched RDL_ID_C_a
  idLLat  : List Nat         -- latched RDL_ID_L_x
  sel     : Option (Nat × Nat) -- armed capture
  cap     : Option SmCap     -- a capture not yet read
  lat     : SmCap
  capSeq  : Nat
  capSeqLat : Nat
  pre     : Pre
  fx      : List RdlFx       -- what the last phase D asked for; it happens as its tick ends, unless the tick is discarded (R184, R185)
deriving DecidableEq, Repr

/-- The sequence at IDLE. -/
def Pre.reset : Pre := ⟨0, 0, 0, 0, [], 0, false⟩

/-- The engine as MD_0 leaves it. -/
def Rdl.reset : Rdl :=
  { sms := [], arms := List.replicate 6 Arm.reset, failed := [], dirty := false, cmds := [], start := false
    acctW := 0, acctN := 0, acctOk := false, acctInv := false, needSet := true, failRes := 0
    run := none, idStat := 0, idKind := 0, idSeq := 0, idFresh := false, idSeqLat := 0
    idL := [(0, 0), (0, 0), (0, 0)], idCLat := List.replicate 6 0, idLLat := List.replicate 3 0
    sel := none, cap := none, lat := ⟨0, 0, 0⟩, capSeq := 0, capSeqLat := 0, pre := Pre.reset, fx := [] }

/-- The engine as it goes into MD_3: the failed map, the precharge sequence and each submodule's changes of choice since MD_0 stay (R169, R189,
R198); the rest is powered down (R41). -/
def Rdl.banked (r : Rdl) : Rdl :=
  { Rdl.reset with
    sms := (r.sms.map (fun x => (x.1, { Sm.fresh with changes := x.2.changes }))).filter (fun x => x.2 ≠ Sm.fresh)
    failed := r.failed, dirty := r.dirty, pre := r.pre }

end Sys2Proof.Machine
end

