-- ==== Sys2Proof/Machine/PeatRec.lean ====
section
/-!
DEFINITION. The system records of the peat store as their lines hold them (R421), and the writes that wait for a bank (R422). The manual gives no
layout of a record's line: a line here holds the record's whole content (DESIGN CHOICE).
-/
namespace Sys2Proof.Machine

/-- Place of a kind in the numbering of groups. -/
def peatCode : PeatKind → Nat
  | .epoch => 0 | .arc => 1 | .lmsLeaf => 2 | .checkValue => 3 | .proofHours => 4 | .calibration => 5 | .failedMap => 6 | .slotState => 7
  | .bootSel => 8 | .keyTable => 9 | .snapshot => 10 | .imageLine => 11

/-- Groups of lines that hold a record: two where it must never go back; none for what is no system record (R421). -/
def peatGroups : PeatKind → Nat
  | .epoch | .arc | .lmsLeaf => 2
  | .keyTable | .snapshot | .imageLine => 0
  | _ => 1

/-- Rank of a pending write (R422). -/
def peatRank : PeatKind → Nat
  | .epoch | .arc => 1
  | .lmsLeaf => 2
  | .snapshot => 3
  | .imageLine => 5
  | _ => 4

/-- The system records. -/
def recKinds : List PeatKind :=
  [.epoch, .arc, .lmsLeaf, .checkValue, .proofHours, .calibration, .failedMap, .slotState, .bootSel]

/-- A table as a flat list. -/
def tabFlat (t : Tab Nat) : List Nat := t.flatMap (fun x => [x.1, x.2])

/-- The pairs of a flat list. -/
def flatPairs : List Nat → List (Nat × Nat)
  | a :: b :: l => (a, b) :: flatPairs l
  | _ => []

/-- Content of a record as a line holds it. -/
def recVal (p : Peat) : PeatKind → List Nat
  | .epoch => [p.epoch]
  | .arc => tabFlat p.arc
  | .lmsLeaf => [p.leaf, p.reports]
  | .checkValue => match p.checkVal with
    | some v => [v.toNat]
    | none => []
  | .proofHours => [p.proof]
  | .calibration => p.calib.flatMap (fun x => [x.1, x.2.toNat])
  | .failedMap => p.mapArms.length :: tabFlat p.mapArms ++ tabFlat p.failed
  | .slotState => (p.slots ++ p.uc).flatMap (fun x => [if x.valid then 1 else 0, if x.confirmed then 1 else 0])
  | .bootSel => [p.bootSlot, p.bootUc]
  | _ => []

/-- The counters, each at the larger of its value and what the pairs give it. -/
def arcJoin (t : Tab Nat) (l : List (Nat × Nat)) : Tab Nat := l.foldl (fun t x => tabSet 0 t x.1 (max (tabGet 0 t x.1) x.2)) t

/-- A slot under its stored state; one that is not VALID is empty (R88). -/
def slotUnder (x : ImgSlot) (v : Nat × Nat) : ImgSlot := if v.1 = 1 then { x with valid := true, confirmed := v.2 = 1 } else ImgSlot.empty

/-- The store with the content of a record as it was read; a counter never decreases (R424). -/
def recLoad (p : Peat) (k : PeatKind) (v : List Nat) : Peat :=
  match k with
  | .epoch => { p with epoch := v.headD 0, epochOk := true }
  | .arc => { p with arc := arcJoin p.arc (flatPairs v) }
  | .lmsLeaf => { p with leaf := v.headD 0, reports := (v.drop 1).headD 0 }
  | .checkValue => { p with checkVal := v.head?.map (BitVec.ofNat 32) }
  | .proofHours => { p with proof := v.headD 0 }
  | .calibration => { p with calib := (flatPairs v).map (fun x => (x.1, BitVec.ofNat 64 x.2)) }
  | .failedMap =>
    let n := v.headD 0
    { p with mapArms := flatPairs ((v.drop 1).take (2 * n)), failed := flatPairs (v.drop (1 + 2 * n)) }
  | .slotState =>
    let l := flatPairs v
    { p with slots := p.slots.zipIdx.map (fun x => slotUnder x.1 (l.getD x.2 (0, 0)))
             uc := p.uc.zipIdx.map (fun x => slotUnder x.1 (l.getD (2 + x.2) (0, 0))) }
  | .bootSel => { p with bootSlot := v.headD 0, bootUc := (v.drop 1).headD 0 }
  | _ => p

/-- The store with a record that reads as absent (R421): nothing is known of it, so that its leaves count as used, its slots as empty and its
maps and boot selections as they are before the first is stored, while a counter does not decrease (DESIGN CHOICE: R421 says what follows for
the epoch alone, and R424 lets no counter go back). -/
def recAbsent (p : Peat) (k : PeatKind) : Peat :=
  match k with
  | .epoch => { p with epoch := 0, epochOk := false }
  | .lmsLeaf => { p with leaf := 67108864, reports := 67108864 }
  | k => recLoad p k []

/-- Key of a record's group. -/
def groupKey (k : PeatKind) (g : Nat) : Nat := 2 * peatCode k + g

/-- Group g of a record. -/
def groupOf (p : Peat) (k : PeatKind) (g : Nat) : RGroup := tabGet RGroup.empty p.recs (groupKey k g)

/-- Group g of a record changed. -/
def groupUpd (p : Peat) (k : PeatKind) (g : Nat) (f : RGroup → RGroup) : Peat :=
  { p with recs := tabUpd RGroup.empty p.recs (groupKey k g) f }

/-- The next line in rotation that is not retired, from line n on. -/
def lineFrom (dead : List Nat) : Nat → Nat → Nat
  | 0, n => n
  | k + 1, n => if dead.contains n then lineFrom dead k ((n + 1) % 256) else n

/-- The group with its next line written: under the next update number, with a correct CRC or not. -/
def RGroup.put (g : RGroup) (good : Bool) (v : List Nat) : RGroup :=
  { g with next := lineFrom g.dead 256 ((g.next + 1) % 256), upd := (g.upd + 1) % 2 ^ 32, lines := tabInsert g.lines g.next ⟨g.upd + 1, good, v⟩ }

/-- The group with its next line retired. -/
def RGroup.retire (g : RGroup) : RGroup :=
  let dead := g.next :: g.dead
  { g with next := lineFrom dead 256 ((g.next + 1) % 256), lines := tabErase g.lines g.next, dead := dead }

/-- What a group reads: the line with the highest update number and a correct CRC. -/
def RGroup.read (g : RGroup) : Option (List Nat) :=
  ((g.lines.map (·.2)).foldl (fun (b : Option RLine) l =>
    if !l.good then b
    else match b with
      | some x => if x.upd ≤ l.upd then some l else b
      | none => some l) none).map (·.val)

/-- The larger of two copies of a record that must never go back; of the counters, each. -/
def recJoin (k : PeatKind) (a b : List Nat) : List Nat :=
  match k with
  | .arc => tabFlat (arcJoin (flatPairs a) (flatPairs b))
  | _ => if a.headD 0 < b.headD 0 then b else a

/-- What the copies of a record read, none where all fail their CRC. -/
def recRead (p : Peat) (k : PeatKind) : Option (List Nat) :=
  ((List.range (peatGroups k)).filterMap (fun g => (groupOf p k g).read)).foldl (fun acc v =>
    match acc with
    | some a => some (recJoin k a v)
    | none => some v) none

/-- The record was ever written. -/
def recHeld (p : Peat) (k : PeatKind) : Bool := (List.range (peatGroups k)).any (fun g => (groupOf p k g).lines ≠ [])

/-- The present content of a record goes to the next line of each of its groups. -/
def recPut (p : Peat) (k : PeatKind) : Peat :=
  (List.range (peatGroups k)).foldl (fun p g => groupUpd p k g (fun x => x.put true (recVal p k))) p

/-- Every record is written as it stands. -/
def recAll (p : Peat) : Peat := recKinds.foldl recPut p

/-! ### Pending writes (R422) -/

/-- The first job of the best rank. -/
def jobBest : List PJob → Option PJob
  | [] => none
  | j :: js =>
    match jobBest js with
    | none => some j
    | some b => if peatRank b.kind < peatRank j.kind then some b else some j

/-- The jobs after one line of j has gone to a bank. -/
def jobAdvance (j : PJob) : List PJob → List PJob
  | [] => []
  | x :: xs => if x = j then (if j.pos + 1 < j.total then { j with pos := j.pos + 1 } :: xs else xs) else x :: jobAdvance j xs

/-- A free bank takes the next line of the first job of the best rank. -/
def bankStep (p : Peat) : Peat :=
  if 4 ≤ p.banks.length then p
  else
    match jobBest p.queue with
    | none => p
    | some j => { p with banks := p.banks ++ [⟨j.kind, j.group, j.pos, (j.data.drop (64 * j.pos)).take 64⟩], queue := jobAdvance j p.queue }

/-- The free banks are filled. -/
def bankFill (p : Peat) : Peat := bankStep (bankStep (bankStep (bankStep p)))

/-- The store with a write that waits. -/
def peatJob (p : Peat) (j : PJob) : Peat := bankFill { p with queue := p.queue ++ [j] }

/-- The store with an update of records that waits, one line for each of their groups. -/
def peatPost (p : Peat) (ks : List PeatKind) : Peat :=
  bankFill { p with queue := p.queue ++ ks.flatMap (fun k => (List.range (peatGroups k)).map (fun g => ⟨k, g, 0, 1, []⟩)) }

/-- The store without the writes of a kind. -/
def peatDrop (p : Peat) (k : PeatKind) : Peat :=
  bankFill { p with queue := p.queue.filter (fun j => j.kind ≠ k), banks := p.banks.filter (fun l => l.kind ≠ k) }

/-- No write of a kind is pending. -/
def peatIdle (p : Peat) (k : PeatKind) : Bool := !p.queue.any (fun j => j.kind = k) && !p.banks.any (fun l => l.kind = k)

/-- A line of a bank is stored: the next line of its record's group, or its place in the snapshot ring. The lines of a load show in their slot once
the load has ended (R88). -/
def lineStore (p : Peat) (l : PLine) : Peat :=
  match l.kind with
  | .snapshot =>
    let bs := tabGet [] p.ring l.group
    { p with ring := tabSet [] p.ring l.group (bs.take (64 * l.pos) ++ l.data ++ bs.drop (64 * l.pos + 64)) }
  | .keyTable | .imageLine => p
  | k => groupUpd p k l.group (fun x => x.put true (recVal p k))

/-- Number of the line in the store that a bank writes (R420, R423). The groups stand one after another from the start of the region of system
records on (DESIGN CHOICE: R421 gives no places). -/
def lineNum (p : Peat) (l : PLine) : Nat :=
  match l.kind with
  | .snapshot => 0x40000 + 64 * l.group + l.pos
  | .imageLine => if l.group < 2 then 0x20000 * l.group + l.pos else 0x80000 + 0x4000 * (l.group - 2) + l.pos
  | k => 0x88000 + 256 * groupKey k l.group + (groupOf p k l.group).next

end Sys2Proof.Machine
end

