-- ==== Sys2Proof/Machine/Nodes.lean ====
section
/-!
DEFINITION. The number format and the evaluation of one fabric node, bit by bit where the manual states it (R102 to R123).
-/
namespace Sys2Proof.Machine

/-! ### Trigonometry -/

/-- π · 2^60, rounded. -/
def piScaled : Int := 3622009729038561421

/-- The Taylor tail x²·(1/(a(a+1)))·(…) of sine or cosine, on values scaled by 2^48. -/
def taylorTail : List Int → Int → Int
  | [], _ => 2 ^ 48
  | d :: ds, x2 => 2 ^ 48 - roundShift (x2 * taylorTail ds x2) 48 / d

/-- sin of a first-quadrant angle r / 2^30 of a quarter turn, scaled by 2^48. -/
def sinQuarter (r : Int) : Int :=
  let x := roundShift (r * piScaled) 43
  let x2 := roundShift (x * x) 48
  roundShift (x * taylorTail [6, 20, 42, 72, 110, 156, 210, 272, 342, 420] x2) 48

/-- cos of a first-quadrant angle, scaled by 2^48. -/
def cosQuarter (r : Int) : Int := sinQuarter (2 ^ 30 - r)

/-- sine of an angle in turns given as an unsigned 0.32 fraction, scaled by 2^48. -/
def sinTurn (t : Int) : Int :=
  let a := t % 2 ^ 32
  let r := a % 2 ^ 30
  match (a / 2 ^ 30).toNat with
  | 0 => sinQuarter r
  | 1 => cosQuarter r
  | 2 => - sinQuarter r
  | _ => - cosQuarter r

/-- cosine of an angle in turns given as an unsigned 0.32 fraction, scaled by 2^48. -/
def cosTurn (t : Int) : Int := sinTurn (t + 2 ^ 30)

/-- An error within ±n that an operation's stated accuracy leaves open. -/
def openErr (n : Int) (op : Nat) (xs : List Int) : Int := clampInt (-n) n (Config.roundErr op xs)

/-! ### The accumulator and the stage -/

/-- x × 2^(e) with rounding below 1 (R103). -/
def alignBy (x : Int) (e : Int) : Int := if e ≥ 0 then x * 2 ^ e.toNat else roundShift x (-e).toNat

/-- The accumulator and whether it has saturated. -/
abbrev Acc := Int × Bool

/-- A value brought into the 72-bit accumulator (R103). -/
def accSat (x : Int) : Acc :=
  if x ≥ 2 ^ 71 then (2 ^ 71 - 1, true) else if x ≤ -(2 ^ 71) then (-(2 ^ 71), true) else (x, false)

/-- A product of a word and a coefficient, aligned to the stage exponent es (R103). -/
def termMul (mx ex c ec es : Int) : Acc := accSat (alignBy (mx * c) (ex + ec - es))

/-- A word or a limit, aligned to the stage exponent es (R103). -/
def termWord (m e es : Int) : Acc := accSat (alignBy (m * 2 ^ 31) (e - es))

/-- A sum in the accumulator. -/
def accAdd (a b : Acc) : Acc :=
  let r := accSat (a.1 + b.1)
  (r.1, a.2 || b.2 || r.2)

/-- The sum of a list of terms. Where a partial sum saturates the order matters, and R103 gives none: the terms are added from the last to
the first (DESIGN CHOICE). -/
def accSum : List Acc → Acc
  | [] => (0, false)
  | t :: ts => accAdd t (accSum ts)

/-- A mantissa brought into 32 bits. -/
def mantSat (m : Int) : Int := clampInt (-(2 ^ 31)) (2 ^ 31 - 1) m

/-- The smallest k from k0 on for which every accumulator, rounded at the stage raised by k, lies below one half (R104). -/
def upshiftBy : Nat → Nat → List Int → Nat
  | 0, k, _ => k
  | fuel + 1, k, accs =>
    if accs.all (fun a => decide ((roundShift a (31 + k)).natAbs < 2 ^ 30)) then k else upshiftBy fuel (k + 1) accs

/-- What the stage rules of R104 answer: new exponent, output mantissas, shifted history, downshift count, and whether EXP_SAT counts. -/
structure Staged where
  exp  : Int
  ms   : List Int
  hist : List Int
  down : Nat
  sat  : Bool

/-- Upshift and ceiling of R104, with the outputs rounded once from the accumulators (R105). -/
def stageUp (es : Int) (accs hist : List Int) : Staged :=
  let k := upshiftBy 48 0 accs
  if es + (k : Int) > 63 then
    let d := (63 - es).toNat
    ⟨63, accs.map (fun a => mantSat (roundShift a (31 + d))), hist.map (fun h => roundShift h d), 0, true⟩
  else ⟨es + k, accs.map (fun a => roundShift a (31 + k)), hist.map (fun h => roundShift h k), 0, false⟩

/-- The downshift rule of R104, applied to the mantissas that stand in the stage after an evaluation; `shifted` is whether it shifted up. -/
def stageDown (outExp : Int) (down : Nat) (shifted : Bool) (st : Staged) : Staged :=
  let small := (st.ms ++ st.hist).all (fun m => decide (m.natAbs < 2 ^ 29))
  if !shifted && decide (st.exp > outExp) && small then
    if down + 1 ≥ 16 then { st with exp := st.exp - 1, ms := st.ms.map (2 * ·), hist := st.hist.map (2 * ·), down := 0 }
    else { st with down := down + 1 }
  else { st with down := 0 }

/-- The stage exponent and mantissa of a soft-start value (R110), and whether EXP_SAT counts. -/
def startStage (outExp : Int) (w : SigW) : Int × Int × Bool :=
  let m0 := alignBy w.m (w.e - outExp)
  let k := upshiftBy 200 0 [m0 * 2 ^ 31]
  if outExp + (k : Int) > 63 then
    let m := alignBy w.m (w.e - 63)
    (63, mantSat m, true)
  else (outExp + k, alignBy w.m (w.e - (outExp + k)), false)

/-! ### Fields of a node record -/

/-- A signed 32-bit field at offset `off` of the record (R78). -/
def nodeI32 (r : NodeRec) (off : Nat) : Int := toSigned 32 (leAt r.spec (off - 0x20) 4)

/-- An unsigned field of n bytes. -/
def nodeU (r : NodeRec) (off n : Nat) : Nat := leAt r.spec (off - 0x20) n

/-- A signed byte. -/
def nodeI8 (r : NodeRec) (off : Nat) : Int := toSigned 8 (leAt r.spec (off - 0x20) 1)

/-- FLAGS bit 0: the signal is expected to move. -/
def nodeMoves (r : NodeRec) : Bool := r.flags % 2 = 1
/-- FLAGS bit 1: part of the safety function. -/
def nodeSafety (r : NodeRec) : Bool := r.flags / 2 % 2 = 1
/-- FLAGS bit 2: input 2 carries tracking feedback. -/
def nodeTracked (r : NodeRec) : Bool := r.flags / 4 % 2 = 1

/-- Whether the node has a stage (R104). -/
def nodeStaged (r : NodeRec) : Bool :=
  r.type = 1 || r.type = 3 || (r.type = 4 && r.sub ≠ 3 && r.sub ≠ 4) || r.type = 5

/-- The stage exponent of a node: it starts at OUT_EXP, before the first soft-start too (R104); OUT_EXP for a node without a stage (R129). -/
def stageOf (r : NodeRec) (c : Cell) : Int := if nodeStaged r && (c.evald || c.outs ≠ []) then c.stage else r.outExp

/-! ### Evaluation -/

/-- What one evaluation raises: FAB_EVT bits, and the entry into or end of an action of R115. -/
structure NodeEvt where
  flags : List Nat
  act   : Option (Nat × Nat)   -- (cause, action); action 0 is an end
  sink  : Option SigW          -- a SINK_EVENT with its input word

/-- No event. -/
def NodeEvt.quiet : NodeEvt := ⟨[], none, none⟩

/-- The cell with its outputs marked invalid and their words carried (R111). -/
def cellInvalid (c : Cell) : Cell := { c with outs := c.outs.map (fun w => { w with v := false }) }

/-- Output words for mantissas at one exponent; an invalid output carries the words it last had while valid (R111). -/
def formOuts (old : List SigW) (v : Bool) (e : Int) (ms : List Int) : List SigW :=
  if v then ms.map (fun m => ⟨m, e, true⟩)
  else if old.length = ms.length then old.map (fun w => { w with v := false })
  else ms.map (fun _ => SigW.none)

/-- The loss and freeze counts after the feedback word f (R114), both saturating at 65,535. A repeat counts where the evaluation before
carried the same word with VALID = 1. -/
def countFeedback (c : Cell) (f : SigW) : Nat × Nat :=
  let loss := if f.v then 0 else min (c.loss + 1) 65535
  let same := f.v && c.last.v && decide (f.m = c.last.m) && decide (f.e = c.last.e) && c.evald
  (loss, if same then min (c.freeze + 1) 65535 else 0)

/-- Whether an action in force ends at this feedback word (R116): a valid one after a loss, another than the frozen one after a freeze. -/
def actionEnds (c : Cell) (f : SigW) : Bool :=
  if c.cause = 0 then f.v else decide (f.m ≠ c.frozen.m) || decide (f.e ≠ c.frozen.e)

/-- The error r − f at one above the larger exponent, rounded (R113). -/
def errorOf (r f : SigW) : ErrW :=
  let e := max r.e f.e + 1
  let lo := min r.e f.e
  ⟨roundShift (r.m * 2 ^ (r.e - lo).toNat - f.m * 2 ^ (f.e - lo).toNat) (e - lo).toNat, e⟩

/-- One evaluation of a COMP that is started (R113 to R116); `free` is whether no port under the token is deblocked, which a TRIP needs to end.
The evaluation in which a TRIP ends still gives no valid output; the soft-start is made at the next one, with the word latched in its tick
(DESIGN CHOICE: R116 has the node "then" soft-start, and does not say in which evaluation). -/
def evalComp (r : NodeRec) (c : Cell) (ins : List SigW) (free : Bool) : Cell × NodeEvt :=
  let ref := nth SigW.none ins 0
  let f := nth SigW.none ins 1
  let t := nth SigW.none ins 2
  let (loss, frz) := countFeedback c f
  let lossN := nodeU r 0x40 2
  let frzN := nodeU r 0x42 2
  let ended := (c.act = 1 || c.act = 2) && actionEnds c f
  let tripEnds := c.act = 3 && free && actionEnds c f
  let starts : Option Nat :=
    if c.act ≠ 0 then none
    else if loss ≥ lossN then some 0
    else if frzN ≠ 0 && frz ≥ frzN then some 1 else none
  let act := if ended || tripEnds then 0 else match starts with
    | some _ => nodeU r 0x3D 1 + 1
    | none => c.act
  let cause := match starts with
    | some x => x
    | none => c.cause
  let evt : Option (Nat × Nat) := match starts with
    | some x => some (x, nodeU r 0x3D 1 + 1)
    | none => if ended || tripEnds then some (c.cause, 0) else none
  let flags := (if ref.v then [] else [3]) ++ (match starts with
    | some 0 => [0]
    | some _ => [1]
    | none => []) ++ (if starts.isSome && act = 3 then [2] else [])
  let frozen := if starts = some 1 then f else c.frozen
  let base := { c with loss := loss, freeze := frz, last := f, frozen := frozen, act := act, cause := cause, evald := true }
  if tripEnds then ({ cellInvalid base with act := 4, evald := false }, ⟨flags, evt, none⟩)
  else if act = 3 then (cellInvalid base, ⟨flags, evt, none⟩)
  else
    let es := c.stage
    let oe := r.outExp
    let prev := if c.outs = [] then nth 0 c.hist 0 else (nth SigW.none c.outs 0).m
    let err := errorOf ref f
    let errs := if ended then [err, err, err] else c.errs
    let ce := nodeI8 r 0x3C
    let order := if r.sub = 0 then 2 else 3
    let normal : Acc :=
      accSum ((List.range (order + 1)).map (fun k =>
          let x := if k = 0 then err else nth ⟨0, 0⟩ errs (k - 1)
          termMul x.m x.e (nodeI32 r (0x20 + 4 * k)) ce es)
        ++ (List.range order).map (fun k =>
          termMul (- nth 0 c.hist k) es (nodeI32 r (0x30 + 4 * k)) ce es))
    let held : Acc := termWord prev es es
    let safe := (termWord (nodeI32 r 0x4C) oe es).1
    let step := (termWord (nodeI32 r 0x50) oe es).1
    let ramp : Acc :=
      (if held.1 < safe then min (held.1 + step) safe else max (held.1 - step) safe, held.2)
    let acc0 : Acc := if act = 0 then normal else if act = 1 then held else ramp
    let bound := accAdd (termWord t.m t.e es) (termWord (nodeI32 r 0x54) oe es)
    let losing := nodeTracked r && decide (prev * 2 ^ 31 > alignBy (t.m * 2 ^ 31) (t.e - es))
    let acc1 := if losing then min acc0.1 bound.1 else acc0.1
    let hi := (termWord (nodeI32 r 0x44) oe es).1
    let lo := (termWord (nodeI32 r 0x48) oe es).1
    let acc := max (min acc1 hi) lo
    -- the stage holds the history as this evaluation found it; it shifts once the stage rules have been applied (R104, R113)
    let up := stageUp es [acc] (c.hist.take order)
    let st := stageDown oe c.down (decide (up.exp ≠ es)) up
    let hist := if act = 1 then st.hist else (st.ms ++ st.hist).take order
    let newErrs := if act = 0 then (err :: errs).take 3 else c.errs
    ({ base with
        stage := st.exp, hist := hist, errs := newErrs, down := st.down
        outs := st.ms.map (fun m => ⟨m, st.exp, true⟩) },
      ⟨flags ++ (if acc0.2 || (losing && bound.2) then [4] else []) ++ (if up.sat then [5] else []), evt, none⟩)

/-- Whether word a lies below word b, compared exactly. -/
def wordLt (a b : SigW) : Bool :=
  let lo := min a.e b.e
  decide (a.m * 2 ^ (a.e - lo).toNat < b.m * 2 ^ (b.e - lo).toNat)

/-- Position of the lowest word among the admitted positions, ties to the lowest index (R117). -/
def lowestOf (ins : List SigW) (ok : Nat → Bool) : Option Nat :=
  (List.range ins.length).foldl (fun best i =>
    if ok i then
      match best with
      | none => some i
      | some j => if wordLt (nth SigW.none ins i) (nth SigW.none ins j) then some i else some j
    else best) none

/-- Whether candidate x lies below candidate w less a margin at exponent oe (R117). -/
def takesOver (x w : SigW) (margin oe : Int) : Bool :=
  let lo := min (min x.e w.e) oe
  decide (x.m * 2 ^ (x.e - lo).toNat < w.m * 2 ^ (w.e - lo).toNat - margin * 2 ^ (oe - lo).toNat)

/-- One evaluation of a SEL (R117). -/
def evalSel (r : NodeRec) (c : Cell) (ins : List SigW) : Cell × NodeEvt :=
  let seen := (List.range ins.length).foldl (fun a i =>
    if (nth SigW.none ins i).v then a ||| (2 ^ i) else a) c.seen
  let ok := fun i => seen.testBit i
  let pick : Option Nat := match c.winner with
    | some w =>
      if ok w then
        let cw := nth SigW.none ins w
        let ch := fun i => ok i && decide (i ≠ w) && takesOver (nth SigW.none ins i) cw (nodeI32 r (0x24 + 4 * i)) r.outExp
        match lowestOf ins ch with
        | some i => some i
        | none => some w
      else lowestOf ins ok
    | none => lowestOf ins ok
  match pick with
  | some i =>
    let w := nth SigW.none ins i
    ({ c with outs := [w, ⟨i, 31, w.v⟩], winner := some i, seen := seen, evald := true }, NodeEvt.quiet)
  | none => ({ c with outs := [SigW.none, ⟨0, 31, false⟩], winner := none, seen := seen, evald := true }, NodeEvt.quiet)

/-- One evaluation of a LIM (R119); inputs 1 and 2 that are invalid are used at their carried value. Its last output stands in its stage
until the stage rules have been applied, as the output history of a COMP does (DEDUCED). -/
def evalLim (r : NodeRec) (c : Cell) (ins : List SigW) : Cell × NodeEvt :=
  let es := c.stage
  let oe := r.outExp
  let x := nth SigW.none ins 0
  let ax := termWord x.m x.e es
  let dyn := fun k => termWord (nth SigW.none ins k).m (nth SigW.none ins k).e es
  let lim := fun off => (termWord (nodeI32 r off) oe es).1
  let u0 := if ins.length > 1 then min (lim 0x20) (dyn 1).1 else lim 0x20
  let l0 := if ins.length > 2 then max (lim 0x24) (dyn 2).1 else lim 0x24
  let crossed := decide (l0 > u0)
  let l := if crossed then u0 else l0
  let hold := (List.range ins.length).any (fun k => decide (k ≥ 1) && !(nth SigW.none ins k).v)
  let prev := nth 0 c.hist 0 * 2 ^ 31
  let moved :=
    if r.sub = 0 then ax.1
    else if r.sub = 1 then prev + clampInt (-(lim 0x2C)) (lim 0x28) (ax.1 - prev)
    else if c.there then ax.1
    else prev + clampInt (-(lim 0x30)) (lim 0x30) (ax.1 - prev)
  let acc := max (min moved u0) l
  let up := stageUp es [acc] (c.hist.take 1)
  let st := stageDown oe c.down (decide (up.exp ≠ es)) up
  ({ c with
      stage := st.exp, hist := st.ms, down := st.down, evald := true
      there := c.there || (r.sub = 2 && decide (acc = ax.1))
      outs := formOuts c.outs x.v st.exp st.ms },
    ⟨(if ax.2 || (List.range ins.length).any (fun k => (dyn k).2) then [4] else []) ++ (if up.sat then [5] else [])
      ++ (if crossed || hold then [6] else []), none, none⟩)

/-- The square root of a word with x ≥ 0, as a mantissa at half its exponent rounded up; correct to one unit (R121). -/
def sqrtWord (x : SigW) : Int × Int :=
  let eh := (x.e + 1) / 2
  let n := (x.m * 2 ^ (31 + x.e - 2 * eh).toNat).toNat
  let r := (isqrt 32 n : Int)
  let bump := if r * r = (n : Int) then 0 else clampInt 0 1 (Config.roundErr 6 [x.m, x.e])
  (r + bump, eh)

/-- One evaluation of an ARITH (R120, R121). -/
def evalArith (r : NodeRec) (c : Cell) (ins : List SigW) : Cell × NodeEvt :=
  let es := c.stage
  let ke := nodeI8 r 0x44
  let kk := fun i => nodeI32 r (0x20 + 4 * i)
  let x := fun i => nth SigW.none ins i
  let v := ins.all (·.v)
  let konst := termWord (nodeI32 r 0x40) ke es
  let prod := roundShift ((x 0).m * (x 1).m) 31
  let pe := (x 0).e + (x 1).e
  if r.sub = 3 || r.sub = 4 then
    let pick := if r.sub = 3 then lowestOf ins (fun _ => true)
      else lowestOf (ins.map (fun w => { w with m := -w.m })) (fun _ => true)
    match pick with
    | some i =>
      let w := x i
      let out : List SigW := if v then [{ w with v := true }]
        else if c.outs.length = 1 then c.outs.map (fun o => { o with v := false }) else [SigW.none]
      ({ c with outs := out, evald := true }, NodeEvt.quiet)
    | none => (c, NodeEvt.quiet)
  else
    let neg := r.sub = 6 && decide ((x 0).m < 0)
    let acc : Acc := match r.sub with
      | 0 => accAdd (accSum ((List.range ins.length).map (fun i => termMul (x i).m (x i).e (kk i) ke es))) konst
      | 1 => termMul prod pe (kk 0) ke es
      | 2 => accAdd (accAdd (termMul prod pe (kk 0) ke es) (termMul (x 2).m (x 2).e (kk 1) ke es)) konst
      | 5 => termMul (x 0).m.natAbs (x 0).e (kk 0) ke es
      | _ => if neg then (0, false) else termMul (sqrtWord (x 0)).1 (sqrtWord (x 0)).2 (kk 0) ke es
    let up := stageUp es [acc.1] []
    let st := stageDown r.outExp c.down (decide (up.exp ≠ es)) up
    ({ c with stage := st.exp, down := st.down, evald := true, outs := formOuts c.outs v st.exp st.ms },
      ⟨(if acc.2 then [4] else []) ++ (if up.sat then [5] else []) ++ (if neg then [10] else []), none, none⟩)

/-- A word times a factor scaled by 2^48, aligned to the stage exponent. -/
def termTrig (w : SigW) (k : Int) (es : Int) : Acc := accSat (alignBy (w.m * k) (w.e - es - 17))

/-- 2/3, 1/3, 1/√3, 1/2 and √3/2 scaled by 2^48 (R122). -/
def twoThirds : Int := 187649984473771
/-- 1/3 scaled by 2^48. -/
def oneThird : Int := 93824992236885
/-- 1/√3 scaled by 2^48. -/
def invSqrt3 : Int := 162509653574041
/-- √3/2 scaled by 2^48. -/
def sqrt3Half : Int := 243764480361061
/-- 1/2 scaled by 2^48. -/
def oneHalf : Int := 140737488355328

/-- φ = ROT × (θ + ANGLE_OFS) as a 0.32 fraction of a turn (R122). -/
def xformAngle (r : NodeRec) (ins : List SigW) : Int :=
  let t := ((nth SigW.none ins (nodeU r 0x20 1)).m + (nodeU r 0x24 4 : Int)) % 2 ^ 32
  (nodeI8 r 0x21) * t

/-- The accumulators of XFORM subtypes 0 to 3 (R122). -/
def xformAccs (r : NodeRec) (ins : List SigW) (es : Int) : List Acc :=
  let w := fun i => nth SigW.none ins i
  let ph := xformAngle r ins
  let cs := cosTurn ph
  let sn := sinTurn ph
  match r.sub with
  | 0 => [accSum [termTrig (w 0) twoThirds es, termTrig (w 1) (-oneThird) es, termTrig (w 2) (-oneThird) es],
          accSum [termTrig (w 1) invSqrt3 es, termTrig (w 2) (-invSqrt3) es]]
  | 1 => [termTrig (w 0) (2 ^ 48) es,
          accSum [termTrig (w 0) (-oneHalf) es, termTrig (w 1) sqrt3Half es],
          accSum [termTrig (w 0) (-oneHalf) es, termTrig (w 1) (-sqrt3Half) es]]
  | 2 => [accSum [termTrig (w 0) cs es, termTrig (w 1) sn es],
          accSum [termTrig (w 0) (-sn) es, termTrig (w 1) cs es]]
  | _ => [accSum [termTrig (w 0) cs es, termTrig (w 1) (-sn) es],
          accSum [termTrig (w 0) sn es, termTrig (w 1) cs es]]

/-- k of R123 scaled by 2^48 for a sample period of ts ns and the rated frequency fb. -/
def seqGain (fb ts : Nat) : Int :=
  -- x = T_s ω_f with ω_f = √2 π f_b; √2 π · 2^48 = 1250560371546297
  let x := roundDiv (1250560371546297 * fb * ts) 1000000000
  roundDiv (x * 2 ^ 48) (2 ^ 48 + x).toNat

/-- N_fill of R123. -/
def fillLength (fb ts : Nat) : Nat := (1000000000 + fb * ts - 1) / (fb * ts)

/-- The accumulators of XFORM subtype 4: the new Dp, Qp, Dn, Qn (R123). -/
def seqAccs (r : NodeRec) (c : Cell) (ins : List SigW) (k : Int) : List Acc :=
  let es := c.stage
  let a := termWord (nth SigW.none ins 0).m (nth SigW.none ins 0).e es
  let b := termWord (nth SigW.none ins 1).m (nth SigW.none ins 1).e es
  let ph := xformAngle r ins
  let c1 := cosTurn ph
  let s1 := sinTurn ph
  let c2 := cosTurn (2 * ph)
  let s2 := sinTurn (2 * ph)
  let mul := fun (x t : Int) => roundShift (x * t) 48
  let h := fun i => nth 0 c.hist i * 2 ^ 31
  let dp := h 0; let qp := h 1; let dn := h 2; let qn := h 3
  -- four terms, each the product of a word and a sine or cosine, summed in the accumulator
  let four := fun (w x y z : Int) => accSum [(w, a.2), (x, b.2), (y, false), (z, false)]
  let dpx := four (mul a.1 c1) (mul b.1 s1) (- mul dn c2) (- mul qn s2)
  let qpx := four (- mul a.1 s1) (mul b.1 c1) (mul dn s2) (- mul qn c2)
  let dnx := four (mul a.1 c1) (- mul b.1 s1) (- mul dp c2) (mul qp s2)
  let qnx := four (mul a.1 s1) (mul b.1 c1) (- mul dp s2) (- mul qp c2)
  let upd := fun (old : Int) (new : Acc) =>
    let d := accAdd new (-old, false)
    accAdd (old, false) (mul d.1 k, d.2)
  [upd dp dpx, upd qp qpx, upd dn dnx, upd qn qnx]

/-- A stage raised by one more step, its outputs rounded from the accumulators there (R104). -/
def stageOnce (es : Int) (accs : List Int) (up : Staged) : Staged :=
  { up with exp := up.exp + 1, ms := accs.map (fun a => roundShift a (31 + (up.exp + 1 - es).toNat)) }

/-- One evaluation of an XFORM (R122, R123); `k` is the gain of subtype 4. The result lies within 2^−30 of full scale of the exact value, as
R122 states: half a unit of rounding and an open unit, or half a unit alone where the stage shifts down and doubles it. An output that the open unit brings to
2^30 raises the stage once more (R104). -/
def evalXform (r : NodeRec) (c : Cell) (ins : List SigW) (k : Int) : Cell × NodeEvt :=
  let es := c.stage
  let accs := if r.sub = 4 then seqAccs r c ins k else xformAccs r ins es
  let up0 := stageUp es (accs.map (·.1)) []
  let raw := ins.map (·.m)
  let open_ := fun (u : Staged) => { u with ms := (List.range u.ms.length).map (fun i =>
    mantSat (nth 0 u.ms i + openErr 1 (100 + 10 * r.sub + i) raw)) }
  let up1 := open_ up0
  let up := if decide (up1.exp < 63) && up1.ms.any (fun m => decide (2 ^ 30 ≤ m.natAbs)) then open_ (stageOnce es (accs.map (·.1)) up0) else up1
  let down := fun (u : Staged) => stageDown r.outExp c.down (decide (u.exp ≠ es)) u
  let st := if (down up).exp < up.exp then down up0 else down up
  let v := ins.all (·.v) && (r.sub ≠ 4 || decide (c.fill = 0))
  ({ c with
      stage := st.exp, down := st.down, evald := true
      hist := if r.sub = 4 then st.ms else c.hist
      fill := c.fill - 1
      outs := formOuts c.outs v st.exp st.ms },
    ⟨(if accs.any (·.2) then [4] else []) ++ (if up.sat then [5] else []), none, none⟩)

/-- Whether an input makes the outputs invalid under R112. -/
def typeErr (r : NodeRec) (ins : List SigW) : Bool :=
  let angleIn := if r.type = 5 && r.sub ≥ 2 then some (nodeU r 0x20 1) else none
  r.type ≤ 5 && (List.range ins.length).any (fun i =>
    let ang := decide ((nth SigW.none ins i).e = -128)
    if angleIn = some i then !ang else ang)

/-- One evaluation of a SINK: its output repeats its input; subtype 5 reports an event (R473). -/
def evalSink (r : NodeRec) (c : Cell) (ins : List SigW) : Cell × NodeEvt :=
  let w := nth SigW.none ins 0
  let now := w.v && decide (w.m ≠ 0)
  let was := c.last.v && decide (c.last.m ≠ 0)
  ({ c with outs := [w], last := w, evald := true },
    if r.sub = 5 && now && !was then ⟨[11], none, some w⟩ else NodeEvt.quiet)

/-- One evaluation of a SRC: it takes up the word supplied to it, carrying the last valid one while that is invalid (R111). -/
def evalSrc (c : Cell) (w : SigW) : Cell × NodeEvt :=
  let o := if w.v then w else match c.outs with
    | [o] => { o with v := false }
    | _ => { SigW.none with e := w.e }
  ({ c with outs := [o], evald := true }, NodeEvt.quiet)

/-- The cell a node takes up at its soft-start from value w (R110), and whether EXP_SAT counts. No output word of before stays: one that is
not valid from here on is zero (R111). -/
def startCell (r : NodeRec) (w : SigW) (fill : Nat) : Cell × Bool :=
  let (e, m, sat) := startStage r.outExp w
  let base : Cell := { Cell.fresh with act := 0, soft := false }
  match r.type with
  | 1 => ({ base with stage := e, hist := [m, m, m] }, sat)
  | 3 => ({ base with stage := e, hist := [m] }, sat)
  | 5 => if r.sub = 4 then ({ base with stage := e, hist := [0, 0, 0, 0], fill := fill }, sat)
         else ({ base with stage := e }, sat)
  | _ => if nodeStaged r then ({ base with stage := e }, sat) else ({ base with stage := r.outExp }, false)

end Sys2Proof.Machine
end

