-- ==== Sys2Proof/Machine/ParamTab.lean ====
section
/-!
DEFINITION. The parameter identifiers of every section: KIND, instances, range, default and whether required
(R76, R162, R195, R235, R264, R292, R314, R335, R359, R378, R448). Bounds and defaults are numerators over `den`; TIME is in ns.
-/
namespace Sys2Proof.Machine

/-- One row of a parameter table. `insts` is 0 for a parameter without instances; `bounded` is false where any value is allowed. -/
structure ParamRow where
  pid     : Nat
  kind    : Nat
  insts   : Nat
  bounded : Bool
  lo      : Int
  hi      : Int
  den     : Nat
  dflt    : Int
  req     : Bool
deriving DecidableEq, Repr

/-- Section type 0x0001. -/
def paramRowsSystem : List ParamRow := [
  ⟨0x0101, 1, 0, true, 1000000, 10000000000, 1, 0, true⟩,  -- S_B
  ⟨0x0102, 1, 0, true, 1000, 1000000, 1, 0, true⟩,  -- V_B
  ⟨0x0103, 1, 0, true, 1000, 1200000, 1, 0, true⟩,  -- VDC_B
  ⟨0x0104, 1, 0, true, 50, 60, 1, 0, true⟩,  -- F_B
  ⟨0x0105, 1, 0, true, 1, 512, 1, 0, true⟩,  -- N_NOM
  ⟨0x0106, 2, 0, true, 0, 2, 1, 0, true⟩,  -- TICK
  ⟨0x0107, 1, 0, true, 1280, 10240, 1, 0, true⟩,  -- T_SW
  ⟨0x0108, 1, 4, true, 1, 1000, 1, 0, true⟩,  -- RG_DIV
  ⟨0x0109, 1, 5, true, 0, 12800, 1, 0, true⟩,  -- PH_START
  ⟨0x010A, 1, 5, true, 1, 12800, 1, 0, true⟩,  -- PH_LEN
  ⟨0x010B, 1, 5, true, 1, 12800, 1, 0, true⟩,  -- PH_DECL
  ⟨0x010C, 0, 0, true, 1, 10000, 100, 100, false⟩,  -- STOP_RATE
  ⟨0x010D, 1, 0, true, 1, 1000, 1, 100, false⟩,  -- STOP_LIMIT
  ⟨0x010E, 2, 0, true, 0, 1, 1, 1, false⟩,  -- STOP_RELEASE
  ⟨0x010F, 2, 0, true, 0, 1, 1, 1, false⟩,  -- DD_TOKEN
  ⟨0x0110, 1, 0, true, 1000, 600000, 1, 60000, false⟩,  -- PRECHG_LIMIT
  ⟨0x0111, 1, 0, true, 1, 10000, 1, 500, false⟩,  -- INRUSH_LIMIT
  ⟨0x0112, 1, 0, true, 100, 600000, 1, 30000, false⟩,  -- SYNC_LIMIT
  ⟨0x0113, 1, 0, true, 10, 10000, 1, 3000, false⟩,  -- RT_LIMIT
  ⟨0x0114, 1, 0, true, 1, 10000, 1, 100, false⟩,  -- RECOVERY
  ⟨0x0115, 1, 0, true, 1000, 86400000, 1, 3600000, false⟩,  -- SERVICE_LIMIT
  ⟨0x0116, 1, 0, true, 1, 60000, 1, 100, false⟩,  -- HOST_REQ_TIMEOUT
  ⟨0x0117, 2, 0, true, 0, 1, 1, 0, false⟩,  -- PRE_SIDE
  ⟨0x0118, 1, 0, true, 0, 16, 1, 16, false⟩,  -- PRE_CHG_OUT
  ⟨0x0119, 1, 0, true, 0, 16, 1, 16, false⟩,  -- PRE_BYP_OUT
  ⟨0x011A, 1, 0, true, 0, 16, 1, 16, false⟩,  -- PRE_BYP_IN
  ⟨0x011B, 0, 0, true, 1, 10, 10, 5, false⟩,  -- PRE_V_BYP
  ⟨0x011C, 0, 0, true, 3, 12, 10, 6, false⟩,  -- PRE_V_DONE
  ⟨0x011D, 1, 0, true, 10, 10000, 1, 200, false⟩,  -- PRE_SETTLE
  ⟨0x011E, 1, 0, true, 10, 5000, 1, 500, false⟩ ]  -- PRE_BYP_CONF

/-- Section type 0x0007. -/
def paramRowsSwing : List ParamRow := [
  ⟨0x0701, 0, 0, true, 1, 300, 10, 0, true⟩,  -- H
  ⟨0x0702, 0, 0, true, 0, 500, 1, 50, false⟩,  -- D
  ⟨0x0703, 3, 0, true, 10000000, 10000000000, 1, 1000000000, false⟩,  -- T_D
  ⟨0x0704, 0, 0, true, 1, 40, 200, 10, false⟩,  -- DROOP_P
  ⟨0x0705, 0, 0, true, 1, 100, 200, 10, false⟩,  -- DROOP_Q
  ⟨0x0706, 3, 0, true, 1000000, 1000000000, 1, 20000000, false⟩,  -- T_Q
  ⟨0x0707, 0, 0, true, 4, 6, 5, 5, false⟩,  -- V_SET
  ⟨0x0708, 0, 0, true, 19, 21, 20, 20, false⟩,  -- W_SET
  ⟨0x0709, 0, 0, true, 0, 50, 100, 1, false⟩,  -- RV_P
  ⟨0x070A, 0, 0, true, 0, 5, 10, 1, false⟩,  -- XV_P
  ⟨0x070B, 0, 0, true, 0, 50, 100, 1, false⟩,  -- RV_N
  ⟨0x070C, 0, 0, true, 0, 10, 20, 1, false⟩,  -- XV_N
  ⟨0x070D, 0, 0, true, 1, 15, 10, 11, false⟩,  -- I_MAX_P
  ⟨0x070E, 0, 0, true, 0, 15, 10, 1, false⟩,  -- I_MAX_N
  ⟨0x070F, 0, 0, true, 1, 15, 10, 12, false⟩,  -- I_MAX_P_RT
  ⟨0x0710, 0, 0, true, 0, 15, 10, 3, false⟩,  -- I_MAX_N_RT
  ⟨0x0711, 0, 0, true, 1, 30, 10, 15, false⟩,  -- I_PH_MAX
  ⟨0x0712, 2, 0, true, 0, 2, 1, 0, false⟩,  -- SPLIT_FORM
  ⟨0x0713, 2, 0, true, 0, 2, 1, 1, false⟩,  -- SPLIT_RT
  ⟨0x0714, 0, 0, true, 1, 1000, 10, 50, false⟩,  -- CEIL_RATE
  ⟨0x0715, 0, 0, true, 50, 99, 100, 85, false⟩,  -- W_RES
  ⟨0x0716, 0, 0, true, 101, 150, 100, 115, false⟩,  -- W_CAP
  ⟨0x0717, 0, 0, true, 1, 100, 1000, 20, false⟩,  -- ROCOF_MAX
  ⟨0x0718, 3, 0, true, 1000000, 1000000000, 1, 20000000, false⟩,  -- T_BR
  ⟨0x0719, 3, 0, true, 10000000, 10000000000, 1, 100000000, false⟩,  -- T_HOLD
  ⟨0x071A, 0, 0, true, 1, 10000, 100, 100, false⟩,  -- H_RISE
  ⟨0x071B, 0, 0, true, 2, 19, 20, 17, false⟩,  -- V_RT_ENTER
  ⟨0x071C, 0, 0, true, 15, 98, 100, 90, false⟩,  -- V_RT_EXIT
  ⟨0x071D, 0, 0, true, 21, 30, 20, 23, false⟩,  -- V_HI_ENTER
  ⟨0x071E, 0, 0, true, 102, 145, 100, 110, false⟩,  -- V_HI_EXIT
  ⟨0x071F, 0, 0, true, 1, 50, 100, 5, false⟩,  -- V_NEG_ENTER
  ⟨0x0720, 0, 0, true, 1, 90, 200, 6, false⟩,  -- V_NEG_EXIT
  ⟨0x0721, 0, 0, true, 1, 100, 1000, 20, false⟩,  -- RT_DF_MAX
  ⟨0x0722, 0, 0, true, 1, 10, 100, 5, false⟩,  -- DF_LIMIT
  ⟨0x0723, 0, 0, true, 1, 100, 20, 10, false⟩,  -- BS_RATE
  ⟨0x0724, 0, 0, true, 5, 11, 10, 10, false⟩,  -- BS_TARGET
  ⟨0x0725, 0, 0, true, 1, 15, 10, 5, false⟩,  -- I_MAX_BS
  ⟨0x0726, 3, 0, true, 1000000, 10000000000, 1, 50000000, false⟩,  -- BS_SETTLE
  ⟨0x0727, 0, 0, true, 1, 100, 10, 10, false⟩,  -- SYNC_K
  ⟨0x0728, 0, 0, true, 1, 20, 2000, 4, false⟩,  -- SYNC_DF_MAX
  ⟨0x0729, 0, 0, true, 1, 50, 1000, 10, false⟩,  -- SYNC_DTH
  ⟨0x072A, 0, 0, true, 1, 20, 200, 4, false⟩,  -- SYNC_DV
  ⟨0x072B, 0, 0, true, 1, 50, 10000, 10, false⟩,  -- SYNC_DF
  ⟨0x072C, 3, 0, true, 10000000, 10000000000, 1, 200000000, false⟩,  -- SYNC_HOLD
  ⟨0x072D, 3, 0, true, 1000000, 500000000, 1, 60000000, false⟩,  -- T_BRK
  ⟨0x072E, 3, 0, true, 10000000, 1000000000, 1, 100000000, false⟩,  -- CLOSE_WIN
  ⟨0x072F, 1, 0, true, 0, 15, 1, 0, false⟩,  -- BRK_OUT
  ⟨0x0730, 1, 0, true, 1000, 1000000, 1, 200000, false⟩,  -- BRK_PULSE
  ⟨0x0731, 0, 0, true, 1, 50, 1000, 10, false⟩,  -- ISL_DF
  ⟨0x0732, 3, 0, true, 20000000, 10000000000, 1, 500000000, false⟩,  -- ISL_TIME
  ⟨0x0733, 0, 0, true, -3, 3, 2, 0, false⟩,  -- ISL_P_REF
  ⟨0x0734, 0, 0, true, -3, 3, 2, 0, false⟩,  -- ISL_Q_REF
  ⟨0x0735, 1, 0, true, 1, 1000, 1, 4, false⟩,  -- LOSS_N
  ⟨0x0736, 3, 0, true, 1000000, 1000000000, 1, 20000000, false⟩,  -- LOSS_LIMIT
  ⟨0x0737, 0, 0, true, 1, 100, 1, 20, false⟩,  -- TRACK_BW
  ⟨0x0738, 0, 0, true, 6, 19, 20, 14, false⟩,  -- V_LIVE
  ⟨0x0739, 0, 0, true, 1, 30, 100, 5, false⟩ ]  -- V_DEAD

/-- Section type 0x0008. -/
def paramRowsArms : List ParamRow := [
  ⟨0x0801, 2, 6, true, 0, 1, 1, 0, true⟩,  -- ARM_EN
  ⟨0x0802, 1, 6, true, 1, 512, 1, 0, true⟩,  -- N_SM
  ⟨0x0803, 2, 6, true, 0, 1, 1, 0, true⟩,  -- SM_TYPE
  ⟨0x0804, 0, 6, true, 1, 1000, 10000, 0, true⟩,  -- C_NOM
  ⟨0x0805, 1, 6, true, 1, 512, 1, 0, false⟩,  -- N_REQ
  ⟨0x0806, 0, 0, true, 0, 10, 50, 1, false⟩,  -- V_HYST
  ⟨0x0807, 1, 0, true, 0, 1000, 1, 5, false⟩,  -- DWELL
  ⟨0x0808, 0, 0, true, 0, 10, 100, 1, false⟩,  -- I_DEAD
  ⟨0x0809, 0, 0, true, 20, 30, 20, 23, false⟩,  -- V_SM_HI
  ⟨0x080A, 0, 0, true, 10, 20, 20, 17, false⟩,  -- V_SM_LO
  ⟨0x080B, 0, 0, true, 21, 40, 20, 26, false⟩,  -- V_SM_OV
  ⟨0x080C, 2, 0, true, 0, 1, 1, 1, false⟩,  -- ACCT_RULE
  ⟨0x080D, 1, 0, true, 0, 100, 1, 2, false⟩,  -- UP_HOLD
  ⟨0x080E, 3, 0, true, 100000, 100000000, 1, 5000000, false⟩,  -- UP_LIMIT
  ⟨0x080F, 1, 0, true, 1, 10000, 1, 10, false⟩,  -- SM_LOSS_N
  ⟨0x0810, 1, 0, true, 1, 1000, 1, 2, false⟩,  -- DEM_LOSS_N
  ⟨0x0811, 3, 0, true, 100000, 100000000, 1, 2000000, false⟩,  -- I_LOSS_LIMIT
  ⟨0x0812, 2, 0, true, 0, 1, 1, 1, false⟩,  -- USE_ID
  ⟨0x0813, 2, 0, true, 0, 1, 1, 1, false⟩,  -- ID_CAP_AUTO
  ⟨0x0814, 0, 0, true, 1, 10, 20, 2, false⟩,  -- ID_DV_MIN
  ⟨0x0815, 0, 0, true, 1, 50, 100, 5, false⟩,  -- C_TOL
  ⟨0x0816, 1, 0, true, 2, 32, 1, 4, false⟩,  -- L_DN
  ⟨0x0817, 3, 0, true, 20000, 5000000, 1, 200000, false⟩,  -- L_TPULSE
  ⟨0x0818, 1, 0, true, 1, 64, 1, 8, false⟩,  -- L_REPEAT
  ⟨0x0819, 0, 0, true, 1, 50, 100, 5, false⟩ ]  -- I_TEST_MAX

/-- Section type 0x0009. -/
def paramRowsCord : List ParamRow := [
  ⟨0x0901, 1, 6, true, 1, 255, 1, 255, false⟩,  -- LANE_EN
  ⟨0x0902, 1, 6, true, 1, 8, 1, 1, false⟩,  -- LANES_MIN
  ⟨0x0903, 2, 48, true, 1, 3, 1, 3, false⟩,  -- GEN_MAX
  ⟨0x0904, 1, 6, true, 0, 4294967295, 1, 0, false⟩,  -- VBU_SN_CRC
  ⟨0x0905, 3, 0, true, 1000000, 100000000, 1, 20000000, false⟩,  -- T_PHASE
  ⟨0x0906, 3, 0, true, 10000000, 10000000000, 1, 250000000, false⟩,  -- T_PORT
  ⟨0x0907, 1, 0, true, 1, 254, 1, 64, false⟩,  -- EYE_MIN
  ⟨0x0908, 1, 0, true, 2, 255, 1, 96, false⟩,  -- EYE_WARN
  ⟨0x0909, 1, 0, true, 1, 64, 1, 4, false⟩,  -- LINK_ERR_N
  ⟨0x090A, 3, 0, true, 100000, 100000000, 1, 1000000, false⟩,  -- DLY_PERIOD
  ⟨0x090B, 1, 0, true, 500, 10000, 1, 2000, false⟩,  -- DLY_DRIFT_MAX
  ⟨0x090C, 1, 0, true, 0, 15, 1, 8, false⟩,  -- MGT_RETRY_N
  ⟨0x090D, 3, 0, true, 100000, 100000000, 1, 2000000, false⟩,  -- MGT_RETRY_INT
  ⟨0x090E, 1, 0, true, 1, 4, 1, 2, false⟩ ]  -- VBU_HOLD_MAX

/-- Section type 0x000A. -/
def paramRowsDirect : List ParamRow := [
  ⟨0x0A01, 1, 0, true, 0, 16777215, 1, 0, true⟩,  -- CH_EN
  ⟨0x0A02, 2, 24, true, 0, 1, 1, 0, false⟩,  -- CH_SRC
  ⟨0x0A03, 1, 24, true, 128, 1048575, 1, 0, true⟩,  -- CH_PER
  ⟨0x0A04, 1, 24, true, 0, 1048574, 1, 0, false⟩,  -- CH_PHS
  ⟨0x0A05, 2, 4, true, 0, 1, 1, 0, false⟩,  -- CH_PRIV
  ⟨0x0A06, 1, 6, true, 256, 409600, 1, 10240, false⟩,  -- DT
  ⟨0x0A07, 1, 6, true, 512, 819200, 1, 20480, false⟩,  -- T_MIN
  ⟨0x0A08, 2, 6, true, 0, 1, 1, 0, false⟩,  -- MINP_MODE
  ⟨0x0A09, 3, 6, true, 200, 20000, 1, 2000, false⟩,  -- T_BLANK
  ⟨0x0A0A, 1, 6, true, 0, 255, 1, 64, false⟩,  -- TRP_FILT
  ⟨0x0A0B, 2, 6, true, 0, 1, 1, 0, false⟩,  -- TRP_POL
  ⟨0x0A0C, 3, 6, true, 1000000, 1000000000, 1, 100000000, false⟩,  -- T_RETRY
  ⟨0x0A0D, 1, 6, true, 0, 7, 1, 3, false⟩,  -- RETRY_N
  ⟨0x0A0E, 3, 6, true, 2000000, 60000000000, 1, 10000000000, false⟩,  -- RETRY_WIN
  ⟨0x0A0F, 2, 6, true, 0, 1, 1, 1, false⟩,  -- TPC_EN
  ⟨0x0A10, 1, 6, true, 320, 6400, 1, 1280, false⟩,  -- TPC_DIV
  ⟨0x0A11, 3, 6, true, 1000, 1000000, 1, 20000, false⟩,  -- T_BS
  ⟨0x0A12, 3, 6, true, 1000000, 10000000000, 1, 100000000, false⟩,  -- T_HOLD
  ⟨0x0A13, 1, 6, true, 0, 3, 1, 0, false⟩,  -- XPAIR
  ⟨0x0A14, 1, 0, true, 1, 1000, 1, 4, false⟩,  -- LOSS_N
  ⟨0x0A15, 2, 0, true, 0, 1, 1, 1, false⟩ ]  -- LOCK_REACT

/-- Section type 0x000B. -/
def paramRowsMeas : List ParamRow := [
  ⟨0x0B01, 1, 0, true, 0, 4294967295, 1, 0, true⟩,  -- CH_EN
  ⟨0x0B02, 2, 32, true, 0, 3, 1, 0, false⟩,  -- CH_INPUT
  ⟨0x0B03, 2, 32, true, 0, 2, 1, 0, false⟩,  -- CH_GAIN
  ⟨0x0B04, 1, 32, true, 0, 5, 1, 2, false⟩,  -- CH_STAGES
  ⟨0x0B05, 1, 32, true, 0, 1023, 1, 656, false⟩,  -- CH_KERN
  ⟨0x0B06, 0, 32, false, 0, 0, 1, 0, true⟩,  -- CH_SCALE
  ⟨0x0B07, 2, 32, true, 0, 1, 1, 0, false⟩,  -- DCB_EN
  ⟨0x0B08, 1, 32, true, 8, 24, 1, 16, false⟩,  -- DCB_SHIFT
  ⟨0x0B09, 2, 32, true, 0, 1, 1, 0, false⟩,  -- DCB_AUTO
  ⟨0x0B0A, 1, 32, true, 0, 65535, 1, 64, false⟩,  -- DCB_HOLD
  ⟨0x0B0B, 2, 32, true, 0, 1, 1, 0, false⟩,  -- SH_EN
  ⟨0x0B0C, 2, 32, true, 0, 1, 1, 0, false⟩,  -- SH_BANK
  ⟨0x0B0D, 0, 4096, false, 0, 0, 1, 0, false⟩,  -- SH_COEF: any Q1.31 mantissa at the bank exponent
  ⟨0x0B0E, 1, 32, true, -8388608, 8388607, 1, 8388607, false⟩,  -- WIN_HI
  ⟨0x0B0F, 1, 32, true, -8388608, 8388607, 1, -8388608, false⟩,  -- WIN_LO
  ⟨0x0B10, 1, 32, true, 0, 8388607, 1, 0, false⟩,  -- WIN_HYST
  ⟨0x0B11, 2, 0, true, 0, 1, 1, 0, false⟩,  -- TRG_SRC
  ⟨0x0B12, 1, 0, true, 0, 23, 1, 0, false⟩,  -- TRG_CH
  ⟨0x0B13, 1, 0, true, 0, 1048574, 1, 0, false⟩,  -- TRG_DLY
  ⟨0x0B14, 1, 2, true, 32, 65535, 1, 320, false⟩,  -- PLS_PERIOD
  ⟨0x0B15, 1, 2, true, 0, 7, 1, 7, false⟩,  -- PLS_SLOT
  ⟨0x0B16, 1, 2, true, 1, 4096, 1, 16, false⟩,  -- PLS_TOL
  ⟨0x0B17, 1, 2, true, 1, 255, 1, 3, false⟩,  -- PLS_N
  ⟨0x0B18, 2, 2, true, 0, 1, 1, 1, false⟩,  -- PLS_ACT
  ⟨0x0B19, 1, 2, true, -32768, 32767, 1, 0, false⟩,  -- PLS_EXP
  ⟨0x0B1A, 1, 2, true, 0, 4096, 1, 0, false⟩,  -- PLS_EXP_TOL
  ⟨0x0B1B, 1, 0, true, 16, 65536, 1, 1024, false⟩,  -- CAL_AVG
  ⟨0x0B1C, 1, 0, true, 1, 65535, 1, 64, false⟩ ]  -- CAL_NOISE

/-- Section type 0x000C. -/
def paramRowsRec : List ParamRow := [
  ⟨0x0C01, 2, 0, true, 0, 1, 1, 1, false⟩,  -- REC_EN
  ⟨0x0C02, 1, 0, true, 16, 240, 1, 128, false⟩,  -- AREA
  ⟨0x0C03, 1, 0, true, 64, 245760, 1, 4096, false⟩,  -- SLOT
  ⟨0x0C04, 1, 0, true, 0, 4294967295, 1, 0, false⟩,  -- CH_A
  ⟨0x0C05, 1, 0, true, 0, 10, 1, 2, false⟩,  -- RATE
  ⟨0x0C06, 1, 0, true, 1, 16777216, 1, 1600, false⟩,  -- PRE
  ⟨0x0C07, 1, 0, true, 1, 16777215, 1, 14000, false⟩,  -- POST
  ⟨0x0C08, 2, 0, true, 0, 1, 1, 1, false⟩,  -- ARM_MODE
  ⟨0x0C09, 2, 0, true, 0, 1, 1, 0, false⟩,  -- AUTO
  ⟨0x0C0A, 3, 0, true, 10000000, 3600000000000, 1, 60000000000, false⟩,  -- AUTO_TIMEOUT
  ⟨0x0C0B, 2, 0, true, 0, 1, 1, 1, false⟩,  -- FULL_MODE
  ⟨0x0C0C, 1, 0, true, 0, 3, 1, 0, false⟩,  -- TB
  ⟨0x0C10, 2, 16, true, 0, 7, 1, 0, false⟩,  -- TRG_TYPE
  ⟨0x0C11, 1, 16, true, 0, 63, 1, 0, false⟩,  -- TRG_CH
  ⟨0x0C12, 2, 16, true, 0, 1, 1, 0, false⟩,  -- TRG_POL
  ⟨0x0C13, 0, 16, false, 0, 0, 1, 0, false⟩,  -- TRG_TH_A
  ⟨0x0C14, 0, 16, false, 0, 0, 1, 0, false⟩,  -- TRG_TH_B
  ⟨0x0C15, 0, 16, true, 0, 1000000000000000000000000000000, 1, 0, false⟩,  -- TRG_HYST
  ⟨0x0C16, 3, 16, true, 0, 3600000000000, 1, 0, false⟩,  -- TRG_T1
  ⟨0x0C17, 3, 16, true, 0, 3600000000000, 1, 0, false⟩,  -- TRG_T2
  ⟨0x0C18, 2, 16, true, 0, 1, 1, 0, false⟩ ]  -- TRG_WMODE

/-- Section type 0x000D. -/
def paramRowsTime : List ParamRow := [
  ⟨0x0D01, 1, 0, true, 0, 3, 1, 0, false⟩,  -- SYS_TB
  ⟨0x0D02, 2, 4, true, 0, 2, 1, 1, false⟩,  -- TB_SRC
  ⟨0x0D03, 1, 4, true, 1000, 100000, 1, 10000, false⟩,  -- SLEW_LIMIT
  ⟨0x0D04, 3, 4, true, 1000, 1000000000, 1, 100000, false⟩,  -- STEP_LIMIT
  ⟨0x0D05, 3, 4, true, 1000000000, 3600000000000, 1, 10000000000, false⟩,  -- HO_LIMIT
  ⟨0x0D06, 2, 2, true, 0, 1, 1, 0, false⟩,  -- DOM_EN
  ⟨0x0D07, 1, 2, true, 0, 127, 1, 0, false⟩,  -- DOM_NUM
  ⟨0x0D08, 1, 2, true, 1, 3, 1, 3, false⟩,  -- DOM_PORTS
  ⟨0x0D09, 2, 0, true, 0, 2, 1, 0, false⟩,  -- DOM_SEL
  ⟨0x0D0A, 3, 0, true, 100, 100000, 1, 1000, false⟩,  -- LOCK_TH
  ⟨0x0D0B, 0, 0, true, 1, 100, 100, 10, false⟩,  -- SERVO_BW
  ⟨0x0D0C, 1, 0, true, -3, 5, 1, 0, false⟩,  -- PDELAY_LOG
  ⟨0x0D0D, 1, 0, true, 2, 10, 1, 3, false⟩,  -- ANN_TIMEOUT
  ⟨0x0D0E, 2, 2, true, 0, 3, 1, 2, false⟩ ]  -- ETH_MODE

/-- Section type 0x000E. -/
def paramRowsRedund : List ParamRow := [
  ⟨0x0E01, 2, 0, true, 0, 1, 1, 0, false⟩,  -- PAIR
  ⟨0x0E02, 1, 0, true, 0, 1, 1, 0, false⟩,  -- PREF_UNIT
  ⟨0x0E03, 3, 0, true, 1000000, 20000000, 1, 2000000, false⟩,  -- T_L
  ⟨0x0E04, 3, 0, true, 500000, 5000000, 1, 500000, false⟩,  -- T_G
  ⟨0x0E05, 3, 0, true, 2000000, 100000000, 1, 5000000, false⟩,  -- SNAP_AGE_MAX
  ⟨0x0E06, 1, 0, true, 0, 7, 1, 3, false⟩,  -- PP_RETRY_N
  ⟨0x0E07, 3, 0, true, 100000, 1000000, 1, 100000, false⟩,  -- PP_RETRY_INT
  ⟨0x0E08, 2, 0, true, 1, 3, 1, 3, false⟩,  -- PP_GEN_MAX
  ⟨0x0E09, 2, 0, true, 0, 1, 1, 1, false⟩,  -- HBK_EN
  ⟨0x0E0A, 3, 0, true, 1000000000, 3600000000000, 1, 60000000000, false⟩,  -- HBK_HOLD
  ⟨0x0E0B, 3, 0, true, 1000000000, 3600000000000, 1, 10000000000, false⟩ ]  -- HBK_PERIOD

/-- Section type 0x0006. -/
def paramRowsSafety : List ParamRow := [
  ⟨0x0601, 1, 0, true, 1, 4294967295, 1, 0, true⟩,  -- SAFE_ID
  ⟨0x0602, 3, 0, true, 0, 2000000, 1, 0, false⟩,  -- SB_FILT
  ⟨0x0603, 3, 0, true, 10000000, 1000000000, 1, 100000000, false⟩,  -- SB_DISC
  ⟨0x0604, 3, 0, true, 1000000000, 600000000000, 1, 60000000000, false⟩,  -- ACK_WIN
  ⟨0x0605, 1, 0, true, 0, 65535, 1, 0, false⟩ ]  -- SAFE_OUT_MASK

/-- Section type 0x000F. -/
def paramRowsField : List ParamRow := [
  ⟨0x0F01, 1, 0, true, 0, 65535, 1, 0, false⟩,  -- IN_EN
  ⟨0x0F02, 2, 16, true, 0, 1, 1, 1, false⟩,  -- IN_TYPE
  ⟨0x0F03, 1, 16, true, 1, 65535, 1, 300, false⟩,  -- IN_FILT
  ⟨0x0F04, 2, 16, true, 0, 1, 1, 0, false⟩,  -- IN_WB
  ⟨0x0F05, 1, 0, true, 0, 65535, 1, 0, false⟩,  -- OUT_EN
  ⟨0x0F06, 2, 16, true, 0, 2, 1, 0, false⟩,  -- OUT_SRC
  ⟨0x0F07, 2, 16, true, 0, 2, 1, 0, false⟩,  -- OUT_SAFE
  ⟨0x0F08, 3, 0, true, 1000000, 1000000000, 1, 10000000, false⟩ ]  -- SIL_TIMEOUT

/-- The rows of a section type. -/
def paramRows (sect : Nat) : List ParamRow :=
  match sect with
  | 1 => paramRowsSystem
  | 7 => paramRowsSwing
  | 8 => paramRowsArms
  | 9 => paramRowsCord
  | 10 => paramRowsDirect
  | 11 => paramRowsMeas
  | 12 => paramRowsRec
  | 13 => paramRowsTime
  | 14 => paramRowsRedund
  | 6 => paramRowsSafety
  | 15 => paramRowsField
  | _ => []

/-- The row of an identifier; bits 15:8 of an identifier are its section type. -/
def paramRow (pid : Nat) : Option ParamRow := (paramRows (pid / 256)).find? (fun r => decide (r.pid = pid))

end Sys2Proof.Machine
end

