-- ==== Sys2Proof/Machine/Params.lean ====
section
/-!
DEFINITION. The value of a parameter of the image in force, its defaults and its range check (R73 to R76).
-/
namespace Sys2Proof.Machine

/-- The image of a unit that has none. -/
def Image.empty : Image := ⟨0, false, 0, 0, 0, 0, [], [], [], [], []⟩

/-- Whether an image carries a section of a type (R71). -/
def hasSect (img : Image) (type : Nat) : Bool := img.sects.any (fun x => decide (x.type = type))

/-- The record of a parameter instance; INDEX 0xFFFF for a parameter without instances (R73). -/
def paramRec (img : Image) (pid idx : Nat) : Option ParamRec :=
  img.params.find? (fun p => decide (p.pid = pid) && decide (p.index = idx))

/-- Mantissa of a BFP record. -/
def bfpMant (p : ParamRec) : Int := toSigned 32 p.value.toNat

/-- The parameters whose default sets a function going: where their section is absent they read 0, so that the function stays at its reset
values and unused (R71). REC_EN, TB_SRC, DOM_EN, ETH_MODE and HBK_EN. -/
def usedBy : List Nat := [0x0C01, 0x0D02, 0x0D06, 0x0D0E, 0x0E09]

/-- The default of an instance where its record is absent (R75); N_REQ, DOM_EN and DOM_NUM have defaults that depend on the image or instance. -/
def paramDefault (img : Image) (pid idx : Nat) : Int × Nat :=
  if usedBy.contains pid && !hasSect img (pid / 256) then (0, 1)
  else if pid = 0x0805 then
    match paramRec img 0x0105 0xFFFF with
    | some p => (toSigned 64 p.value.toNat, 1)
    | none => (0, 1)
  else if pid = 0x0D06 then (if idx = 0 then 1 else 0, 1)
  else if pid = 0x0D07 then (if idx = 0 then 0 else 1, 1)
  else match paramRow pid with
    | some r => (r.dflt, r.den)
    | none => (0, 1)

/-- An INT, ENUM or TIME parameter instance (TIME in ns). -/
def pIntAt (img : Image) (pid idx : Nat) : Int :=
  match paramRec img pid idx with
  | some p => if p.kind = 1 then toSigned 64 p.value.toNat else (p.value.toNat : Int)
  | none => let d := paramDefault img pid idx; roundDiv d.1 d.2

/-- A parameter without instances. -/
def pInt (img : Image) (pid : Nat) : Int := pIntAt img pid 0xFFFF

/-- A non-negative parameter without instances. -/
def pNat (img : Image) (pid : Nat) : Nat := (pInt img pid).toNat

/-- A non-negative parameter instance. -/
def pNatAt (img : Image) (pid idx : Nat) : Nat := (pIntAt img pid idx).toNat

/-- A BFP parameter instance, scaled by 2^q and rounded (R20). -/
def pBfpAt (q : Nat) (img : Image) (pid idx : Nat) : Int :=
  match paramRec img pid idx with
  | some p => alignBy (bfpMant p) (p.exp - 31 + q)
  | none => let d := paramDefault img pid idx; roundDiv (d.1 * 2 ^ q) d.2

/-- A BFP parameter without instances. -/
def pBfp (q : Nat) (img : Image) (pid : Nat) : Int := pBfpAt q img pid 0xFFFF

/-- The tick in ns (R76 TICK). -/
def tickNsOf (code : Nat) : Nat := if code = 0 then 5000 else if code = 2 then 20000 else 10000

/-- A decimal bound rounded to a mantissa at a BFP record's exponent (R75). -/
def boundMant (num : Int) (den : Nat) (exp : Int) : Int :=
  if 31 - exp ≥ 0 then roundDiv (num * 2 ^ (31 - exp).toNat) den else roundDiv num (den * 2 ^ (exp - 31).toNat)

/-- The range check of one record (R75): KIND, instance and value. -/
def paramInRange (p : ParamRec) : Bool :=
  match paramRow p.pid with
  | none => false
  | some r =>
    let idxOk := if r.insts = 0 then decide (p.index = 0xFFFF) else decide (p.index < r.insts)
    let valOk :=
      if p.kind = 0 then
        decide (p.value.toNat < 2 ^ 32) && decide (-64 ≤ p.exp) && decide (p.exp ≤ 63) &&
        (!r.bounded || (decide (boundMant r.lo r.den p.exp ≤ bfpMant p) && decide (bfpMant p ≤ boundMant r.hi r.den p.exp))
          || (decide (p.pid = 0x0731) && decide (bfpMant p = 0)))
      else
        let v : Int := if p.kind = 1 then toSigned 64 p.value.toNat else (p.value.toNat : Int)
        decide (p.exp = 0) &&
        ((!r.bounded || (decide (r.lo ≤ v * r.den) && decide (v * r.den ≤ r.hi)) || (decide (p.pid = 0x0B14) && decide (v = 0)))
          && (p.pid ≠ 0x0104 || decide (v = 50) || decide (v = 60)) && (p.pid ≠ 0x0C03 || decide (v % 64 = 0))
          && (p.pid ≠ 0x0E0B || decide (v % 1000000000 = 0)))
    decide (p.kind = r.kind) && idxOk && valOk

/-- The record a PARAM action leaves, by KIND (R74). -/
def paramWritten (p : ParamRec) (v : Word) : ParamRec :=
  { p with value :=
      if p.kind = 0 then BitVec.ofNat 64 v.toNat
      else if p.kind = 1 then BitVec.ofInt 64 (toSigned 32 v.toNat)
      else if p.kind = 2 then BitVec.ofNat 64 v.toNat
      else BitVec.ofNat 64 (v.toNat * 1000) }

end Sys2Proof.Machine
end

