-- ==== Sys2Proof/Machine/PartsSwg.lean ====
section
/-!
DEFINITION. State of the swing engine (R136 and chapter 5). Fixed-point quantities are integers scaled by 2^Config.engineFrac.
-/
namespace Sys2Proof.Machine

/-- A phase tracker (R150). -/
structure Tracker where
  angle  : Nat      -- 64-bit fraction of a turn
  wt     : Int
  x      : Int
  locked : Bool
  count  : Nat      -- consecutive ticks within the lock error
  seeded : Bool
deriving DecidableEq, Repr

/-- Inputs as the engine holds them (R132, R161). -/
structure SwgIn where
  hold  : List SigW          -- last valid word of each endpoint
  valid : Nat                -- SWG_IN_VALID.IN
  loss  : List Nat           -- consecutive invalid ticks
  since : List (Option Nat)  -- boundary of the first invalid tick, ns
  acctW : Int                -- last valid energy account: W
  acctN : Int                -- and W_nom
  acctLoss : Nat
  acctOk : Bool
deriving DecidableEq, Repr

/-- The synthetic machine and the ceilings (R136, R141, R147). -/
structure SwgMach where
  theta : Nat
  w     : Int
  wlp   : Int
  qf    : Int
  e     : Int
  heff  : Int
  wS    : Int
  vS    : Int
  ip    : Int
  inn   : Int
  w0    : Int                -- ω_0, the speed at entry to MD_8
  rocof : Int
  wdn   : Int
  wup   : Int
  pup   : Int
  idMax : Int
  iqMax : Int
  idnMax : Int
  iqnMax : Int
  dth   : Int
deriving DecidableEq, Repr

/-- Counts, conditions and pending starts (R151 to R159). -/
structure SwgCond where
  wait     : Bool            -- a soft-start is pending
  eZero    : Bool            -- that soft-start begins with E at zero
  seedTh   : Nat             -- angle of a snapshot, used where the bus is dead
  seedW    : Option Int      -- speed of a restore
  first    : Bool            -- the next forming tick is the first after a deblock
  lastMode : Nat
  fault    : Bool
  faultRun : Nat
  clear    : Bool
  clearRun : Nat
  islRun   : Nat
  island   : Bool
  live     : Bool
  dead     : Bool
  inrush   : Bool
  inrushRun : Nat
  rampRun  : Nat
  rampDone : Bool            -- the ramp of MD_6 entered from MD_4 has ended
  from4    : Bool            -- MD_6 was entered from MD_4
  brkNow   : Option Bool     -- breaker reading with VALID = 1
  brkLast  : Option Bool     -- last valid reading
  brkState : Nat
  attempts : Nat
  holdRun  : Nat
  winEnd   : Option Nat
  slew     : Bool
  pLim     : Bool
  eLim     : Bool
  eFloor   : Bool
  ceilRamp : Bool
  rocofOver : Bool
  stop     : Bool            -- a host stop ramps the ceilings, and with them the current references, to zero (R44, R45)
deriving DecidableEq, Repr

/-- A capture of the engine state (R165). -/
structure SwgCap where
  state : Nat
  theta : Nat
  words : List Nat
deriving DecidableEq, Repr

/-- The swing engine. -/
structure Swg where
  state : Nat                -- SWG_STAT.STATE
  inp   : SwgIn
  mach  : SwgMach
  cond  : SwgCond
  bus   : Tracker
  grd   : Tracker
  arm   : Bool
  cap   : Option SwgCap
  lat   : SwgCap
  seq   : Nat
deriving DecidableEq, Repr

end Sys2Proof.Machine
end

