-- ==== Sys2Proof/Machine/Swing.lean ====
section
/-!
DEFINITION. Phase S: the swing engine's equations (R130 to R161), on integers scaled by 2^q.
-/
namespace Sys2Proof.Machine

/-! ### Fixed point -/

/-- Product. -/
def fxMul (q : Nat) (a b : Int) : Int := roundShift (a * b) q
/-- Quotient by a positive value; zero where the divisor is not positive. -/
def fxDiv (q : Nat) (a b : Int) : Int := if b ≤ 0 then 0 else roundDiv (a * 2 ^ q) b.toNat
/-- A rational constant. -/
def fxRat (q : Nat) (n : Int) (d : Nat) : Int := roundDiv (n * 2 ^ q) d
/-- x times a time in ns, in seconds. -/
def fxTime (x : Int) (ns : Nat) : Int := roundDiv (x * ns) 1000000000
/-- Square root of a non-negative value. -/
def fxSqrt (q : Nat) (a : Int) : Int := if a ≤ 0 then 0 else (isqrtNear (q + 64) (a.toNat * 2 ^ q) : Int)
/-- √(a² + b²). -/
def fxHyp (q : Nat) (a b : Int) : Int := (isqrtNear (q + 64) (a * a + b * b).toNat : Int)
/-- 2π. -/
def fxTwoPi (q : Nat) : Int := alignBy (2 * piScaled) ((q : Int) - 60)
/-- What a 64-bit register of the engine holds of a value (R136): a value beyond its range saturates (DESIGN CHOICE: R136 gives the width,
not what happens beyond it). -/
def fxHold (x : Int) : Int := clampInt (-(2 ^ 63)) (2 ^ 63 - 1) x
/-- The value of a word. -/
def fxWord (q : Nat) (w : SigW) : Int := alignBy w.m (w.e - 31 + q)
/-- A word for a value at an output exponent, rounded (R20). -/
def fxOut (q : Nat) (x e : Int) (v : Bool) : SigW := ⟨mantSat (alignBy x (31 - e - q)), e, v⟩

/-- atan(2^−i) in turns, scaled by 2^64. -/
def atanTable : List Int := [
  2305843009213693952, 1361218612134873190, 719230530580881038, 365092647525521947, 183254791493294829, 91716730292036216,
  45869556482713130, 22936177926750895, 11468263948075831, 5734153847876408, 2867079658191483, 1433540170878135,
  716770128161890, 358385069421298, 179192535378193, 89596267772540, 44798133896700, 22399066949654,
  11199533474990, 5599766737515, 2799883368760, 1399941684380, 699970842190, 349985421095,
  174992710548, 87496355274, 43748177637, 21874088818, 10937044409, 5468522205,
  2734261102, 1367130551, 683565276, 341782638, 170891319, 85445659,
  42722830, 21361415, 10680707, 5340354, 2670177, 1335088,
  667544, 333772]

/-- Vectoring iterations of an arctangent for x > 0; answers the angle in turns scaled by 2^64. -/
def atanSteps : List Int → Nat → Int → Int → Int → Int
  | [], _, _, _, acc => acc
  | a :: as, i, x, y, acc =>
    if y ≥ 0 then atanSteps as (i + 1) (x + y / 2 ^ i) (y - x / 2 ^ i) (acc + a)
    else atanSteps as (i + 1) (x - y / 2 ^ i) (y + x / 2 ^ i) (acc - a)

/-- atan2(y, x) as an unsigned 64-bit fraction of a turn; zero for the zero vector. The accuracy of the engine's own
arctangent is not stated, so its last 20 bits are open. -/
def atan2Turn (y x : Int) : Nat :=
  let k : Int := 2 ^ 48
  let r := if x = 0 && y = 0 then 0
    else if x ≥ 0 then atanSteps atanTable 0 (x * k) (y * k) 0
    else atanSteps atanTable 0 (-x * k) (-y * k) 0 + 2 ^ 63
  ((r + openErr (2 ^ 20) 200 [y, x]) % 2 ^ 64).toNat

/-- A signed angle difference of two 64-bit angles (R8), scaled by 2^q. -/
def angDiff (q : Nat) (a b : Nat) : Int := alignBy (toSigned 64 (((a : Int) - b) % 2 ^ 64).toNat) ((q : Int) - 64)

/-- sine and cosine of a 64-bit angle, scaled by 2^48. -/
def sinCos (a : Nat) : Int × Int := let t := roundShift a 32; (sinTurn t, cosTurn t)

/-! ### What a tick of the engine reads and what it asks for -/

/-- What phase S reads besides the engine's own state. -/
structure SwgEnv where
  q       : Nat
  img     : Image
  tickNs  : Nat
  bound   : Nat                -- boundary at which the tick began, ns
  mode    : Nat                -- code of the mode in force
  words   : List (Option SigW) -- word of each input endpoint; none where the image has no SINK for it
  acctW   : Int
  acctN   : Int
  acctOk  : Bool
  switching : Bool

/-- What phase S asks of the rest of the module. -/
inductive SwgFx where
  | flag (n : Nat)                     -- SWG_EVT bit
  | loss (ep : Nat)                    -- SWG_EVT.LOSS for an endpoint
  | breaker (outcome : Nat) (dth s : Int)  -- BRK_EVENT
  | react                              -- block-and-release reaction
  | arm60 (ns : Nat) | clear60         -- entry 60
  | inrushLimit | island | rideEntry   -- counters and causes
deriving DecidableEq, Repr

/-- A BFP parameter of the SWING section. -/
def sp (env : SwgEnv) (pid : Nat) : Int := pBfp env.q env.img pid
/-- A TIME parameter in ns. -/
def st (env : SwgEnv) (pid : Nat) : Nat := pNat env.img pid

/-! ### Inputs -/

/-- The inputs after one tick: held words, VALID bits, loss counts (R161). An input enters loss, and raises LOSS, in the tick after LOSS_N
invalid ones (DESIGN CHOICE: R161's "entry into loss" could also be the first invalid tick). -/
def swgInputs (env : SwgEnv) (g : SwgIn) : SwgIn × List SwgFx :=
  let n := pNat env.img 0x0735
  let step := fun (acc : SwgIn × List SwgFx) (ep : Nat) =>
    match nth none env.words ep with
    | none => ({ acc.1 with valid := acc.1.valid ||| 2 ^ ep }, acc.2)
    | some w =>
      if w.v then
        ({ acc.1 with hold := setNth acc.1.hold ep w, loss := setNth acc.1.loss ep 0, since := setNth acc.1.since ep none
                      valid := acc.1.valid ||| 2 ^ ep }, acc.2)
      else
        let l := nth 0 acc.1.loss ep + 1
        let since := match nth none acc.1.since ep with
          | none => some env.bound
          | some b => some b
        ({ acc.1 with loss := setNth acc.1.loss ep l, since := setNth acc.1.since ep since },
          if l = n + 1 then acc.2 ++ [SwgFx.loss ep] else acc.2)
  let r := (List.range 16).foldl step ({ g with valid := 0 }, [])
  if env.acctOk then ({ r.1 with acctW := env.acctW, acctN := env.acctN, acctLoss := 0, acctOk := true }, r.2)
  else ({ r.1 with acctLoss := r.1.acctLoss + 1, acctOk := false },
        if g.acctLoss + 1 = n + 1 then r.2 ++ [SwgFx.flag 1] else r.2)

/-- Endpoints whose loss for LOSS_LIMIT raises a block-and-release reaction (R161). -/
def lossReacts (ep : Nat) : Bool := ep ≤ 3 || (8 ≤ ep && ep ≤ 11)

/-- An input for which R161 lists a reaction has been invalid in every tick since LOSS_LIMIT before the boundary at which env stands, and
had not been so at the boundary before, tPrev. -/
def swgLossLimit (env : SwgEnv) (g : SwgIn) (tPrev : Nat) : Bool :=
  (List.range 16).any (fun ep => lossReacts ep &&
    match nth none g.since ep with
    | some b => decide (b + st env 0x0736 ≤ env.bound) && decide (tPrev < b + st env 0x0736)
    | none => false)

/-- Whether an input is beyond LOSS_N. -/
def lost (env : SwgEnv) (g : SwgIn) (ep : Nat) : Bool := nth 0 g.loss ep > pNat env.img 0x0735
/-- Whether an input is invalid in this tick. -/
def inBad (g : SwgIn) (ep : Nat) : Bool := !g.valid.testBit ep
/-- The held value of an input, zero where it is absent. -/
def inVal (env : SwgEnv) (g : SwgIn) (ep : Nat) : Int :=
  if (nth none env.words ep).isNone then 0 else fxWord env.q (nth SigW.none g.hold ep)
/-- The setpoints and P_DC (R132, R161). -/
def pdcVal (env : SwgEnv) (g : SwgIn) : Int := if lost env g 12 then 0 else inVal env g 12
/-- Grid-side voltage: the bus side where the image has no grid-side input. -/
def gridEp (env : SwgEnv) : Nat × Nat := if (nth none env.words 6).isNone || (nth none env.words 7).isNone then (4, 5) else (6, 7)

/-! ### Trackers (R150) -/

/-- A tracker as MD_0 leaves it. -/
def Tracker.reset : Tracker := ⟨0, 0, 0, false, 0, false⟩

/-- One tick of a tracker on inputs α and β at two endpoints. Its first valid sample sets the angle and nothing else; on held values the
loop runs and the lock stays (R161). -/
def trackTick (env : SwgEnv) (g : SwgIn) (ea eb : Nat) (t : Tracker) : Tracker :=
  let q := env.q
  let fb := pNat env.img 0x0104
  let al := inVal env g ea
  let be := inVal env g eb
  let mag := fxHyp q al be
  let bad := inBad g ea || inBad g eb
  let gone := lost env g ea || lost env g eb
  let vdead := sp env 0x0739
  let adv := fun (wt : Int) => roundDiv (wt * fb * env.tickNs * 2 ^ 64) (1000000000 * 2 ^ q)
  let move := fun (a : Nat) (wt : Int) => (((a : Int) + adv wt) % 2 ^ 64).toNat
  let t := if t.seeded || bad then t else { t with angle := atan2Turn be al, seeded := true }
  if gone || mag < vdead then { t with angle := move t.angle t.wt, locked := false, count := 0 }
  else if !t.seeded then { t with angle := move t.angle t.wt }
  else
    let (sn, cs) := sinCos t.angle
    let d := roundShift (al * cs + be * sn) 48
    let qq := roundShift (be * cs - al * sn) 48
    let eps := alignBy (toSigned 64 (atan2Turn qq d)) ((q : Int) - 64)
    let wn := fxMul q (fxTwoPi q) (sp env 0x0737)
    let kp := roundDiv (fxMul q (fxRat q 1414 1000) wn) (max fb 1)
    let ki := roundDiv (fxMul q wn wn) (max fb 1)
    let x := t.x + fxTime (fxMul q ki eps) env.tickNs
    let wt := 2 ^ q + fxMul q kp eps + x
    let good := decide (eps.natAbs ≤ (fxRat q 2 1000).toNat)
    let count := if bad then t.count else if good then t.count + 1 else 0
    let locked := if bad then t.locked
      else if t.locked then !decide (eps.natAbs > (fxRat q 10 1000).toNat)
      else decide (count * env.tickNs ≥ 20000000)
    { angle := move t.angle wt, wt := fxHold wt, x := fxHold x, locked := locked, count := count, seeded := true }

/-! ### Energy (R139 to R143) -/

/-- The account in use: the last valid one for LOSS_N ticks, then the reserve (R143). -/
def acctInUse (env : SwgEnv) (g : SwgIn) : Int × Int :=
  if g.acctLoss > pNat env.img 0x0735 then (fxMul env.q (sp env 0x0715) g.acctN, g.acctN) else (g.acctW, g.acctN)

/-- W_dn and W_up (R139). -/
def usable (env : SwgEnv) (g : SwgIn) : Int × Int :=
  let (w, n) := acctInUse env g
  (max 0 (w - fxMul env.q (sp env 0x0715) n), max 0 (fxMul env.q (sp env 0x0716) n - w))

/-- 2 × ROCOF_MAX × T_BR, the energy that one second of inertia commits (R140). -/
def perH (env : SwgEnv) : Int := fxTime (2 * sp env 0x0717) (st env 0x0718)

/-- H_av (R140). -/
def hAv (env : SwgEnv) (g : SwgIn) : Int := let (d, u) := usable env g; fxDiv env.q (min d u) (perH env)

/-- H_eff of this tick (R141). -/
def hEff (env : SwgEnv) (g : SwgIn) (prev : Int) (start : Bool) : Int :=
  let ht := max (fxRat env.q 1 10) (min (sp env 0x0701) (hAv env g))
  if start || ht ≤ prev then ht else min ht (prev + fxTime (sp env 0x071A) env.tickNs)

/-- P_up (R142); P_DC alone once the account has been invalid for more than LOSS_N ticks (R143). -/
def pUp (env : SwgEnv) (g : SwgIn) (heff : Int) : Int :=
  if g.acctLoss > pNat env.img 0x0735 then pdcVal env g
  else
  let wI := max 0 ((usable env g).1 - fxMul env.q (perH env) heff)
  pdcVal env g + fxMul env.q (2 * heff) (sp env 0x0717)
    + roundDiv (wI * 1000000000) (max (st env 0x0719) 1)

/-! ### The machine (R137, R138, R153, R154) -/

/-- x moved toward a target by at most d. -/
def slewTo (x target d : Int) : Int := x + clampInt (-d) d (target - x)

/-- Whether E follows the black-start ramp: MD_5, and MD_6 entered from MD_4 until its ramp has ended. -/
def ramping (env : SwgEnv) (c : SwgCond) : Bool := env.mode = 5 || (env.mode = 6 && c.from4 && !c.rampDone)

/-- Setpoints P_set and Q_set (R137). -/
def setpoints (env : SwgEnv) (g : SwgIn) : Int × Int :=
  if env.mode = 7 || env.mode = 8 then (inVal env g 13, inVal env g 14) else (sp env 0x0733, sp env 0x0734)

/-- The inrush limit of R152. -/
def inrushNow (env : SwgEnv) (g : SwgIn) : Bool :=
  fxHyp env.q (inVal env g 8) (inVal env g 9) ≥ fxMul env.q (fxRat env.q 95 100) (sp env 0x0725)

/-- One tick of the machine's equations in a forming mode, with the events it raises. In MD_8 the band is the part that ω_0 ∓ RT_DF_MAX and
1 ∓ DF_LIMIT have in common (DESIGN CHOICE: R137's "narrowed to" could also put the first in the place of the second). -/
def machTick (env : SwgEnv) (g : SwgIn) (c : SwgCond) (m : SwgMach) (inr : Bool) : SwgMach × List SwgFx :=
  let q := env.q
  let T := env.tickNs
  let (pSet, qSet) := setpoints env g
  let pm := pSet + fxDiv q (m.wS - m.w) (sp env 0x0704)
  let dp0 := pm - inVal env g 0 - fxMul q (sp env 0x0702) (m.w - m.wlp)
  let kappa := clampInt 0 (2 ^ q) (fxDiv q (inVal env g 2) (sp env 0x071B))
  let dp1 := if env.mode = 8 then fxMul q dp0 kappa else dp0
  let powerLost := lost env g 0 || lost env g 1
  let dp := if powerLost then 0 else dp1
  let one := (2 : Int) ^ q
  let dfl := sp env 0x0722
  let rtd := sp env 0x0721
  let lo := if env.mode = 8 then max (one - dfl) (m.w0 - rtd) else one - dfl
  let hi := if env.mode = 8 then min (one + dfl) (m.w0 + rtd) else one + dfl
  let raw := m.w + fxTime (fxDiv q dp (2 * m.heff)) T
  let w := clampInt lo hi raw
  let wlp := m.wlp + roundDiv ((w - m.wlp) * T) (max (st env 0x0703) 1)
  let inc := roundDiv (w * pNat env.img 0x0104 * T * 2 ^ 64) (1000000000 * 2 ^ q)
  let theta := (((m.theta : Int) + inc) % 2 ^ 64).toNat
  let qf := if powerLost then m.qf else m.qf + roundDiv ((inVal env g 1 - m.qf) * T) (max (st env 0x0706) 1)
  let eTgt := if ramping env c then sp env 0x0724 else m.vS - fxMul q (sp env 0x0705) (qf - qSet)
  let e := if powerLost || (ramping env c && inr) then m.e else slewTo m.e eTgt (fxTime (sp env 0x0723) T)
  let rocof := fxDiv q dp (2 * m.heff)
  let fast := decide (rocof.natAbs > (sp env 0x0717).natAbs)
  ({ m with w := w, wlp := wlp, theta := theta, qf := qf, e := e, rocof := rocof },
    (if raw ≠ w then [SwgFx.flag 4] else []) ++ (if fast && !c.rocofOver then [SwgFx.flag 3] else []))

/-- The engine steers onto the grid side (R154): in MD_6 once its ramp has ended, until the close is confirmed. -/
def steering (env : SwgEnv) (c : SwgCond) : Bool := env.mode = 6 && (!c.from4 || c.rampDone) && c.brkState ≠ 5

/-- Outside the steering and the slew, W_S is W_SET and V_S is V_SET in the tick itself (R137, R154). -/
def offsetSet (env : SwgEnv) (c : SwgCond) (m : SwgMach) : SwgMach :=
  if steering env c || c.slew then m else { m with wS := sp env 0x0708, vS := sp env 0x0707 }

/-- The synchronising offsets for the next tick (R154), and their slew after a close (R156). -/
def offsetTick (env : SwgEnv) (g : SwgIn) (c : SwgCond) (grd : Tracker) (m : SwgMach) : SwgMach :=
  let q := env.q
  let T := env.tickNs
  let (ga, gb) := gridEp env
  let vg := fxHyp q (inVal env g ga) (inVal env g gb)
  let dth := angDiff q grd.angle m.theta
  let m := { m with dth := dth }
  if steering env c then
    if !grd.locked then m
    else
      let k := sp env 0x0727
      let lim := sp env 0x0728
      let wt := grd.wt + clampInt (-lim) lim (roundDiv (fxMul q k dth) (max (pNat env.img 0x0104) 1))
      { m with
          wS := m.wS + fxTime (fxMul q k (wt - m.w)) T
          vS := clampInt (fxRat q 9 10) (fxRat q 11 10) (m.vS + fxTime (fxMul q k (vg - inVal env g 2)) T) }
  else if c.slew then
    { m with
        wS := slewTo m.wS (sp env 0x0708) (fxTime (sp env 0x0728) T)
        vS := slewTo m.vS (sp env 0x0707) (fxTime (sp env 0x0723) T) }
  else m

/-! ### Ceilings (R146 to R149) -/

/-- Targets of the ceilings (R146). -/
def ceilTargets (env : SwgEnv) (c : SwgCond) : Int × Int :=
  if c.stop then (0, 0)
  else if env.mode = 8 then (sp env 0x070F, sp env 0x0710)
  else if ramping env c then (sp env 0x0725, sp env 0x070E)
  else (sp env 0x070D, sp env 0x070E)

/-- The ceilings after a tick (R147), with whether one of them is ramping. -/
def ceilTick (env : SwgEnv) (c : SwgCond) (m : SwgMach) : SwgMach × Bool :=
  let (tp, tn) := ceilTargets env c
  let now := (c.first || (env.mode = 8 && c.lastMode ≠ 8)) && !c.stop
  let d := fxTime (sp env (if c.stop then 0x010C else 0x0714)) env.tickNs
  let ip := if now then tp else slewTo m.ip tp d
  let in0 := if now then tn else slewTo m.inn tn d
  let inn := min in0 (sp env 0x0711 - ip)
  ({ m with ip := ip, inn := inn }, decide (ip ≠ tp) || decide (in0 ≠ tn))

/-- The split of a ceiling between the axes by proportion (R148). -/
def splitProp (q : Nat) (i d qq : Int) : Int × Int :=
  let k := fxRat q 5 100
  let a := (d.natAbs : Int) + k
  let b := (qq.natAbs : Int) + k
  let h := fxHyp q a b
  (fxDiv q (fxMul q i a) h, fxDiv q (fxMul q i b) h)

/-- Id_c and Iq_c (R148). -/
def splitPos (env : SwgEnv) (ip d qq : Int) : Int × Int :=
  let q := env.q
  let rule := if env.mode = 8 then pNat env.img 0x0713 else pNat env.img 0x0712
  let rest := fun (x : Int) => let y := min (x.natAbs : Int) ip; fxSqrt q (fxMul q ip ip - fxMul q y y)
  match rule with
  | 0 => (ip, rest d)
  | 1 => (rest qq, ip)
  | _ => splitProp q ip d qq

/-- The current bounds of the tick (R148, R149), with P_LIM. -/
def boundTick (env : SwgEnv) (g : SwgIn) (m : SwgMach) : SwgMach × Int × Bool :=
  let q := env.q
  let (idc, iqc) := splitPos env m.ip (inVal env g 8) (inVal env g 9)
  let (dn, qn) := splitProp q m.inn (inVal env g 10) (inVal env g 11)
  let term := max 0 (fxDiv q m.pup (max (inVal env g 2) (fxRat q 1 10)))
  ({ m with idMax := min idc term, iqMax := iqc, idnMax := dn, iqnMax := qn }, -idc, decide (term < idc))

/-! ### Soft-start (R151) -/

/-- The machine at a soft-start: θ is the angle with which the bus tracker is seeded in this tick, and ω the tracker's speed where it is
locked. -/
def startMach (env : SwgEnv) (g : SwgIn) (c : SwgCond) (bus : Tracker) (m : SwgMach) : SwgMach :=
  let q := env.q
  let v := fxHyp q (inVal env g 4) (inVal env g 5)
  let w := match c.seedW with
    | some w => w
    | none => if bus.locked then bus.wt else sp env 0x0708
  { m with
      theta := if v < sp env 0x0739 then c.seedTh else atan2Turn (inVal env g 5) (inVal env g 4)
      w := w, wlp := w, qf := inVal env g 1, e := if c.eZero then 0 else v
      wS := sp env 0x0708, vS := sp env 0x0707 }

/-! ### Mode conditions (R152, R157 to R159) -/

/-- The breaker reading (R132 endpoint 15, R161). -/
def breaker (env : SwgEnv) : Option Bool :=
  match nth none env.words 15 with
  | none => some true
  | some w => if w.v then some (decide (w.m ≠ 0)) else none

/-- The fault criterion of R158 on the present values. -/
def faultNow (env : SwgEnv) (g : SwgIn) : Bool :=
  inVal env g 2 < sp env 0x071B || inVal env g 2 > sp env 0x071D || inVal env g 3 > sp env 0x071F

/-- The clear criterion of R159. -/
def clearNow (env : SwgEnv) (g : SwgIn) : Bool :=
  sp env 0x071C ≤ inVal env g 2 && inVal env g 2 ≤ sp env 0x071E && inVal env g 3 ≤ sp env 0x0720

/-- Live, dead and breaker conditions (R152). -/
def gridConds (env : SwgEnv) (g : SwgIn) (c : SwgCond) : SwgCond :=
  let (ga, gb) := gridEp env
  let mag := fxHyp env.q (inVal env g ga) (inVal env g gb)
  let ok := !inBad g ga && !inBad g gb
  { c with live := ok && decide (mag ≥ sp env 0x0738), dead := ok && decide (mag ≤ sp env 0x0739)
           brkNow := breaker env }

/-- Fault, clear and islanding counts of a forming tick. The fault condition exists in MD_7 and MD_9 only (R158): outside them none is kept. -/
def faultConds (env : SwgEnv) (g : SwgIn) (m : SwgMach) (c : SwgCond) : SwgCond :=
  let frozen := inBad g 2 || inBad g 3
  let gone := lost env g 2 || lost env g 3
  let f := faultNow env g
  let run := if f then c.faultRun + 1 else 0
  let c1 := if env.mode = 7 || env.mode = 9 then
      if frozen then c else { c with faultRun := run, fault := decide (run ≥ 2) }
    else { c with faultRun := 0, fault := false }
  let k := clearNow env g
  let c2 := if env.mode = 8 then
      if gone then c1 else { c1 with clear := k, clearRun := if k then (if c.lastMode = 8 then c1.clearRun else 0) + 1 else 0 }
    else { c1 with clear := false, clearRun := 0 }
  let df := sp env 0x0731
  let dev := df ≠ 0 && decide ((m.w - 2 ^ env.q).natAbs > df.natAbs)
  let irun := if dev then (if c.first then 0 else c2.islRun) + 1 else 0
  { c2 with islRun := irun, island := decide (irun > 0) && decide (irun * env.tickNs ≥ st env 0x0732) }

/-- Ramp and inrush counts (R152, R153). -/
def rampConds (env : SwgEnv) (g : SwgIn) (m : SwgMach) (inr : Bool) (c : SwgCond) : SwgCond × List SwgFx :=
  if ramping env c then
    let held := decide (m.e = sp env 0x0724) && decide (inVal env g 2 ≥ sp env 0x0724 - fxRat env.q 5 100)
    let run := if held then c.rampRun + 1 else 0
    let done := decide (run > 0) && decide (run * env.tickNs ≥ st env 0x0726)
    let ir := if inr then c.inrushRun + 1 else 0
    ({ c with rampRun := run, rampDone := done, inrush := inr, inrushRun := ir
              brkState := if env.mode = 6 then 1 else c.brkState },
      (if inr && !c.inrush then [SwgFx.flag 10] else []) ++
      (if env.mode = 5 && inr && decide (ir * env.tickNs ≥ pNat env.img 0x0111 * 1000000) then [SwgFx.inrushLimit] else []))
  else ({ c with inrush := false, inrushRun := 0, rampRun := 0 }, [])

/-- The close conditions of R155. -/
def closeConds (env : SwgEnv) (g : SwgIn) (grd : Tracker) (m : SwgMach) : Bool :=
  let q := env.q
  let (ga, gb) := gridEp env
  let vg := fxHyp q (inVal env g ga) (inVal env g gb)
  !lost env g ga && !lost env g gb && grd.locked &&
  decide (m.dth.natAbs ≤ (sp env 0x0729).natAbs) && decide ((vg - inVal env g 2).natAbs ≤ (sp env 0x072A).natAbs) &&
  decide ((grd.wt - m.w).natAbs ≤ (sp env 0x072B).natAbs)

/-- Slip rate s in turns/s (R155). -/
def slip (env : SwgEnv) (grd : Tracker) (m : SwgMach) : Int := pNat env.img 0x0104 * (grd.wt - m.w)

/-- The predicted command time, in ns, where there is one in this tick (R155). -/
def predict (env : SwgEnv) (grd : Tracker) (m : SwgMach) : Option Nat :=
  let s := slip env grd m
  let tNow : Int := env.bound
  let tNext := tNow + env.tickNs
  let tBrk : Int := st env 0x072D
  let tau0 : Option Int := if s = 0 then none
    else
      let t := if s > 0 then roundDiv (-m.dth * 1000000000) s.toNat else roundDiv (m.dth * 1000000000) (-s).toNat
      if t > 0 then some t else none
  let far := match tau0 with
    | some t =>
      let c := tNow + t - tBrk
      if tNext ≤ c && c ≤ tNext + 1000000000 then some c.toNat else none
    | none => none
  match far with
  | some t => some t
  | none =>
    let ahead := m.dth + fxTime s (env.tickNs + st env 0x072D)
    if 2 * ahead.natAbs ≤ (sp env 0x0729).natAbs then some tNext.toNat else none

/-- BRK as a tick takes it up (R156): an unexpected close, the end of the close window, and the confirmation within it. A window that ends at
a boundary still confirms a close that is read there. -/
def watchTick (env : SwgEnv) (grd : Tracker) (m : SwgMach) (c : SwgCond) : SwgCond × List SwgFx :=
  let s := slip env grd m
  let rose := c.brkNow = some true && c.brkLast = some false
  let last := match c.brkNow with
    | some b => some b
    | none => c.brkLast
  let c0 := { c with brkLast := last }
  let (inWin, ended) := match c.brkState, c.winEnd with
    | 4, some e => (decide (env.bound ≤ e), decide (e ≤ env.bound))
    | _, _ => (false, false)
  if env.mode = 6 && inWin && c.brkNow = some true then
    ({ c0 with brkState := 5, slew := true, winEnd := none }, [SwgFx.breaker 3 m.dth s])
  else
    let fail := env.mode = 6 && ended
    let c1 := if fail then { c0 with brkState := 6, winEnd := none } else c0
    (c1, (if fail then [SwgFx.breaker 4 m.dth s, SwgFx.flag 5] else []) ++
      (if rose && (env.mode = 6 || env.mode = 9) then [SwgFx.breaker 5 m.dth s, SwgFx.flag 6, SwgFx.react] else []))

/-- The close command of MD_6 in one tick (R155, R156). -/
def closeTick (env : SwgEnv) (g : SwgIn) (grd : Tracker) (m : SwgMach) (c : SwgCond) : SwgCond × List SwgFx :=
  let s := slip env grd m
  if env.mode ≠ 6 then (c, [])
  else if c.brkState = 3 then
    if closeConds env g grd m then (c, [])
    else ({ c with brkState := 2, holdRun := 0 }, [SwgFx.clear60, SwgFx.breaker 0 m.dth s])
  else if c.brkState = 2 then
    let run := if closeConds env g grd m then c.holdRun + 1 else 0
    if run > 0 && run * env.tickNs ≥ st env 0x072C then
      match predict env grd m with
      | some t => ({ c with brkState := 3, holdRun := run, attempts := min (c.attempts + 1) 255 }, [SwgFx.arm60 t])
      | none => ({ c with holdRun := run }, [])
    else ({ c with holdRun := run }, [])
  else (c, [])

/-! ### One tick -/

/-- STATE of a mode (SWG_STAT). -/
def swgStateOf (mode : Nat) : Nat :=
  match mode with
  | 2 => 1 | 4 => 1 | 5 => 2 | 6 => 3 | 7 => 4 | 8 => 5 | 9 => 6 | _ => 0

/-- Bookkeeping at the first tick of a mode, and the end of MD_6's ramp, after which SWG_BRK.STATE goes to CONDITIONS (R154). A unit that
leaves MD_6 with entry 60 armed clears it: outside MD_6 no close condition holds (DESIGN CHOICE: R156 names the conditions alone). -/
def enterMode (env : SwgEnv) (c : SwgCond) (m : SwgMach) (grd : Tracker) : SwgCond × List SwgFx :=
  if env.mode = c.lastMode then
    (if env.mode = 6 && c.rampDone && c.brkState = 1 then { c with brkState := 2 } else c, [])
  else
    let c1 := { c with rampRun := 0, inrushRun := 0, holdRun := 0, rampDone := false }
    let fx := (if c.lastMode = 6 && c.brkState = 3 then [SwgFx.clear60, SwgFx.breaker 0 m.dth (slip env grd m)] else [])
      ++ (if env.mode = 8 then [SwgFx.rideEntry] else [])
    (if env.mode = 6 then
        { c1 with from4 := decide (c.lastMode = 4), attempts := 0, winEnd := none
                  brkState := if c.lastMode = 4 then 1 else 2, slew := false }
      else if c.lastMode = 6 && c.brkState ≠ 5 && c.brkState ≠ 6 then { c1 with brkState := 0, winEnd := none } else c1, fx)

/-- The machine at the first tick of a mode: ω_0, and the offsets from which MD_6 steers (R137, R154). `anew` is whether a restore has just
given the speed. -/
def enterMach (env : SwgEnv) (anew entered : Bool) (m : SwgMach) : SwgMach :=
  let m1 := if env.mode = 8 && (anew || entered) then { m with w0 := m.w } else m
  if env.mode = 6 && entered then { m1 with wS := sp env 0x0708, vS := sp env 0x0707 } else m1

/-- The energy terms of a tick in which the engine runs, with E_LIM and E_FLOOR (R139 to R143). -/
def energyTick (env : SwgEnv) (g : SwgIn) (start : Bool) (m : SwgMach) (c : SwgCond) : SwgMach × SwgCond × List SwgFx :=
  let heff := hEff env g m.heff start
  let (wd, wu) := usable env g
  let floor := decide (hAv env g < fxRat env.q 1 10)
  ({ m with heff := heff, wdn := wd, wup := wu, pup := pUp env g heff },
    { c with eFloor := floor, eLim := decide (heff < sp env 0x0701) },
    if floor && !c.eFloor then [SwgFx.flag 2] else [])

/-- What the conditions of a forming tick leave outside one. -/
def quiet (c : SwgCond) : SwgCond :=
  { c with fault := false, faultRun := 0, clear := false, clearRun := 0, island := false, islRun := 0
           inrush := false, inrushRun := 0, pLim := false, ceilRamp := false }

/-- A tracker in a mode in which it does not run. -/
def Tracker.rest (t : Tracker) : Tracker := { t with locked := false, seeded := false, count := 0 }

/-- A tick of MD_2 or MD_4 with no soft-start pending: the outputs carry the bus tracker and the measured bus (R134). -/
def restTick (env : SwgEnv) (inp : SwgIn) (bus grd : Tracker) (m : SwgMach) : SwgMach :=
  { m with dth := angDiff env.q grd.angle bus.angle, theta := bus.angle, w := bus.wt, e := fxHyp env.q (inVal env inp 4) (inVal env inp 5) }

/-- A forming tick (R137, R139 to R149, R152 to R159). -/
def formTick (env : SwgEnv) (inp : SwgIn) (grd : Tracker) (start : Bool) (m0 : SwgMach) (c0 : SwgCond) : SwgMach × SwgCond × List SwgFx :=
  let (m1, c1, fx1) := energyTick env inp start (offsetSet env c0 m0) c0
  let inr := ramping env c1 && inrushNow env inp
  let (m2, fx2) := machTick env inp c1 m1 inr
  let (m3, ramp) := ceilTick env c1 (offsetTick env inp c1 grd m2)
  let (m4, _, plim) := boundTick env inp m3
  let wasIsl := c1.island && c1.lastMode = 7
  let (c2, fx3) := rampConds env inp m4 inr (faultConds env inp m4 c1)
  let (c3, fx4) := watchTick env grd m4 c2
  let (c4, fx5) := closeTick env inp grd m4 c3
  let big := (sp env 0x0717).natAbs
  (m4,
    { c4 with
      first := false, pLim := plim, ceilRamp := ramp
      rocofOver := if c4.rocofOver then decide (m4.rocof.natAbs ≥ big) else decide (m4.rocof.natAbs > big)
      slew := c4.slew && !(decide (m4.wS = sp env 0x0708) && decide (m4.vS = sp env 0x0707)) },
    fx1 ++ fx2 ++ fx3 ++ fx4 ++ fx5 ++ (if env.mode = 7 && c4.island && !wasIsl then [SwgFx.island] else []))

/-- The machine as its 64-bit registers hold it (R136). -/
def SwgMach.held (m : SwgMach) : SwgMach :=
  { theta := m.theta, w := fxHold m.w, wlp := fxHold m.wlp, qf := fxHold m.qf, e := fxHold m.e, heff := fxHold m.heff, wS := fxHold m.wS
    vS := fxHold m.vS, ip := fxHold m.ip, inn := fxHold m.inn, w0 := fxHold m.w0, rocof := fxHold m.rocof, wdn := fxHold m.wdn
    wup := fxHold m.wup, pup := fxHold m.pup, idMax := fxHold m.idMax, iqMax := fxHold m.iqMax, idnMax := fxHold m.idnMax
    iqnMax := fxHold m.iqnMax, dth := fxHold m.dth }

/-- Phase S of one tick (R130, R137). A pending soft-start is made in the first tick of a mode from MD_2 to MD_9 in which VB_AL and VB_BE are
valid; until then the engine waits (R151). The trackers seed on entry to MD_2, and leaving it for MD_4 seeds nothing (DESIGN CHOICE: R150 has
"its first valid sample after MD_2"). Outside MD_2 to MD_9 the inputs are still followed, and LOSS and ENERGY_INV raised (DESIGN CHOICE: R161
names no mode for them). -/
def swgTick (env : SwgEnv) (g0 : Swg) : Swg × List SwgFx :=
  let (inp, fx1) := swgInputs env g0.inp
  let forming := 5 ≤ env.mode && env.mode ≤ 9
  let (c0, fx2) := enterMode env g0.cond g0.mach g0.grd
  let entered := env.mode ≠ g0.cond.lastMode
  let c0 := { c0 with lastMode := env.mode }
  if !(env.mode = 2 || env.mode = 4 || forming) then
    ({ g0 with state := 0, inp := inp, bus := g0.bus.rest, grd := g0.grd.rest
               cond := { quiet c0 with live := false, dead := false, eLim := false, eFloor := false } }, fx1 ++ fx2)
  else
    let (ga, gb) := gridEp env
    let reseed := env.mode = 2 && entered
    let bus := trackTick env inp 4 5 (if reseed then { g0.bus with seeded := false } else g0.bus)
    let grd := trackTick env inp ga gb (if reseed then { g0.grd with seeded := false } else g0.grd)
    let c1 := gridConds env inp c0
    let start := c1.wait
    if start && (inBad inp 4 || inBad inp 5) then
      let (c2, fx3) := watchTick env grd g0.mach c1
      ({ g0 with state := 7, inp := inp, bus := bus, grd := grd
                 cond := { c2 with inrush := false, inrushRun := 0, pLim := false, ceilRamp := false } }, fx1 ++ fx2 ++ fx3)
    else
      let m0 := if start then startMach env inp c1 bus g0.mach else g0.mach
      let m1 := enterMach env (start && c1.seedW.isSome) entered m0
      let c2 := if start then { c1 with wait := false, seedW := none, first := forming } else c1
      if forming then
        let prior := { c2 with lastMode := g0.cond.lastMode }
        let (m, c3, fx3) := formTick env inp grd start m1 prior
        ({ g0 with state := swgStateOf env.mode, inp := inp, bus := bus, grd := grd, mach := m.held, cond := { c3 with lastMode := env.mode } },
          fx1 ++ fx2 ++ fx3)
      else
        let (m, c3, fx3) := energyTick env inp start (restTick env inp bus grd m1) c2
        let (c4, fx4) := watchTick env grd m c3
        ({ g0 with state := 1, inp := inp, bus := bus, grd := grd, mach := m.held, cond := quiet c4 }, fx1 ++ fx2 ++ fx3 ++ fx4)

/-! ### Outputs and captures -/

/-- ID_P_MIN, the negative of Id_c (R149). -/
def idMin (env : SwgEnv) (g : Swg) : Int := -(splitPos env g.mach.ip (inVal env g.inp 8) (inVal env g.inp 9)).1

/-- The virtual-impedance references VD_P, VQ_P, VD_N, VQ_N (R144, R145). -/
def virtualRefs (env : SwgEnv) (g : Swg) : List Int :=
  let q := env.q
  let i := fun ep => inVal env g.inp ep
  let mul := fxMul q
  [ g.mach.e - mul (sp env 0x0709) (i 8) + mul (sp env 0x070A) (i 9),
    - mul (sp env 0x0709) (i 9) - mul (sp env 0x070A) (i 8),
    - mul (sp env 0x070B) (i 10) - mul (sp env 0x070C) (i 11),
    - mul (sp env 0x070B) (i 11) + mul (sp env 0x070C) (i 10) ]

/-- The upper 32 bits of a 64-bit angle, rounded, with a carry that wraps (R138). -/
def angleWord (a : Nat) : Int := roundShift a 32 % 2 ^ 32

/-- The output words by endpoint (R133, R134). -/
def swgOutputs (env : SwgEnv) (g : Swg) : List SigW :=
  let q := env.q
  let forming := 5 ≤ env.mode && env.mode ≤ 9 && g.state ≠ 7
  let tracking := (env.mode = 2 || env.mode = 4) && g.state ≠ 7
  let v0 := forming || (tracking && g.bus.locked)
  let v1 := forming
  let v2 := forming || tracking
  let v3 := (forming || tracking) && g.grd.locked
  let refs := virtualRefs env g
  [ ⟨angleWord g.mach.theta, -128, v0⟩, fxOut q g.mach.w 1 v0, fxOut q g.mach.e 1 v0,
    fxOut q (nth 0 refs 0) 1 v1, fxOut q (nth 0 refs 1) 1 v1, fxOut q (nth 0 refs 2) 1 v1, fxOut q (nth 0 refs 3) 1 v1,
    fxOut q g.mach.idMax 1 v1, fxOut q (idMin env g) 1 v1, fxOut q g.mach.iqMax 1 v1,
    fxOut q g.mach.idnMax 1 v1, fxOut q g.mach.iqnMax 1 v1,
    fxOut q g.mach.heff 5 v2, fxOut q g.mach.wdn 0 v2, fxOut q g.mach.rocof 0 v2,
    fxOut q (angDiff q g.grd.angle g.bus.angle) 0 v3, ⟨angleWord g.grd.angle, -128, v3⟩, ⟨g.state, 31, true⟩ ]

/-- A value in a signed or unsigned 32-bit register with n fraction bits. -/
def fxReg (q n : Nat) (x : Int) : Nat := ofSigned 32 (clampInt (-(2 ^ 31)) (2 ^ 32 - 1) (alignBy x ((n : Int) - q)))

/-- The capture of R165. -/
def swgCapture (q : Nat) (g : Swg) : SwgCap :=
  let m := g.mach
  ⟨g.state, m.theta,
    [ fxReg q 28 m.w, fxReg q 28 m.e, fxReg q 24 m.heff, fxReg q 31 m.wdn, fxReg q 31 m.wup, fxReg q 28 m.pup,
      fxReg q 28 m.idMax, fxReg q 28 m.iqMax, fxReg q 28 m.idnMax, fxReg q 28 m.iqnMax, fxReg q 31 m.dth, fxReg q 28 m.rocof ]⟩

/-- The engine as its reset leaves it, with a soft-start pending (R151). -/
def Swg.reset : Swg :=
  { state := 0
    inp := ⟨List.replicate 16 SigW.none, 0, List.replicate 16 0, List.replicate 16 none, 0, 0, 0, false⟩
    mach := ⟨0, 0, 0, 0, 0, 0, 0, 0, 0, 0, 0, 0, 0, 0, 0, 0, 0, 0, 0, 0⟩
    cond := ⟨true, false, 0, none, false, 0, false, 0, false, 0, 0, false, false, false, false, 0, 0, false, false,
             none, none, 0, 0, 0, none, false, false, false, false, false, false, false⟩
    bus := Tracker.reset, grd := Tracker.reset, arm := false, cap := none, lat := ⟨0, 0, List.replicate 12 0⟩, seq := 0 }

end Sys2Proof.Machine
end

