-- ==== Sys2Proof/Machine/State.lean ====
section
/-!
DEFINITION. The state of the block: every register, engine, store, link and queue that the manual gives it, and the queue of
the commands that wait. All of it is plain data.
-/
namespace Sys2Proof.Machine

/-- The block never stops with a fault: every event of the manual has an effect on the state. Nothing raises one, so the
type has no constructor. -/
inductive Fault
deriving DecidableEq, Repr

/-- Why a command has no meaning. -/
inductive Refusal where
  /-- Raised by an arm of `exec` whose command has no meaning yet; safe, because nothing happens. -/
  | notModelled (mnemonic : String)
deriving DecidableEq, Repr

/-- The machine. -/
structure State where
  pending : List Instr        -- commands that wait, first in, first out
  free    : Nat               -- the model's own: how many free values have been used
  out     : List Out          -- what the last command sent, in order
  rdata   : Word              -- the word the last read row returned
  regs    : Tab Word          -- stored bits (RW, RWS, W1C) of the register space, by BAR0 offset (R14, R18)
  hold64  : Tab (Option Word) -- lower words written and not yet committed (R15)
  latch64 : Tab (Option Word) -- upper words latched by a read of the lower word (R15)
  sys     : Sys
  sa      : List SaEntry      -- 64 scheduled-action entries (R57)
  frst    : Frst
  tmr     : Tmr
  log     : EvLog
  img     : FabImg
  fab     : Fab
  swg     : Swg
  swgOld  : Swg               -- the swing engine before the last tick (R135)
  rdl     : Rdl
  rdlOld  : Rdl               -- the riddle engine before the last tick (R30, R185)
  crd     : Crd
  txRd    : List Bool         -- running disparity of the transmitter of each of the 50 lanes (R202)
  ggd     : Ggd
  adc     : Adc
  rcd     : Rec
  clk     : Clk
  tim     : Tim
  fio     : Fio
  mon     : Mon
  hif     : Hif
  stk     : Stk
  red     : Red
  saf     : Saf
  mem     : Mem
  sec     : Sec
  peat    : Peat
deriving DecidableEq, Repr

/-- The mode controller in MD_0 (R44). -/
def Sys.reset : Sys :=
  { mode := .md0, prev := .md0, cause := 0, halt := false, trans := none, before6 := .md4, held := none, requests := []
    reqNum := 0, live := none, resTarget := 0, resSeq := 0, resStatus := 0, causes := [], blockNext := false, relCause := 0
    tickCnt := 0, tickCode := 1, bound := 0, ovrAt := none, repeatNext := false, mrst := false, late := false }

/-- A fabric with no image: no node exists. -/
def Fab.reset : Fab :=
  { cells := [], before := [], src := [], latch := [], sink := [], sinkOld := [], miss := [], skew := List.replicate 4 none, idx := 0, lastEvt := 0
    lastNode := 0, peekArm := none, capture := none, latched := ⟨0, 0, 0, 0, []⟩, peekSeq := 0 }

/-- No image in either plane. -/
def FabImg.reset : FabImg := ⟨0, none, none, 0, 0, 0, 0, 0, 0, none⟩

/-- The synthesiser before it acquires (R318). -/
def Clk.reset : Clk := ⟨0, 0, false, true, none, 0, 0, false, false⟩

/-- The link is down. -/
def Hif.reset : Hif := ⟨false, 0, 0, PfCfg.reset, PfCfg.reset⟩

/-- The stoker as MD_0 leaves it. -/
def Stk.reset : Stk := ⟨[], List.replicate 12 Worker.empty, [], [], [], [], [], 0, 0, 0⟩

/-- Redundancy as MD_0 leaves it; the epoch comes back from the peat store in Kindle (R346). -/
def Red.reset (unitSel : Bool) : Red :=
  { state := .off, unitSel := unitSel, epoch := 0, eNew := 0, epochP := 0, pstate := 7, hb := none, hbHere := false, hbSeq := 0
    tknIn := false, tknFault := false, tok := false, takeDue := false, lease := false, leaseAt := 0, relCause := 0, hbkReq := false, inhibit := false
    snapSeq := 0, stream := none, rxSeq := 0, rxAge := 0, rx := [], nak := 0, snap := none, copyOk := false, pwr := false, slotRep := none
    repDue := false, gone := 0, takeOpen := false, claimAt := 0, cmd := none, cmdRes := 0, restored := false, met := 0 }

/-- The safe block function at power-on (R380): no lock-out, and no input found in demand yet. -/
def Saf.reset : Saf :=
  { lock := false, sbA := false, sbB := false, disc := false, discBoth := false, cplA := false, cplB := false, failA := 0
    failB := 0, passA := 0, passB := 0, ack := false, confArm := false, btn := false, rstate := .released, res := 0, proofDue := false, hour := 0, shorts := 0, due := 0 }

/-- The stores as MD_0 leaves them: every rick ON and nothing written (R409, R417). -/
def Mem.reset : Mem := ⟨[], List.replicate 16 2, 0, 0, 0, false, false, 0⟩

/-- The security engine as MD_0 leaves it. -/
def Sec.reset : Sec :=
  { imgStatus := 0, imgState := 0, imgSlot := 0, imgKib := 0, imgLen := 0, active := 0, bootImg := 0, ucSlot := 0, ucLoading := none, rcv := none
    rcvRes := 0, arcRes := 0, keyRes := 0, ucStat := 0, bootRes := 0, bootFirst := 0, bootOther := 0, idKnown := false
    attWait := 0, arcPend := none }

/-- The peat store of a module that has stored nothing but its factory contents. -/
def Peat.reset : Peat :=
  recAll
    { slots := [ImgSlot.empty, ImgSlot.empty], uc := [ImgSlot.empty, ImgSlot.empty], ring := [], ringNext := 0, epoch := 0
      epochOk := true, arc := [], leaf := 0, reports := 0, checkVal := none, proof := 0, failed := [], mapArms := [], calib := [], bootSlot := 0
      bootUc := 0, keys := [], wear := 0, retired := 0, recs := [], queue := [], banks := [], wears := [] }

/-- The module right after its supplies came on: MD_0, nothing in any queue, every rail and REFCLK still to be judged. -/
def State.reset : State :=
  { pending := [], free := 0, out := [], rdata := 0, regs := [], hold64 := [], latch64 := []
    sys := Sys.reset, sa := List.replicate 64 SaEntry.empty, frst := ⟨0, 0⟩, tmr := ⟨none, none, [none, none, none], false⟩
    log := ⟨0, []⟩, img := FabImg.reset, fab := Fab.reset, swg := Swg.reset, swgOld := Swg.reset, rdl := Rdl.reset
    rdlOld := Rdl.reset, crd := Crd.reset, txRd := List.replicate 50 false, ggd := Ggd.reset, adc := Adc.reset, rcd := Rec.reset
    clk := { Clk.reset with refOk := false }
    tim := Tim.reset, fio := Fio.reset, mon := { Mon.reset with rails := 0xFFF }, hif := Hif.reset, stk := Stk.reset
    red := Red.reset false, saf := Saf.reset, mem := Mem.reset, sec := Sec.reset, peat := Peat.reset }

end Sys2Proof.Machine
end

