-- ==== Sys2Proof/Machine/Regs.lean ====
section
/-!
DEFINITION. Access to the stored bits of the register space: where a BAR0 offset leads, what it holds at reset, and how one
field of it is read, written and counted up (R13 to R19).
-/
namespace Sys2Proof.Machine

/-! ### Function numbers (chapter The module and one control tick) -/

abbrev fnSYS : Nat := 0
abbrev fnCLK : Nat := 1
abbrev fnTIM : Nat := 2
abbrev fnETH : Nat := 3
abbrev fnHIF : Nat := 4
abbrev fnSTK : Nat := 5
abbrev fnRKS : Nat := 6
abbrev fnBLK : Nat := 7
abbrev fnPTS : Nat := 8
abbrev fnSEC : Nat := 9
abbrev fnFAB : Nat := 10
abbrev fnSWG : Nat := 11
abbrev fnRDL : Nat := 12
abbrev fnCRD : Nat := 13
abbrev fnRED : Nat := 14
abbrev fnGGD : Nat := 15
abbrev fnPWM : Nat := 16
abbrev fnADC : Nat := 17
abbrev fnFLT : Nat := 18
abbrev fnREC : Nat := 19
abbrev fnSAF : Nat := 20
abbrev fnFIO : Nat := 21
abbrev fnMON : Nat := 22

/-- BAR0 offset of a register by function and window offset (R13). -/
def regA (fn off : Nat) : Nat := fn * 0x10000 + off

/-- Where a window offset falls in a register: its instance and whether it is the upper word. -/
def hitDef (d : RegDef) (o : Nat) : Option (Nat × Bool) :=
  if o < d.off then none
  else
    let k := o - d.off
    let i := if d.stride = 0 then 0 else k / d.stride
    let r := if d.stride = 0 then k else k % d.stride
    if i < d.n && r = 0 then some (i, false) else if i < d.n && d.wide && r = 4 then some (i, true) else none

/-- The first register of a list that holds the offset. -/
def findDef : List RegDef → Nat → Option (RegDef × Nat × Bool)
  | [], _ => none
  | d :: ds, o =>
    match hitDef d o with
    | some h => some (d, h)
    | none => findDef ds o

/-- The register at a BAR0 offset, with the instance and the half; none for a reserved address (R16). -/
def regDefOf (a : Nat) : Option (RegDef × Nat × Bool) := findDef (regsOf (a / 0x10000)) (a % 0x10000)

/-- One half of a 64-bit mask. -/
def halfOf (upper : Bool) (m : Nat) : Word := BitVec.ofNat 32 (if upper then m >>> 32 else m)

/-- Reset value of the region registers: word 0 BASE, 1 LIMIT, 2 CTL of region k of master m (R413). -/
def rgnReset (m k w : Nat) : Word :=
  let row (base limit ctl : Nat) : Word := if w = 0 then at_ base 0 else if w = 1 then at_ limit 0 else at_ ctl 0
  match m, k with
  | 0, 0 => row 0x00000000 0x00BFF000 7
  | 0, 1 => row 0x10000000 0x10FFF000 7
  | 1, 0 => row 0x00000000 0x00BFF000 3
  | 1, 1 => row 0x10000000 0x10FFF000 3
  | 2, 0 => row 0x11000000 0x1FFFF000 7
  | 2, 1 => row 0x00000000 0x00BFF000 3
  | 3, 0 => row 0x00E00000 0x00FFF000 7
  | 4, 0 => row 0x00D00000 0x00DFF000 7
  | 4, 1 => row 0x00E00000 0x00FFF000 5
  | 5, 0 => row 0x00C00000 0x00CFF000 7
  | 6, 0 => row 0x00E00000 0x00EFF000 3
  | _, _ => 0

/-- What the stored bits of a register read as after MD_0 (R18). -/
def regReset (a : Nat) : Word :=
  if 0x61000 ≤ a ∧ a < 0x61700 then rgnReset ((a - 0x61000) / 0x100) (a % 0x100 / 0x10) (a % 0x10 / 4)
  else
    match regDefOf a with
    | some (d, _, h) => halfOf h d.reset
    | none => 0

/-- Stored bits of the word at a BAR0 offset. -/
def regGet (s : State) (a : Nat) : Word := tabGet (regReset a) s.regs a

/-- The state with the stored bits of one word replaced. -/
def regSet (s : State) (a : Nat) (v : Word) : State := { s with regs := tabSet (regReset a) s.regs a v }

/-- Bits hi:lo of a register. -/
def regF (s : State) (a hi lo : Nat) : Nat := field (regGet s a) hi lo

/-- The state with bits hi:lo of a register replaced. -/
def regPut (s : State) (a hi lo v : Nat) : State := regSet s a (mergeMask (regGet s a) (at_ v lo) (maskOf hi lo))

/-- A counter in bits hi:lo goes up by one and saturates. -/
def regInc (s : State) (a hi lo : Nat) : State := regPut s a hi lo (satInc (hi - lo + 1) (regF s a hi lo))

/-- A 64-bit register's stored value (R15). -/
def reg64 (s : State) (a : Nat) : Nat := (regGet s a).toNat + (regGet s (a + 4)).toNat * 2 ^ 32

/-- The table after every listed register of a function whose offset is p is forgotten, so that it reads its reset value. -/
def regsDrop (p : Nat → Bool) : Tab Word → Tab Word
  | [] => []
  | (k, v) :: t => if p k then regsDrop p t else (k, v) :: regsDrop p t

/-- The bits that a function reset keeps (R18): those of access RWS; every other stored bit returns to its reset value. -/
def frstWord (a : Nat) (v : Word) : Word :=
  match regDefOf a with
  | some (d, _, h) => mergeMask (regReset a) v (halfOf h d.rws)
  | none => v

/-- The register file after a reset of function fn (R18); offsets for which `keep` holds are left alone. -/
def regsFrst (fn : Nat) (keep : Nat → Bool) : Tab Word → Tab Word
  | [] => []
  | (k, v) :: t =>
    let rest := regsFrst fn keep t
    if k / 0x10000 = fn && !keep (k % 0x10000) then
      if frstWord k v = regReset k then rest else (k, frstWord k v) :: rest
    else (k, v) :: rest

end Sys2Proof.Machine
end

