-- ==== Sys2Proof/Machine/Flags.lean ====
section
/-!
DEFINITION. What leaves the module in a command, and the event flags with the interrupts that they send (R387).
-/
namespace Sys2Proof.Machine

/-- What a command starts from: nothing has been sent yet. -/
def begin (s : State) : State := { s with out := [] }

/-- Something leaves the module. -/
def send (s : State) (o : Out) : State := { s with out := s.out ++ [o] }

/-! ### Interrupts (R387) -/

/-- The configuration of one function. -/
def pfOf (s : State) (pf : Pf) : PfCfg := if pf = .pf0 then s.hif.pf0 else s.hif.pf1

/-- The configuration of one function is replaced. -/
def setPf (s : State) (pf : Pf) (c : PfCfg) : State :=
  { s with hif := if pf = .pf0 then { s.hif with pf0 := c } else { s.hif with pf1 := c } }

/-- The message of a vector, as its entry of the MSI-X table has it (R382). -/
def vectorMsg (s : State) (pf : Pf) (vec : Nat) : Out :=
  let e := tabGet (0, 0) (pfOf s pf).table vec
  .msix pf vec e.1 e.2

/-- An interrupt of one vector to one function: a message, or its pending bit where the vector is masked. -/
def msix (s : State) (pf : Pf) (vec : Nat) : State :=
  let c := pfOf s pf
  if !c.msixEn then s
  else if c.mask.getLsbD vec then setPf s pf { c with pend := c.pend ||| BitVec.ofNat 64 (1 <<< vec) }
  else if s.hif.up && c.busM && !c.d3hot then send s (vectorMsg s pf vec)
  else s

/-- An interrupt of one vector to both functions. -/
def msixBoth (s : State) (vec : Nat) : State := msix (msix s .pf0 vec) .pf1 vec

/-! ### Event flags -/

/-- The event flag `b` of function fn is set in its EVT register, and its interrupt is sent where the set of enabled flags was
empty (R387). -/
def setFlag (s : State) (fn b : Nat) : State :=
  let a := regA fn 0x40
  let old := regGet s a
  let new := old ||| at_ 1 b
  let en := regGet s (a + 4)
  let s := regSet s a new
  if old &&& en = 0 ∧ new &&& en ≠ 0 then msixBoth s fn else s

end Sys2Proof.Machine
end

