-- ==== Sys2Proof/Machine/Ops.lean ====
section
/-!
DEFINITION. The operations every command shares: free values and time stamps, device memory under its region registers, the
event log, events and access errors.
-/
namespace Sys2Proof.Machine

/-- The image in force; a module without one behaves as under an image without sections. -/
def imgOf (s : State) : Image := s.img.live.getD Image.empty

/-- Length of the tick in ns. -/
def tickNs (s : State) : Nat := tickNsOf s.sys.tickCode

/-- A free value (R20 and the assumption log): nothing constrains it. -/
def fresh (s : State) : Nat × State := (Config.freeValue s.free, { s with free := s.free + 1 })

/-- A free value below n; n is positive. -/
def freshBelow (s : State) (n : Nat) : Nat × State := (Config.freeValue s.free % n, { s with free := s.free + 1 })

/-- The SYS time at which the present event falls, in 2^−16 ns: in the tick that runs, at a place the command does not name. -/
def stamp (s : State) : Nat × State :=
  let (d, s) := freshBelow s (tickNs s * 65536)
  (s.sys.bound * 65536 + d, s)

/-- Time value (R11) of a time in 2^−16 ns: seconds 95:48, nanoseconds 47:16, fraction 15:0. -/
def time96 (u : Nat) : Nat :=
  u / (65536 * 1000000000) % 2 ^ 48 * 2 ^ 48 + u / 65536 % 1000000000 * 2 ^ 16 + u % 65536

/-! ### Device memory (R407 to R412) -/

/-- Whether region k of master m is enabled, grants the access and covers the page. -/
def rgnGrants (s : State) (m k page : Nat) (wr : Bool) : Bool :=
  let a := 0x61000 + 0x100 * m + 0x10 * k
  let ctl := regGet s (a + 8)
  bit ctl 0 && (if wr then bit ctl 2 else bit ctl 1) && decide (regF s a 31 12 ≤ page)
    && decide (page ≤ regF s (a + 4) 31 12)

/-- Whether every page from `page` on, n of them, lies in a region of master m that grants the access. -/
def pagesGranted (s : State) (m : Nat) (wr : Bool) : Nat → Nat → Bool
  | 0, _ => true
  | n + 1, page => (List.range 16).any (fun k => rgnGrants s m k page wr) && pagesGranted s m wr n (page + 1)

/-- Whether the regions of master m allow an access to len bytes at a device address (R412). -/
def rgnAllows (s : State) (m addr len : Nat) (wr : Bool) : Bool :=
  if len = 0 then true else pagesGranted s m wr ((addr + len - 1) / 4096 + 1 - addr / 4096) (addr / 4096)

/-- Whether a range lies wholly in the ricks or wholly in the bulk store (R407). -/
def devMapped (addr len : Nat) : Bool :=
  decide (addr + len ≤ 0x1000000) || (decide (0x10000000 ≤ addr) && decide (addr + len ≤ 0x20000000))

/-- First device address of the event log's rick (R408). -/
abbrev logBase : Nat := 0xC00000

/-- One byte of the event log ring, as rick 12 holds it (R415). -/
def logByte (l : EvLog) (k : Nat) : Byte := BitVec.ofNat 8 ((tabGet 0 l.ring (k / 32)).toNat >>> (8 * (k % 32)))

/-- One byte of the ricks and the bulk store; what nothing has written reads as 0. -/
def devByte (s : State) (addr : Nat) : Byte :=
  if logBase ≤ addr ∧ addr < logBase + 0x100000 then logByte s.log (addr - logBase) else tabGet 0 s.mem.dev addr

/-- len bytes from a device address. -/
def devRead (s : State) (addr len : Nat) : List Byte := (List.range len).map (fun k => devByte s (addr + k))

/-- The event log ring with one byte changed. -/
def logPutByte (l : EvLog) (k : Nat) (b : Byte) : EvLog :=
  let e := tabGet 0 l.ring (k / 32)
  let sh := 8 * (k % 32)
  { l with ring := tabSet 0 l.ring (k / 32) ((e &&& ~~~(BitVec.ofNat 256 (255 <<< sh))) ||| BitVec.ofNat 256 (b.toNat <<< sh)) }

/-- One byte of the ricks and the bulk store is written. -/
def devPut (s : State) (addr : Nat) (b : Byte) : State :=
  if logBase ≤ addr ∧ addr < logBase + 0x100000 then { s with log := logPutByte s.log (addr - logBase) b }
  else { s with mem := { s.mem with dev := tabSet 0 s.mem.dev addr b } }

/-- Bytes are written from a device address on. -/
def devWrite : State → Nat → List Byte → State
  | s, _, [] => s
  | s, a, b :: bs => devWrite (devPut s a b) (a + 1) bs

/-- The ricks a range touches that are not ON (R409). -/
def rickOff (s : State) (addr len : Nat) : Bool :=
  addr < 0x1000000 && decide (0 < len) &&
    (List.range ((addr + len - 1) / 0x100000 + 1 - addr / 0x100000)).any (fun j => nth 2 s.mem.pwr (addr / 0x100000 + j) ≠ 2)

/-! ### Event log (R415, R416) -/

/-- A denied access is counted and flagged (R412). -/
def countDeny (s : State) : State :=
  setFlag { s with mem := { s.mem with deny := satInc 16 s.mem.deny } } fnRKS 2

/-- One entry of the event log as its 32 bytes stand, first byte lowest (R415). -/
def logWord (seq time fn code arg : Nat) : BitVec 256 :=
  BitVec.ofNat 256 (seq % 2 ^ 32 + time % 2 ^ 96 * 2 ^ 32 + fn % 256 * 2 ^ 128 + code % 256 * 2 ^ 136 + arg % 2 ^ 96 * 2 ^ 160)

/-- An entry with a stated time is written to the log. Nothing is written in MD_0, where the log is empty (R415), nor where the
region registers deny SYS its rick (R412). -/
def logAt (s : State) (u fn code arg : Nat) : State :=
  if s.sys.mode = .md0 then s
  else
    let k := s.log.next % 32768
    if rgnAllows s 5 (logBase + 32 * k) 32 true then
      { s with log := { next := (s.log.next + 1) % 2 ^ 32
                        ring := tabSet 0 s.log.ring k (logWord s.log.next (time96 u) fn code arg) } }
    else countDeny s

/-- An entry with the time of the present event is written to the log. -/
def logNow (s : State) (fn code arg : Nat) : State :=
  let (u, s) := stamp s
  logAt s u fn code arg

/-- An entry with the time of the present tick boundary. -/
def logBound (s : State) (fn code arg : Nat) : State := logAt s (s.sys.bound * 65536) fn code arg

/-- ARG with a byte value at a byte offset. -/
def argAt (off v : Nat) : Nat := v * 256 ^ off

/-! ### Event flags -/

/-- The functions whose flag entries are written to the log at every raise: all that say so (R165, R198, R237 and so on); FAB
and MON do not. -/
def flagLogged (fn : Nat) : Bool := fn ≠ fnFAB ∧ fn ≠ fnMON

/-- An event of a function: its flag is set, its interrupt is sent where R387 says so, and its entry is written (R416), with the
first index in byte 0 and the second in bytes 2 and 3. -/
def raise (s : State) (fn b i1 i2 : Nat) : State :=
  let s := setFlag s fn b
  if flagLogged fn then logNow s fn b (argAt 0 (i1 % 256) + argAt 2 (i2 % 65536)) else s

/-- An access error (R14, R16, R19): kind 0 size, 1 PF0-only register, 2 reserved address, 3 armed or N9-owned entry, 4 other. -/
def accessErr (s : State) (pf : Pf) (addr kind : Nat) : State :=
  logNow s fnSYS 0x85 (argAt 0 addr + argAt 4 (if pf = .pf0 then 0 else 1) + argAt 5 kind)

/-- A rick read that meets a parity error is counted and flagged (R411). -/
def parityAccess (s : State) : State := raise { s with mem := { s.mem with parity := satInc 16 s.mem.parity } } fnRKS 0 0 0

/-- A denied access of a master: flagged, counted and logged (R412). -/
def denyAccess (s : State) : State :=
  raise { s with mem := { s.mem with deny := satInc 16 s.mem.deny } } fnRKS 2 0 0

/-- An access that is not a read of bytes meets the region registers of its master and then the power of the ricks (R409, R412): 0 where it is
allowed, else the status with which a billet so refused completes. -/
def devAsk (s : State) (m addr len : Nat) (wr : Bool) : Nat × State :=
  if !rgnAllows s m addr len wr then (6, denyAccess s)
  else if rickOff s addr len then (7, raise s fnRKS 1 0 0)
  else (0, s)

/-- Bytes of the ricks are read; whether the read meets a parity error is open (R411). -/
def parityRead (s : State) (addr len : Nat) : Sum Nat (List Byte) × State :=
  if len = 0 then (.inr [], s)
  else
    let (e, s) := freshBelow s 2
    if e = 1 then (.inl 7, parityAccess s) else (.inr (devRead s addr len), s)

/-- Master m reads bytes of the ricks. Where the read ends with an error, the status with which a billet so refused completes. -/
def rickRead (s : State) (m addr len : Nat) : Sum Nat (List Byte) × State :=
  let (st, s) := devAsk s m addr len false
  if st ≠ 0 then (.inl st, s) else parityRead s addr len

/-! ### The bulk store's check bits (R417) -/

/-- A counter in bits hi:lo goes up by n and saturates. -/
def regAdd (s : State) (a hi lo n : Nat) : State := regPut s a hi lo (satNat (hi - lo + 1) (regF s a hi lo + n))

/-- An access has met n corrected and m uncorrectable groups of the bulk store, the last of these at a device address. -/
def blkErrs (s : State) (n m last : Nat) : State :=
  let s := if n = 0 then s else raise (regAdd s 0x70018 15 0 n) fnBLK 0 0 0
  if m = 0 then s
  else raise (regAdd { s with mem := { s.mem with ueAddr := BitVec.ofNat 32 last } } 0x70018 31 16 m) fnBLK 1 0 0

/-- Groups of 8 bytes, by number, are read: those among them that show an uncorrectable error. A corrected one is written back, which changes
no byte that a reader sees. -/
def blkLook (s : State) (groups : List Nat) : List Nat × State :=
  let is := fun (c g : Nat) => decide (Config.groupState s.free g % 3 = c)
  let ue := groups.filter (is 2)
  (ue, blkErrs { s with free := s.free + 1 } (groups.filter (is 1)).length ue.length (8 * ue.getLastD 0))

/-- Bytes that stand in the bulk store from a device address on are read: as they come, and the number of uncorrectable groups. -/
def blkRead (s : State) (addr : Nat) (bs : List Byte) : List Byte × Nat × State :=
  let (ue, t) := blkLook s ((List.range ((addr + bs.length + 7) / 8 - addr / 8)).map (addr / 8 + ·))
  (bs.zipIdx.map (fun x => if ue.contains ((addr + x.2) / 8) then Config.errByte s.free (addr + x.2) else x.1), ue.length, t)

/-- The groups that a write covers only in part, which it reads before it writes them. -/
def blkEdges (addr len : Nat) : List Nat :=
  (if addr % 8 = 0 then [] else [addr / 8]) ++ (if (addr + len) % 8 = 0 then [] else [(addr + len) / 8])

/-- The functions that CK_SYS and its sister clocks drive are not held idle (R319). -/
def clocked (s : State) : Bool := s.clk.state = 2

end Sys2Proof.Machine
end

