-- ==== Sys2Proof/Machine/React.lean ====
section
/-!
DEFINITION. The reactions that every function can raise: a cause of a mode change, and block and release (R40, R44, R47, R49).
-/
namespace Sys2Proof.Machine

/-! ### Chains that restart (R270, R284) -/

/-- Chain i. -/
def chainOf (s : State) (i : Nat) : Chain := nth Chain.reset s.adc.chains i

/-- Chain i changed. -/
def updChain (s : State) (i : Nat) (f : Chain → Chain) : State := { s with adc := { s.adc with chains := updNth s.adc.chains i f } }

/-- Every listed chain restarts at its next output boundary: 1 restart count, 2 channel count. -/
def chainsRestart (s : State) (l : List Nat) (kind : Nat) : State :=
  l.foldl (fun s i => updChain s i (fun c => { c with due := max c.due kind })) s

/-- A converter restart: the reference is back, or the hold grid has moved (R270 to R272). -/
def adcRestart (s : State) : State := chainsRestart s (List.range 32) 2

/-- The unit is one of a pair (R338). -/
def pairUnit (s : State) : Bool := hasSect (imgOf s) 0x0E && decide (pInt (imgOf s) 0x0E01 = 1)

/-- The unit holds the token (R339, R345). -/
def tokenHeld (s : State) : Bool := s.red.state = .holder || (s.red.state = .single && s.red.tok)

/-- The direct-drive port is under the token (R34, DD_TOKEN). -/
def ddToken (s : State) : Bool := pNat (imgOf s) 0x010F = 1

/-- Some channel of the direct-drive port is deblocked. -/
def ddDeb (s : State) : Bool := s.ggd.chans.any (fun c => c.state = 1 || c.state = 2)

/-- Some valve port's last frames carried BLOCK = 0. -/
def valveDeb (s : State) : Bool := s.crd.ports.any (fun p => p.carry)

/-- The unit is switching (R35). -/
def switching (s : State) : Bool := valveDeb s || ddDeb s

/-- The modes from which a block-and-release reaction leads to MD_2 (R44). -/
def Mode.blockable : Mode → Bool
  | .md2 | .md3 | .md4 | .md5 | .md6 | .md7 | .md8 | .md9 | .md11 => true
  | _ => false

/-- Code of a mode (R41). -/
def Mode.code : Mode → Nat
  | .md0 => 0 | .md1 => 1 | .md2 => 2 | .md3 => 3 | .md4 => 4 | .md5 => 5
  | .md6 => 6 | .md7 => 7 | .md8 => 8 | .md9 => 9 | .md10 => 10 | .md11 => 11

/-- The mode of a code; codes 12 to 15 name none (R41). -/
def Mode.ofCode : Nat → Option Mode
  | 0 => some .md0 | 1 => some .md1 | 2 => some .md2 | 3 => some .md3 | 4 => some .md4 | 5 => some .md5
  | 6 => some .md6 | 7 => some .md7 | 8 => some .md8 | 9 => some .md9 | 10 => some .md10 | 11 => some .md11
  | _ => none

/-- MD_4 to MD_9. -/
def Mode.forms (m : Mode) : Bool := decide (4 ≤ m.code) && decide (m.code ≤ 9)

/-- A cause of a mode change waits for the next vote (R47); the same cause is held once. -/
def addCause (s : State) (c : Cause) : State :=
  if s.sys.causes.contains c then s else { s with sys := { s.sys with causes := s.sys.causes ++ [c] } }

/-- Block and release (R40): every port under the token is blocked at the next frame, the token is released with the given cause
code of R343, and MD_2 is voted. -/
def blockReleaseBy (s : State) (rel : Nat) : State :=
  if s.sys.mode.blockable then
    let s := addCause s ⟨.blockRelease, .md2, none, 0⟩
    { s with sys := { s.sys with blockNext := true, relCause := if s.sys.blockNext then s.sys.relCause else rel } }
  else s

/-- A block-and-release reaction: cause 3 of R343, a reaction or the unit's own fault. -/
def blockRelease (s : State) : State := blockReleaseBy s 3

/-- The keyed commands of PF0 (R19): from PF1 the write has no effect and is an access error. -/
def pf0Only (s : State) (pf : Pf) (addr : Nat) (f : State → State) : State :=
  if pf = .pf1 then accessErr s pf addr 1 else f s

/-- Whether the window of a function answers the host (R383): the six windows of the always-on bridge always do, and the others
only while the synthesiser's outputs run and, in MD_3, only those that stay powered; ADC and FLT only while CK_ACQ runs (R319, R321). -/
def windowOpen (s : State) (fn : Nat) : Bool :=
  if fn ∈ [fnSYS, fnCLK, fnTIM, fnRED, fnSAF, fnMON] then true
  else if s.clk.state ≠ 2 then false
  else if s.sys.mode = .md3 then decide (fn ∈ [fnHIF, fnRKS, fnPTS, fnSEC])
  else if fn = fnADC ∨ fn = fnFLT then bit (regGet s 0x1010C) 31
  else true

/-- A function answers BAR accesses of the host (R382): not in D3hot, and only with Memory Space Enable. -/
def pfAnswers (s : State) (pf : Pf) : Bool := s.hif.up && (pfOf s pf).memSp && !(pfOf s pf).d3hot

/-- A BAR access to a function that does not answer: where the link is up it is an unsupported request, which ERR_UR reports (R406). -/
def unsupported (s : State) : State := if s.hif.up then raise s fnHIF 4 0 0 else s

/-- A host access to a register of function fn: nothing happens where the function does not answer or the window is closed. -/
def hostAccess (s : State) (pf : Pf) (fn : Nat) (f : State → State) : State :=
  if !pfAnswers s pf then unsupported s else if windowOpen s fn then f s else s

/-- A host read of a register of function fn: a closed window reads 0xFFFF_FFFF (R383). -/
def hostRead (s : State) (pf : Pf) (fn : Nat) (f : State → State) : State :=
  if !pfAnswers s pf then unsupported s else if windowOpen s fn then f s else { s with rdata := 0xFFFFFFFF }

/-- A host write of a PF0-only register. -/
def hostPf0 (s : State) (pf : Pf) (addr : Nat) (f : State → State) : State :=
  hostAccess s pf (addr / 0x10000) (fun s => pf0Only s pf addr f)

end Sys2Proof.Machine
end

