-- ==== Sys2Proof/Machine/Peat.lean ====
section
/-!
DEFINITION. The peat store's controller: lines that end, records that change, what a loss of supply does to the writes in progress, and the
reading of the records in Kindle (R420 to R423, R427).
-/
namespace Sys2Proof.Machine

/-- The peat store with some of its fields changed. -/
def peatSet (s : State) (f : Peat → Peat) : State := { s with peat := f s.peat }

/-- The peat store with records changed, whose lines are to be written (R421). -/
def peatWrite (s : State) (ks : List PeatKind) (f : Peat → Peat) : State := { s with peat := peatPost (f s.peat) ks }

/-- An anti-rollback counter at a greater value, up to its end (R424). -/
def arcPut (p : Peat) (n v : Nat) : Peat := { p with arc := tabSet 0 p.arc n (min v 0xFFFFFFFF) }

/-- The calibration coefficients with those that a session has committed (R289). -/
def calPut (t : Tab (BitVec 64)) (l : List (Nat × Option (BitVec 64))) : Tab (BitVec 64) :=
  l.foldl (fun t x => match x.2 with
    | some w => tabInsert t x.1 w
    | none => tabErase t x.1) t

/-- The store with what a record's next line brings into force: a counter that SEC_ARC_CTL advances, coefficients that wait. -/
def peatNext (s : State) (k : PeatKind) : Peat :=
  match k with
  | .arc => match s.sec.arcPend with
    | some (n, v) => if tabGet 0 s.peat.arc n < v then arcPut s.peat n v else s.peat
    | none => s.peat
  | .calibration => { s.peat with calib := calPut s.peat.calib s.adc.cal.save }
  | .epoch => { s.peat with epochOk := true }
  | _ => s.peat

/-- A record whose line is stored is in force with what waited for it. -/
def lineTaken (s : State) (k : PeatKind) : State :=
  { s with peat := peatNext s k
           adc := if k = .calibration then { s.adc with cal := { s.adc.cal with save := [] } } else s.adc
           sec := if k = .arc then { s.sec with arcPend := none } else s.sec }

/-- A line is written once more: PTS_WEAR follows the highest count, and WEAR is raised once as a line passes 9 × 10⁸ writes (R423). -/
def lineWorn (s : State) (l : PLine) : State :=
  let k := lineNum s.peat l
  let w := tabGet 0 s.peat.wears k + 1
  let s := peatSet s (fun p => { p with wears := tabSet 0 p.wears k w, wear := max p.wear w })
  if w = 900000001 then raise s fnPTS 2 0 0 else s

/-- A line was written and reads back: its record is in force, its bank takes the next line, and SEC_ARC_RES reads DONE where no line of the
counters is left to write (R424). -/
def lineDone (s : State) (l : PLine) : State :=
  let s := lineTaken s l.kind
  let s := peatSet s (fun p => bankFill { lineStore p l with banks := p.banks.erase l })
  if l.kind = .arc && s.sec.arcRes = 1 && peatIdle s.peat .arc then { s with sec := { s.sec with arcRes := 2 } } else s

/-- A line that failed its read-back is retired; its bank repeats the write, of a record on the next line of its group (R421). Where no copy of the
epoch is left, it is absent (R340). -/
def lineLost (s : State) (l : PLine) : State :=
  let s := raise (regInc (peatSet s (fun p => { p with retired := p.retired + 1 })) 0x80048 31 0) fnPTS 0 0 0
  if peatGroups l.kind = 0 then s
  else
    let s := peatSet s (fun p => groupUpd p l.kind l.group (fun x => x.retire))
    if l.kind = .epoch && s.peat.epochOk && (recRead s.peat .epoch).isNone then raise (peatSet s (fun p => { p with epochOk := false })) fnPTS 1 0 0
    else s

/-- A record is written within the command that changes it, whose end waits for it. -/
def recNow (s : State) (k : PeatKind) : State :=
  let s := (List.range (peatGroups k)).foldl (fun s g => lineWorn s ⟨k, g, 0, []⟩) s
  peatSet s (fun p => recPut p k)

/-- A loss of supply: the writes that wait are gone, and whether the line that a bank was writing had been completed is open (DESIGN CHOICE); a
record's line that had not has no correct CRC, and its place in the snapshot ring is as before. -/
def peatCut (s : State) : State :=
  let s := s.peat.banks.foldl (fun s l =>
    let (b, s) := freshBelow s 2
    if b = 1 then { s with peat := lineStore (peatNext s l.kind) l }
    else if peatGroups l.kind = 0 then s
    else peatSet s (fun p => groupUpd p l.kind l.group (fun x => x.put false []))) s
  peatSet s (fun p => { p with queue := [], banks := [] })

/-- One system record is read at step 1 of Kindle (R421, R427): one whose copies all fail their CRC raises REC_CRC and reads as absent. -/
def recTake (s : State) (k : PeatKind) : State :=
  if !recHeld s.peat k then s
  else
    match recRead s.peat k with
    | some v => peatSet s (fun p => recLoad p k v)
    | none => raise (peatSet s (fun p => recAbsent p k)) fnPTS 1 0 0

/-- The system records are read. -/
def recsTake (s : State) : State := recKinds.foldl recTake s

/-- The failed map of the riddle engine is posted where it has changed (R169). -/
def mapPost (s : State) : State :=
  if s.rdl.dirty then
    peatWrite { s with rdl := { s.rdl with dirty := false }, rdlOld := { s.rdlOld with dirty := false } } [.failedMap] (fun p => { p with failed := s.rdl.failed })
  else s

end Sys2Proof.Machine
end

