-- ==== Sys2Proof/Machine/Adc.lean ====
section
/-!
DEFINITION. Converters, filter chains, plausibility and calibration (chapter Analogue converters and filter chain).
-/
namespace Sys2Proof.Machine

/-! ### Settings -/

/-- BAR0 offset of a register of chain i. -/
def fltA (i off : Nat) : Nat := 0x120100 + 0x20 * i + off

/-- CH_EN includes the chain. -/
def chainEn (s : State) (i : Nat) : Bool := hasSect (imgOf s) 0x0B && (pNat (imgOf s) 0x0B01).testBit i

/-- The converters and chains run in the mode (R41, R44). -/
def adcRuns (m : Mode) : Bool := m = .md2 || decide (4 ≤ m.code)

/-- The converters are clocked and at work: in a running mode, or powered up by a claim (R345), with the synthesiser locked, CK_ACQ enabled (R321) and ADC not held in a
function reset (R38). -/
def adcOn (s : State) : Bool :=
  (adcRuns s.sys.mode || s.red.pwr) && s.clk.state = 2 && bit (regGet s 0x1010C) 31 && !s.frst.inReset.testBit fnADC

/-- STAGES of a settings word. -/
def cfgStages (w : Word) : Nat := field w 19 17

/-- Kernel code of stage k, from 0 (R275). -/
def cfgKern (w : Word) (k : Nat) : Nat := field w 9 0 / 4 ^ k % 4

/-- Coefficients of a kernel, over 2 to the power that follows (R275). -/
def kernel : Nat → List Int × Nat
  | 1 => ([-1, 0, 9, 16, 9, 0, -1], 5)
  | 2 => ([3, 0, -25, 0, 150, 256, 150, 0, -25, 0, 3], 9)
  | _ => ([1, 2, 1], 2)

/-- H of R284: the span of the half-band stages in input samples. -/
def spanH (w : Word) : Nat := (List.range (cfgStages w)).foldl (fun a k => a + ((kernel (cfgKern w k)).1.length - 1) * 2 ^ k) 0

/-- Outputs that the half-band stages need: with the settling of a channel change, or without it. -/
def hbCount (channel : Bool) (w : Word) : Nat := 1 + (spanH w + (if channel then 2 else 0)) / 2 ^ cfgStages w

/-- SH and DB of R284 together. -/
def extraCount (w : Word) : Nat := (if bit w 20 then 63 else 0) + b2n (bit w 21)

/-- The channel count, or the restart count, of R284. -/
def invCount (channel : Bool) (w : Word) : Nat := hbCount channel w + extraCount w

/-- N_inv of a change of settings (R284, R285). -/
def changeCount (o w : Word) : Nat :=
  let diff := fun hi lo => decide (field o hi lo ≠ field w hi lo)
  let a := if diff 16 13 then invCount true w else if diff 19 17 || diff 9 0 then invCount false w else 0
  let b := if diff 20 20 then (if bit w 20 then 64 else 1) else 0
  let c := if diff 21 21 || diff 28 24 then 1 else 0
  max a (max b c)

/-! ### Restarts and counts (R284, R285) -/

/-- The invalid count becomes at least n, with INVALID where it starts. -/
def startInv (s : State) (i n : Nat) : State :=
  if n = 0 then s
  else
    let was := (chainOf s i).inv
    let s := updChain s i (fun c => { c with inv := max c.inv n })
    if was = 0 then raise s fnFLT 2 i 0 else s


/-- The running fade of a chain ends with its new bank alone in force. -/
def fadeStop (c : Chain) : Chain :=
  if c.fade.isSome then { c with fade := none, want := c.held, held := none } else c

/-- STATUS and CHAIN of FLT_WR_RES. -/
def wrRes (s : State) (i st : Nat) : State := { s with adc := { s.adc with wrRes := st, wrCh := i } }

/-- A refused write or request (R278, R291). -/
def wrRefuse (s : State) (i st : Nat) : State := raise (wrRes s i st) fnFLT 4 i 0

/-- A swap request takes effect (R277, R278). -/
def swapTake (s : State) (i : Nat) (b : Bool) (fade : Nat) : State :=
  let c := chainOf s i
  if c.bank = b then wrRes s i 7
  else
    let on := bit c.cfg 20
    let s := raise (wrRes s i 1) fnFLT 3 i 0
    let s := updChain s i (fun c => { c with bank := b, fade := if on && fade ≠ 0 then some (fade, 0) else none })
    if on && fade = 0 then startInv s i 1 else s

/-- A waiting swap request is taken at this output boundary. -/
def swapDue (s : State) (i : Nat) : State :=
  match (chainOf s i).want with
  | some (b, f) => swapTake (updChain s i (fun c => { c with want := none })) i b f
  | none => s

/-- A chain takes its registers' settings and restarts as asked: 0 not, 1 restart count, 2 channel count. A shaping stage that restarts or is
disabled ends its fade; one that is disabled swaps at once (R278). -/
def chainTake (s : State) (i restart : Nat) : State :=
  let w := regGet s (fltA i 0)
  let o := (chainOf s i).cfg
  let hb := if restart = 2 || field o 16 13 ≠ field w 16 13 then hbCount true w
    else if restart = 1 || field o 19 17 ≠ field w 19 17 || field o 9 0 ≠ field w 9 0 then hbCount false w
    else 0
  let n := max (if restart = 2 then invCount true w else if restart = 1 then invCount false w else 0) (changeCount o w)
  let shOn := hb ≠ 0 || (bit w 20 && !bit o 20)
  let dbOn := hb ≠ 0 || (bit w 21 && !bit o 21)
  let shOff := bit o 20 && !bit w 20
  let s := updChain s i (fun c =>
    let c := if shOn || shOff then fadeStop c else c
    { c with cfg := w, due := 0, mism := false, hbInv := max c.hbInv hb, dOn := if dbOn then false else c.dOn })
  startInv (if shOff then swapDue s i else s) i n

/-- Every chain restarts at once with the channel count: the converters start (R270, R284). -/
def adcStart (s : State) : State := (List.range 32).foldl (fun s i => if chainEn s i then chainTake s i 2 else s) s

/-! ### One output of a chain (R273 to R281) -/

/-- A 32-bit two's-complement value. -/
def sat32 (x : Int) : Int := clampInt (-2147483648) 2147483647 x

/-- Sum of products of coefficients and a delay line. -/
def dot : List Int → List Int → Int
  | c :: cs, x :: xs => c * x + dot cs xs
  | _, _ => 0

/-- One half-band stage over its new samples, oldest first: its delay line, newest first, and its outputs (R275). -/
def halfStage (cs : List Int) (sh : Nat) : List Int → List Int → List Int × List Int
  | line, x1 :: x2 :: xs =>
    let line := (x2 :: x1 :: line).take cs.length
    let (l, ys) := halfStage cs sh line xs
    (l, sat32 (roundShift (dot cs line) sh) :: ys)
  | line, _ => (line, [])

/-- The half-band stages of a chain. -/
def halfBand (w : Word) : Nat → Nat → List (List Int) → List Int → List (List Int) × List Int
  | 0, _, lines, xs => (lines, xs)
  | n + 1, k, lines, xs =>
    let (cs, sh) := kernel (cfgKern w k)
    let (l, ys) := halfStage cs sh (nth [] lines k) xs
    halfBand w n (k + 1) (setNth lines k l) ys

/-- Tap t of a bank (R277), Q1.31. -/
def shCoef (s : State) (i : Nat) (b : Bool) (t : Nat) : Int :=
  toSigned 32 (regGet s (0x122000 + 0x200 * i + 0x100 * b2n b + 4 * t)).toNat

/-- Exponent of a bank. -/
def shExp (s : State) (i : Nat) (b : Bool) : Int := toSigned 8 (regF s (0x121000 + 8 * i + 4 * b2n b) 7 0)

/-- The shaping stage's output for one bank over its delay line, newest first. -/
def shape (s : State) (i : Nat) (b : Bool) (line : List Int) : Int :=
  let y := dot ((List.range 64).map (shCoef s i b)) line
  sat32 (alignBy y (shExp s i b - 31))

/-- z and K of a chain at a gain code. -/
def calCoef (s : State) (i g : Nat) : Int × Int := nth (0, 0) s.adc.coef (4 * i + g)

/-- The cross-fade of a chain finishes: the new bank alone is in force (R277). -/
def fadeEnd (s : State) (i : Nat) : State := updChain s i fadeStop

/-- A plausibility action holds the chain invalid (R288). -/
def plsHolds (s : State) (i : Nat) : Bool := (nth ⟨0, 0, 0, 0, false, false, false⟩ s.adc.pls (i / 16)).act

/-- A calibration command for chain i ends; its event names that chain (R289, R290, R294). -/
def calEnd (s : State) (i cmd st : Nat) : State :=
  let s := { s with adc := { s.adc with cal := { s.adc.cal with cmd := cmd, stat := st, seq := (s.adc.cal.seq + 1) % 16, fresh := true } } }
  raise s fnADC 5 i 0

/-- A measurement ends DONE, NOISY or INVALID (R289). -/
def measEnd (s : State) : State :=
  match s.adc.cal.meas, s.adc.cal.chain with
  | some m, some i =>
    let mean := sat32 (roundDiv m.sum (max 1 m.n))
    let bad := !s.adc.refRdy || plsHolds s i
    let noisy := decide (m.hi - m.lo > pInt (imgOf s) 0x0B1C * 65536)
    let st := if bad then 8 else if noisy then 3 else 2
    let res := if st = 2 then some mean else none
    let c := s.adc.cal
    let s := { s with adc := { s.adc with cal :=
      { c with meas := none, mean := mean, spread := satNat 16 (roundDiv (m.hi - m.lo) 65536).toNat
               zero := if m.full then c.zero else res, full := if m.full then res else c.full } } }
    calEnd s i (if m.full then 2 else 1) st
  | _, _ => s

/-- One half-band output enters a running measurement of its chain. -/
def measTake (s : State) (i : Nat) (x : Int) : State :=
  match s.adc.cal.meas with
  | some m =>
    if s.adc.cal.chain ≠ some i then s
    else if m.skip > 0 then { s with adc := { s.adc with cal := { s.adc.cal with meas := some { m with skip := m.skip - 1 } } } }
    else
      let m := { m with n := m.n + 1, sum := m.sum + x, lo := if m.n = 0 then x else min m.lo x, hi := if m.n = 0 then x else max m.hi x }
      let s := { s with adc := { s.adc with cal := { s.adc.cal with meas := some m } } }
      if m.n ≥ pNat (imgOf s) 0x0B1B then measEnd s else s
  | none => s

/-- The DC-block stage (R276): its output, and its state after it. -/
def dcBlock (c : Chain) (x : Int) : Int × Chain :=
  if !bit c.cfg 21 then (x, c)
  else
    let c := if !c.dOn && c.hbInv = 0 then { c with d := x, dOn := true } else c
    let frz := bit c.cfg 22 || (bit c.cfg 23 && (c.win || decide (c.hold > 0)))
    (sat32 (x - c.d), if frz || !c.dOn then c else { c with d := sat32 (c.d + roundDiv (x - c.d) (2 ^ field c.cfg 28 24)) })

/-- The shaping stage (R277): its output, and the fade after it. -/
def shapeOut (s : State) (i : Nat) (c : Chain) (x : Int) : Int × Chain :=
  if !bit c.cfg 20 then (x, { c with line := (x :: c.line).take 64 })
  else
    let line := (x :: c.line).take 64
    let c := { c with line := line }
    match c.fade with
    | some (f, j) =>
      let j := j + 1
      let y := roundDiv (((f : Int) - j) * shape s i (!c.bank) line + j * shape s i c.bank line) (max 1 f)
      (sat32 y, { c with fade := some (f, j) })
    | none => (shape s i c.bank line, c)

/-- WIN after a value (R281). -/
def winNext (s : State) (i : Nat) (was : Bool) (v : Int) : Bool :=
  let hi := toSigned 24 (regF s (fltA i 0x10) 23 0)
  let lo := toSigned 24 (regF s (fltA i 0x14) 23 0)
  let hy : Int := regF s (fltA i 0x18) 23 0
  if v > hi || v < lo then true else if lo + hy ≤ v && v ≤ hi - hy then false else was

/-- The codes of an output in which the code of one frame repeats the one before it (R287); `last` came before them all. -/
def repeatCode (last : BitVec 16) : Nat → List (BitVec 16) → List (BitVec 16)
  | _, [] => []
  | 0, _ :: l => last :: l
  | n + 1, c :: l => c :: repeatCode c n l

/-- What a chain's output raises and counts beside its word, against the chain before it; a request that was due is then taken. -/
def chainEvents (s : State) (i : Nat) (old : Chain) (ovr full win : Bool) : State :=
  let s := if ovr then regInc s (0x120C00 + 4 * i) 31 0 else s
  let s := if ovr && !old.ovr then raise s fnFLT 1 i 0 else s
  let s := if full && !old.full then raise s fnADC 4 i 0 else s
  let s := if win && !old.win then raise s fnFLT 0 i 0 else s
  let s := if !s.adc.refRdy && !s.adc.refWait then raise { s with adc := { s.adc with refWait := true } } fnADC 0 0 0 else s
  chainTake s i (chainOf s i).due

/-- A chain produces one output from the converter codes since its last (R273 to R281). -/
def chainOutput (s : State) (i : Nat) (raw : List (BitVec 16)) : State :=
  let s := swapDue s i
  let c := chainOf s i
  let codes := match c.rep with
    | some n => repeatCode c.last n raw
    | none => raw
  let (lines, ys) := halfBand c.cfg (cfgStages c.cfg) 0 c.lines (codes.map (fun k => toSigned 16 k.toNat * 65536))
  let x := ys.getLastD 0
  let s := measTake (updChain s i (fun c => { c with lines := lines })) i x
  let (z, k) := calCoef s i (field c.cfg 16 15)
  let x1 := sat32 (roundShift ((x - z) * k) 30)
  let (x2, c2) := dcBlock (chainOf s i) x1
  let (x3, c3) := shapeOut s i c2 x2
  let scaled := roundShift (x3 * (match paramRec (imgOf s) 0x0B06 i with | some p => bfpMant p | none => 0)) 39
  let v := clampInt (-8388608) 8388607 scaled
  let full := codes.any (fun k => k = 0x7FFF || k = 0x8000)
  let ovr := full || decide (v ≠ scaled)
  let win := winNext s i c.win v
  let calOn := decide (s.adc.cal.chain = some i)
  let valid := s.adc.refRdy && !s.adc.refFault && c3.inv = 0 && !calOn && !plsHolds s i && !c3.mism
  let word : Word := at_ (ofSigned 24 v) 8 ||| flagAt valid 7 ||| flagAt win 6 ||| flagAt ovr 5 ||| flagAt calOn 4 ||| at_ ((c3.seq + 1) % 16) 0
  let hold := if c.win && !win then pNatAt (imgOf s) 0x0B0A i else c3.hold - b2n (!win)
  let s := updChain s i (fun _ =>
    { c3 with seq := (c3.seq + 1) % 16, word := word, win := win, hold := hold, ovr := ovr, full := full, inv := c3.inv - 1
              hbInv := c3.hbInv - 1, fresh := c3.fresh || valid, good := if valid then word else c3.good
              freshWas := c3.fresh, goodWas := c3.good, last := codes.getLastD c3.last, rep := none })
  let s := match c3.fade with
    | some (f, j) => if j ≥ f then fadeEnd s i else s
    | none => s
  chainEvents s i c ovr full win

/-- CHAIN_OUTPUT: the converter codes since the chain's last output, oldest first. -/
def execChainOutput (chain : Fin 32) (codes : List (BitVec 16)) (s : State) : Host.Outcome State Fault Refusal :=
  let s := begin s
  .next (if adcOn s && !s.frst.inReset.testBit fnFLT && chainEn s chain then chainOutput s chain codes else s)

/-- DCB_HOLD_END: the automatic freeze held after the window ends (R276). -/
def execDcbHoldEnd (chain : Fin 32) (s : State) : Host.Outcome State Fault Refusal :=
  .next (updChain (begin s) chain (fun c => { c with hold := 0 }))

/-- SH_FADE_END (R277). -/
def execShFadeEnd (chain : Fin 32) (s : State) : Host.Outcome State Fault Refusal := .next (fadeEnd (begin s) chain)

/-- INVALID_COUNT_END (R284). -/
def execInvalidCountEnd (chain : Fin 32) (s : State) : Host.Outcome State Fault Refusal :=
  .next (updChain (begin s) chain (fun c => { c with inv := 0, hbInv := 0 }))

/-- CHAIN_MISMATCH: the output just formed is not valid, and the chain restarts; an output before it that no read has latched still waits
(R274, R286). -/
def execChainMismatch (chain : Fin 32) (s : State) : Host.Outcome State Fault Refusal :=
  let s := begin s
  let s := updChain s chain (fun c => { c with mism := true, due := max c.due 1, word := c.word &&& ~~~0x80, fresh := c.freshWas, good := c.goodWas })
  .next (raise s fnFLT 5 chain 0)

/-! ### The reference (R271, R272) -/

/-- REF_READY: 5 ms since the buffer was enabled. -/
def execRefReady (s : State) : Host.Outcome State Fault Refusal :=
  let s := begin s
  .next (if bit (regGet s 0x110010) 0 && !s.adc.refRdy && s.sys.mode ≠ .md0 then
    adcRestart { s with adc := { s.adc with refRdy := true, refWait := false } }
  else s)

/-- REF_FAULT: the buffered reference is outside its window. -/
def execRefFault (s : State) : Host.Outcome State Fault Refusal :=
  let s := begin s
  .next (if s.adc.refFault then s else raise { s with adc := { s.adc with refFault := true } } fnADC 1 0 0)

/-- REF_RECOVER: back inside the window for 1 ms. -/
def execRefRecover (s : State) : Host.Outcome State Fault Refusal :=
  let s := begin s
  .next (if s.adc.refFault then adcRestart { s with adc := { s.adc with refFault := false } } else s)

/-- REF_BUFFER_WRITE: a write of ADC_REF_CTL. -/
def execRefBufferWrite (pf : Pf) (v : Word) (s : State) : Host.Outcome State Fault Refusal :=
  .next (hostPf0 (begin s) pf 0x110010 (fun s =>
    let on := bit v 0
    let may := match s.sys.mode with
      | .md2 | .md10 | .md11 => true
      | _ => false
    if !on && !may then accessErr s pf 0x110010 4
    else
      let was := bit (regGet s 0x110010) 0
      let s := regSet s 0x110010 (v &&& 1)
      if on = was then s else { s with adc := { s.adc with refRdy := false, refWait := false } }))

/-! ### Plausibility (R287, R288) -/

/-- Pair p. -/
def plsOf (s : State) (p : Nat) : Pls := nth ⟨0, 0, 0, 0, false, false, false⟩ s.adc.pls p

/-- Pair p changed. -/
def updPls (s : State) (p : Nat) (f : Pls → Pls) : State := { s with adc := { s.adc with pls := updNth s.adc.pls p f } }

/-- A plausibility fault of a pair. -/
def plsFault (s : State) (p : Nat) (exp : Bool) : State :=
  let act := decide (pNatAt (imgOf s) 0x0B18 p = 1)
  let s := updPls s p (fun x => { x with fail := true, exp := x.exp || exp, act := act })
  let s := raise s fnADC 2 p 0
  let s := if exp then raise s fnADC 3 p 0 else s
  if p = 0 then regInc s 0x110024 15 0 else regInc s 0x110024 31 16

/-- A plausibility fault clears, and the pair's 16 chains restart. -/
def plsClear (s : State) (p : Nat) : State :=
  let s := updPls s p (fun x => { x with fail := false, exp := false, act := false })
  chainsRestart s ((List.range 16).map (16 * p + ·)) 2

/-- Which code of its output a chain of settings w takes in frame f, one of the 32 frames that end with the newest hold at or before the one
350 ns before a multiple of 10 µs (R282, R283). -/
def framePlace (w : Word) (f : Nat) : Nat := (f + cfgStages w / 2 + b2n (bit w 20)) % 2 ^ cfgStages w

/-- The two chains of PLS_SLOT give a frame to the PLS input of pair p, and repeat their previous code in it (R287). -/
def plsFrame (s : State) (p f : Nat) : State :=
  let slot := pNatAt (imgOf s) 0x0B15 p
  [16 * p + slot, 16 * p + 8 + slot].foldl (fun s i => updChain s i (fun c => { c with rep := some (framePlace c.cfg f) })) s

/-- One check of a pair. -/
def plsCheck (s : State) (p : Nat) (c0 c1 : BitVec 16) : State :=
  let img := imgOf s
  let a := toSigned 16 c0.toNat
  let b := toSigned 16 c1.toNat
  let tol := pNatAt img 0x0B1A p
  let e := pIntAt img 0x0B19 p
  let exp := tol ≠ 0 && (decide ((a - e).natAbs > tol) || decide ((b - e).natAbs > tol))
  let bad := exp || decide ((a - b).natAbs > pNatAt img 0x0B16 p)
  let n := pNatAt img 0x0B17 p
  let s := updPls s p (fun x =>
    { x with c0 := c0.toNat, c1 := c1.toNat, fails := if bad then min n (x.fails + 1) else 0, oks := if bad then 0 else min n (x.oks + 1)
             exp := x.exp || exp })
  let x := plsOf s p
  if bad && x.fails ≥ n && !x.fail then plsFault s p exp
  else if !bad && x.oks ≥ n then (if x.fail then plsClear s p else updPls s p (fun x => { x with exp := false }))
  else s

/-- PLS_CHECK: the codes of one plausibility frame, from the first and the second converter of the pair, and its place among 32 frames. -/
def execPlsCheck (pair : Fin 2) (codes : BitVec 16 × BitVec 16) (frame : Fin 32) (s : State) : Host.Outcome State Fault Refusal :=
  let s := begin s
  .next (if adcOn s && hasSect (imgOf s) 0x0B && pNatAt (imgOf s) 0x0B14 pair ≠ 0 then plsCheck (plsFrame s pair frame) pair codes.1 codes.2 else s)

/-- PLS_FAULT: the pair's failed checks have reached PLS_N. -/
def execPlsFault (pair : Fin 2) (exp : Bool) (s : State) : Host.Outcome State Fault Refusal :=
  let s := begin s
  .next (if (plsOf s pair).fail then s else plsFault s pair exp)

/-- PLS_CLEAR: the pair's passes have reached PLS_N. -/
def execPlsClear (pair : Fin 2) (s : State) : Host.Outcome State Fault Refusal :=
  let s := begin s
  .next (if (plsOf s pair).fail then plsClear s pair else s)

/-! ### Calibration (R289, R290) -/

/-- The modes in which a session is accepted. -/
def calMode (m : Mode) : Bool :=
  match m with
  | .md2 | .md10 | .md11 => true
  | _ => false

/-- A calibration command of PF0 is checked in the order key, mode, session; while a measurement runs only END acts. -/
def calCmd (s : State) (pf : Pf) (key : BitVec 16) (i cmd : Nat) (f : State → State) : State :=
  hostPf0 (begin s) pf 0x110100 (fun s =>
    if key ≠ 0x434C then calEnd s i cmd 5
    else if !calMode s.sys.mode then calEnd s i cmd 4
    else if s.adc.cal.chain.isSome ∧ s.adc.cal.chain ≠ some i then calEnd s i cmd 9
    else if s.adc.cal.meas.isSome ∧ cmd ≠ 4 then s
    else f s)

/-- The session of a chain is open. -/
def calOpen (s : State) (i : Nat) : State :=
  if s.adc.cal.chain = some i then s
  else { s with adc := { s.adc with cal := { s.adc.cal with chain := some i, zero := none, full := none, new := [] } } }

/-- ZERO or FULL starts its measurement. -/
def calMeas (s : State) (i : Nat) (full : Bool) : State :=
  let s := calOpen s i
  let m : CalMeas := ⟨full, invCount false (chainOf s i).cfg, 0, 0, 0, 0⟩
  { s with adc := { s.adc with cal := { s.adc.cal with meas := some m, stat := 1 } } }

/-- CAL_ZERO. -/
def execCalZero (pf : Pf) (key : BitVec 16) (chain : Fin 32) (s : State) : Host.Outcome State Fault Refusal :=
  .next (calCmd s pf key chain 1 (fun s => calMeas s chain false))

/-- CAL_FULL. -/
def execCalFull (pf : Pf) (key : BitVec 16) (chain : Fin 32) (s : State) : Host.Outcome State Fault Refusal :=
  .next (calCmd s pf key chain 2 (fun s => calMeas s chain true))

/-- CAL_MEAS_DONE: CAL_AVG outputs have been averaged. -/
def execCalMeasDone (s : State) : Host.Outcome State Fault Refusal := .next (measEnd (begin s))

/-- Gain factor of a gain code (R267). -/
def gainOf (g : Nat) : Nat := 2 ^ g

/-- K as the peat store and the registers hold it: z and K, 32 bits each. -/
def coefWord (z k : Int) : BitVec 64 := BitVec.ofNat 64 (ofSigned 32 z * 2 ^ 32 + ofSigned 32 k)

/-- COMMIT: the coefficients of the session, where both measurements are DONE and in range. -/
def calCommit (s : State) (i : Nat) : State :=
  let s := calOpen s i
  match s.adc.cal.zero, s.adc.cal.full with
  | some z, some f =>
    let g := field (chainOf s i).cfg 16 15
    let v := toSigned 32 (regGet s 0x110104).toNat
    let num : Int := v * (gainOf g : Int) * 2 ^ 31
    let den : Int := 10240000 * (f - z)
    let n : Int := if den < 0 then -num else num
    let d := den.natAbs
    if d = 0 || decide (10 * n < 9 * d) || decide (10 * n > 11 * d) || decide (100 * z.natAbs > 2 ^ 31) then calEnd s i 3 7
    else
      let k := roundDiv (n * 2 ^ 30) d
      let c := s.adc.cal
      let s := { s with adc := { s.adc with cal := { c with new := c.new ++ [(4 * i + g, z, k)], save := c.save ++ [(4 * i + g, some (coefWord z k))] } } }
      calEnd (peatWrite s [.calibration] (fun p => p)) i 3 2
  | _, _ => calEnd s i 3 6

/-- CAL_COMMIT. -/
def execCalCommit (pf : Pf) (key : BitVec 16) (chain : Fin 32) (s : State) : Host.Outcome State Fault Refusal :=
  .next (calCmd s pf key chain 3 (fun s => calCommit s chain))

/-- The session is over: what it committed comes into force, and the output that first uses it is marked (R284, R289). -/
def calLeave (s : State) : State :=
  let c := s.adc.cal
  let s := match c.chain with
    | some i => if c.new.any (fun x => x.1 = 4 * i + field (chainOf s i).cfg 16 15) then startInv s i 1 else s
    | none => s
  { s with adc := { s.adc with
    coef := c.new.foldl (fun t x => setNth t x.1 x.2) s.adc.coef
    cal := { c with chain := none, meas := none, zero := none, full := none, new := [] } } }

/-- END closes the session; what it committed comes into force and the chain restarts. -/
def calClose (s : State) (i : Nat) : State :=
  let opened := decide (s.adc.cal.chain = some i)
  let s := calLeave (calEnd s i 4 2)
  if opened then chainsRestart s [i] 2 else s

/-- CAL_END. -/
def execCalEnd (pf : Pf) (key : BitVec 16) (chain : Fin 32) (s : State) : Host.Outcome State Fault Refusal :=
  .next (calCmd s pf key chain 4 (fun s => calClose s chain))

/-- DEFAULT: the factory values for the chain's present gain. -/
def calDefault (s : State) (i : Nat) : State :=
  let s := calOpen s i
  let g := field (chainOf s i).cfg 16 15
  let c := s.adc.cal
  let s := { s with adc := { s.adc with cal :=
    { c with new := c.new ++ [(4 * i + g, 0, Config.factoryGain i g)], save := c.save ++ [(4 * i + g, none)] } } }
  calEnd (peatWrite s [.calibration] (fun p => p)) i 5 2

/-- CAL_DEFAULT. -/
def execCalDefault (pf : Pf) (key : BitVec 16) (chain : Fin 32) (s : State) : Host.Outcome State Fault Refusal :=
  .next (calCmd s pf key chain 5 (fun s => calDefault s chain))

/-- ADC_CAL_STAT as it reads. -/
def calStatWord (s : State) (fresh : Bool) : Word :=
  at_ s.adc.cal.latCmd 12 ||| flagAt fresh 8 ||| at_ s.adc.cal.latSeq 4 ||| at_ s.adc.cal.stat 0

/-- CAL_STAT_READ: the first read after a command has ended latches its measurement (R290). -/
def execCalStatRead (pf : Pf) (s : State) : Host.Outcome State Fault Refusal :=
  .next (hostRead (begin s) pf fnADC (fun s =>
    let c := s.adc.cal
    if c.fresh && c.stat ≠ 1 then
      let s := { s with adc := { s.adc with cal :=
        { c with fresh := false, latCmd := c.cmd, latSeq := c.seq, latMean := c.mean, latSpread := c.spread } } }
      { s with rdata := calStatWord s true }
    else { s with rdata := calStatWord s false }))

/-- The coefficients that the peat store holds, or the factory's, for every chain and gain (R289). -/
def calLoad (s : State) : State :=
  { s with adc := { s.adc with coef := (List.range 128).map (fun k =>
      match (s.peat.calib.find? (fun e => e.1 = k)).map (·.2) with
      | some w => (toSigned 32 (w.toNat / 2 ^ 32), toSigned 32 (w.toNat % 2 ^ 32))
      | none => (0, Config.factoryGain (k / 4) (k % 4))) } }

/-! ### Settings at run time (R278, R291) -/

/-- The modes in which the chain's settings are accepted. -/
def fltMode (m : Mode) : Bool := m = .md2 || m = .md11

/-- A settings word breaks R291. -/
def cfgBad (w : Word) : Bool :=
  (List.range 5).any (fun k => cfgKern w k = 3) || decide (cfgStages w > 5) || field w 16 15 = 3
    || decide (field w 28 24 < 8) || decide (field w 28 24 > 24)

/-- A write of FLT_CH_CFG_i: DCB_FRZ in every mode from MD_2 upward, the other fields in MD_2 and MD_11; a word that breaks R291 has no effect
on any of them. -/
def chCfg (s : State) (i : Nat) (v : Word) : State :=
  let a := fltA i 0
  let w := v &&& 0x1FFFE3FF
  let o := regGet s a
  let m := s.sys.mode
  if m.code < 2 then wrRefuse s i 2
  else if cfgBad w then wrRefuse s i 5
  else if fltMode m then wrRes (regSet s a w) i 1
  else
    let s := regSet s a (mergeMask o w 0x400000)
    if (o ||| 0x400000) = (w ||| 0x400000) then wrRes s i 1 else wrRefuse s i 2

/-- CH_CFG_WRITE. -/
def execChCfgWrite (pf : Pf) (chain : Fin 32) (v : Word) (s : State) : Host.Outcome State Fault Refusal :=
  .next (hostPf0 (begin s) pf (fltA chain 0) (fun s => chCfg s chain v))

/-- Writes that R278 decides: REF_FADE, REF_ACTIVE, else stored. -/
def bankWrite (s : State) (i : Nat) (b : Bool) (a : Nat) (v : Word) : State :=
  let c := chainOf s i
  if s.sys.mode.code < 2 then wrRefuse s i 2
  else if c.fade.isSome then wrRefuse s i 4
  else if bit c.cfg 20 && c.bank = b then wrRefuse s i 3
  else wrRes (regSet s a v) i 1

/-- SH_BANK_WRITE: tap 0 to 63, or 64 for the bank exponent. -/
def execShBankWrite (pf : Pf) (chain : Fin 32) (bank : Bool) (tap : Fin 65) (v : Word) (s : State) : Host.Outcome State Fault Refusal :=
  let a := if tap.val = 64 then 0x121000 + 8 * chain.val + 4 * b2n bank else 0x122000 + 0x200 * chain.val + 0x100 * b2n bank + 4 * tap.val
  .next (hostPf0 (begin s) pf a (fun s => bankWrite s chain bank a (if tap.val = 64 then v &&& 0xFF else v)))

/-- A swap request (R278). -/
def swapRequest (s : State) (i : Nat) (v : Word) : State :=
  let b := bit v 12
  let f := field v 8 0
  let c := chainOf s i
  if !bit v 15 then s
  else if s.sys.mode.code < 2 then wrRefuse s i 2
  else if 256 < f then wrRefuse s i 5
  else if c.fade.isSome then
    let s := if c.held.isSome then wrRes s i 6 else s
    updChain s i (fun c => { c with held := some (b, f) })
  else
    let s := if c.want.isSome then wrRes s i 6 else s
    if bit c.cfg 20 then updChain s i (fun c => { c with want := some (b, f) })
    else swapTake (updChain s i (fun c => { c with want := none })) i b 0

/-- SH_SWAP_REQUEST: a write of FLT_SH_CTL_i. -/
def execShSwapRequest (pf : Pf) (chain : Fin 32) (v : Word) (s : State) : Host.Outcome State Fault Refusal :=
  .next (hostPf0 (begin s) pf (fltA chain 0x1C) (fun s => swapRequest s chain v))

/-- FLT_RES_STAT_i as it reads. -/
def resStatWord (c : Chain) (fresh : Bool) : Word := flagAt (bit c.word 7) 9 ||| flagAt fresh 8 ||| at_ (field c.lat 3 0) 0

/-- FLT_RES_STAT_READ: the first read after a new valid output latches it (R286). -/
def execFltResStatRead (pf : Pf) (chain : Fin 32) (s : State) : Host.Outcome State Fault Refusal :=
  .next (hostRead (begin s) pf fnFLT (fun s =>
    let fresh := (chainOf s chain).fresh
    let s := if fresh then updChain s chain (fun c => { c with fresh := false, freshWas := false, lat := c.good }) else s
    { s with rdata := resStatWord (chainOf s chain) fresh }))

/-! ### Load of the MEAS section (R291) -/

/-- FLT_CH_CFG_i as the image sets it. -/
def imgCfg (img : Image) (i : Nat) : Word :=
  at_ (pNatAt img 0x0B08 i) 24 ||| at_ (pNatAt img 0x0B09 i) 23 ||| at_ (pNatAt img 0x0B07 i) 21 ||| at_ (pNatAt img 0x0B0B i) 20
    ||| at_ (pNatAt img 0x0B04 i) 17 ||| at_ (pNatAt img 0x0B03 i) 15 ||| at_ (pNatAt img 0x0B02 i) 13 ||| at_ (pNatAt img 0x0B05 i) 0

/-- ADC_TRG as the image sets it. -/
def imgTrg (img : Image) : Word := at_ (pNat img 0x0B11) 31 ||| at_ (pNat img 0x0B12) 21 ||| at_ (pNat img 0x0B13) 0

/-- The bank that the image puts in force, which ends a fade and any request; another bank than before marks one output (R284). -/
def fltLoadBank (img : Image) (s : State) (i : Nat) : State :=
  let b := decide (pNatAt img 0x0B0C i = 1)
  let swaps := bit (chainOf s i).cfg 20 && (chainOf s i).bank ≠ b
  let s := updChain s i (fun c => { c with bank := b, fade := none, want := none, held := none })
  if swaps then startInv s i 1 else s

/-- One chain's registers from the image. -/
def fltLoadChain (img : Image) (s : State) (i : Nat) : State :=
  let s := regSet s (fltA i 0) (imgCfg img i)
  let s := regSet s (fltA i 0x10) (at_ (ofSigned 24 (pIntAt img 0x0B0E i)) 0)
  let s := regSet s (fltA i 0x14) (at_ (ofSigned 24 (pIntAt img 0x0B0F i)) 0)
  let s := regSet s (fltA i 0x18) (at_ (pNatAt img 0x0B10 i) 0)
  fltLoadBank img s i

/-- One record of the shaping banks. -/
def fltLoadTap (s : State) (p : ParamRec) : State :=
  let i := p.index / 128
  let b := p.index / 64 % 2
  let s := regSet s (0x122000 + 0x200 * i + 0x100 * b + 4 * (p.index % 64)) (at_ (p.value.toNat % 2 ^ 32) 0)
  regSet s (0x121000 + 8 * i + 4 * b) (at_ (ofSigned 8 p.exp) 0)

/-- The MEAS section sets every chain (R291). -/
def fltLoad (s : State) : State :=
  let img := imgOf s
  if !hasSect img 0x0B then s
  else
    let s := { s with regs := s.regs.filter (fun e => !(decide (0x121000 ≤ e.1) && decide (e.1 < 0x126000))) }
    let s := (img.params.filter (fun p => p.pid = 0x0B0D)).foldl fltLoadTap s
    regSet ((List.range 32).foldl (fltLoadChain img) s) 0x110018 (imgTrg img)

/-- The chains that the image in force enables and the one before did not restart with the channel count. -/
def chainsNew (s : State) (old : Image) : State :=
  (List.range 32).foldl (fun s i =>
    if chainEn s i && !(hasSect old 0x0B && (pNat old 0x0B01).testBit i) then chainTake s i 2 else s) s

/-! ### Function resets (R40) -/

/-- Reset of ADC: the converters and the checks restart and every output is invalid; an established fault stays, and what a calibration
session has committed is kept (R289). -/
def adcReset (s : State) : State :=
  let s := calLeave s
  let s := { s with adc := { s.adc with
    pls := s.adc.pls.map (fun x => { x with fails := 0, oks := 0 })
    chains := s.adc.chains.map (fun c => { c with word := c.word &&& ~~~0x80, rep := none })
    cal := { Cal.reset with save := s.adc.cal.save } } }
  adcStart (if hasSect (imgOf s) 0x0B then regSet s 0x110018 (imgTrg (imgOf s)) else s)

/-- Reset of FLT: the filter state is cleared, settings, banks, a held swap request and the last valid results are kept, and the
chains restart (R40, R278, R286). -/
def fltReset (s : State) : State :=
  let clear := fun (c : Chain) =>
    let c := fadeStop c
    { c with lines := List.replicate 5 [], d := 0, dOn := false, line := [], hold := 0
             win := false, word := c.word &&& ~~~0x80, last := 0, rep := none }
  let s := { s with adc := { s.adc with chains := s.adc.chains.map clear, wrRes := 0, wrCh := 0 } }
  (List.range 32).foldl (fun s i => if chainEn s i then chainTake s i 1 else s) s

end Sys2Proof.Machine
end

