-- ==== Sys2Proof/Machine/Digest.lean ====
section
/-!
DEFINITION. The two digests this manual uses, CRC-32C (R69) and SHA-384 (R68, R395), and the identity record that the first one seals (R430).
-/
namespace Sys2Proof.Machine

/-! ### CRC-32C (R69): polynomial 0x1EDC6F41 in its reflected form, initial value and final inversion all ones -/

/-- One bit of the division. -/
def crcBit (c : BitVec 32) : BitVec 32 := if c.getLsbD 0 then (c >>> 1) ^^^ 0x82F63B78 else c >>> 1

/-- n bits of the division. -/
def crcBits : Nat → BitVec 32 → BitVec 32
  | 0, c => c
  | n + 1, c => crcBits n (crcBit c)

/-- The register after the bytes of a string. -/
def crcRun : BitVec 32 → List Byte → BitVec 32
  | c, [] => c
  | c, b :: bs => crcRun (crcBits 8 (c ^^^ b.setWidth 32)) bs

/-- CRC-32C of a byte string. -/
def crc32c (bs : List Byte) : Nat := (~~~ crcRun 0xFFFFFFFF bs).toNat

/-! ### The identity record (R430) -/

/-- Stepping of this module, B1 (R1, R68, R430). -/
abbrev ownStep : Nat := 0x21

/-- Part number of this module (R430). -/
abbrev ownPart : Nat := 0x00090040

/-- The bytes from offset off on that the factory wrote for this module alone. -/
def factory (off n : Nat) : List Byte := (List.range n).map (fun k => Config.factoryByte (off + k))

/-- Bytes 0x000 to 0x1FB of the record; its P-384 key stands in SEC1 uncompressed form. -/
def identityBody : List Byte :=
  leBytes 4 ownPart ++ leBytes 1 ownStep ++ zeros 3 ++ factory 0x008 16 ++ factory 0x018 6 ++ zeros 2 ++ factory 0x020 8 ++ zeros 24
    ++ [4] ++ factory 0x041 96 ++ zeros 31 ++ factory 0x0C0 56 ++ factory 0x0F8 56 ++ zeros 204

/-- The identity record, 512 bytes with its CRC. -/
def identity : List Byte := identityBody ++ leBytes 4 (crc32c identityBody)

/-! ### SHA-384: its constants are leading bits of the roots of primes -/

/-- No number from 2 up to n divides p. -/
def noDivisor (p : Nat) : Nat → Bool
  | 0 | 1 => true
  | n + 2 => p % (n + 2) ≠ 0 && noDivisor p (n + 1)

/-- The primes below 410: there are eighty of them. -/
def primes : List Nat := (List.range 410).filter (fun p => decide (2 ≤ p) && noDivisor p (min (p - 1) 20))

/-- The largest number whose e-th power is at most x, found bit by bit from bit n − 1 down on top of r. -/
def rootFrom (e x : Nat) : Nat → Nat → Nat
  | 0, r => r
  | n + 1, r => rootFrom e x n (if (r + 2 ^ n) ^ e ≤ x then r + 2 ^ n else r)

/-- The first 64 bits after the point of the e-th root of p. -/
def rootBits (e p : Nat) : BitVec 64 := BitVec.ofNat 64 (rootFrom e (p * 2 ^ (64 * e)) 70 0)

/-- The XOR of a word turned right by p and by q, and a third word. -/
def sigma (x : BitVec 64) (p q : Nat) (third : BitVec 64) : BitVec 64 := x.rotateRight p ^^^ x.rotateRight q ^^^ third

/-- The schedule of a block, grown by n words; the newest word stands first. -/
def shaExpand : Nat → List (BitVec 64) → List (BitVec 64)
  | 0, w => w
  | n + 1, w =>
    let at_ := fun back => nth 0 w (back - 1)
    let old := sigma (at_ 15) 1 8 (at_ 15 >>> 7)
    let new := sigma (at_ 2) 19 61 (at_ 2 >>> 6)
    shaExpand n ((at_ 16 + old + at_ 7 + new) :: w)

/-- One round on the chain of eight words, with the sum of its schedule word and its constant. -/
def shaRound (v : List (BitVec 64)) (wk : BitVec 64) : List (BitVec 64) :=
  match v with
  | [a, b, c, d, e, f, g, h] =>
    let mix := h + wk + sigma e 14 18 (e.rotateRight 41) + (g ^^^ (e &&& (f ^^^ g)))
    let top := sigma a 28 34 (a.rotateRight 39) + ((a &&& b) ||| (c &&& (a ||| b)))
    [mix + top, a, b, c, d + mix, e, f, g]
  | _ => v

/-- The chain after one block of 128 bytes, under the round constants ks. -/
def shaBlock (ks v : List (BitVec 64)) (blk : List Byte) : List (BitVec 64) :=
  let first := (List.range 16).map (fun k => BitVec.ofNat 64 (beNat (sliceBytes blk (8 * k) 8)))
  let sums := List.zipWith (· + ·) (shaExpand 64 first.reverse).reverse ks
  List.zipWith (· + ·) v (sums.foldl shaRound v)

/-- The chain after n blocks of a padded message. -/
def shaBlocks (ks : List (BitVec 64)) : Nat → List Byte → List (BitVec 64) → List (BitVec 64)
  | 0, _, v => v
  | n + 1, bs, v => shaBlocks ks n (bs.drop 128) (shaBlock ks v (bs.take 128))

/-- SHA-384 of a byte string, 48 bytes: the message ends with one bit, zeros, and its length in bits in 128 bits. -/
def sha384 (bs : List Byte) : List Byte :=
  let n := bs.length
  let blocks := (n + 17 + 127) / 128
  let p := bs ++ [0x80] ++ zeros (128 * blocks - n - 17) ++ beBytes 16 (8 * n)
  let v := shaBlocks (primes.map (rootBits 3)) blocks p (((primes.drop 8).take 8).map (rootBits 2))
  (v.take 6).flatMap (fun x => beBytes 8 x.toNat)

end Sys2Proof.Machine
end

