-- ==== Sys2Proof/Machine/Gate.lean ====
section
/-!
DEFINITION. The gate guard and the pulse timer of the direct-drive port (chapter Gate guard and direct-drive port).
-/
namespace Sys2Proof.Machine

/-! ### Settings -/

/-- Channel n as it stands. -/
def chanOf (s : State) (n : Nat) : Chan := nth Chan.reset s.ggd.chans n

/-- Channel n changed. -/
def updChan (s : State) (n : Nat) (f : Chan → Chan) : State := { s with ggd := { s.ggd with chans := updNth s.ggd.chans n f } }

/-- Group of a channel (R238). -/
def grp (n : Nat) : Nat := n / 4

/-- A parameter of a group. -/
def gp (s : State) (pid n : Nat) : Nat := pNatAt (imgOf s) pid (grp n)

/-- A time parameter of a channel's group, in fine steps of 1/20.48 ns (R238). -/
def gpFine (s : State) (pid n : Nat) : Int := roundDiv (gp s pid n * 512) 25

/-- CH_PER in force, in CK_PWM cycles; 0 where the image gives none. -/
def chPerSet (s : State) (n : Nat) : Nat := if hasSect (imgOf s) 0x0A then pNatAt (imgOf s) 0x0A03 n else 0

/-- Period in CK_PWM cycles. -/
def chPer (s : State) (n : Nat) : Nat := max 1 (chPerSet s n)

/-- Phase in CK_PWM cycles. -/
def chPhs (s : State) (n : Nat) : Nat := pNatAt (imgOf s) 0x0A04 n

/-- CH_EN includes the channel. -/
def chEn (s : State) (n : Nat) : Bool := hasSect (imgOf s) 0x0A && (pNat (imgOf s) 0x0A01).testBit n

/-- The image makes the channel privileged (R249). -/
def chPriv (s : State) (n : Nat) : Bool := n < 4 && decide (pNatAt (imgOf s) 0x0A05 n = 1)

/-- BAR0 offset of PWM_CH_CTL_n. -/
def chCtlA (n : Nat) : Nat := 0x100100 + 0x40 * n

/-- The channel's source is the host: PWM_CH_CTL_n.SRC, which the image sets and the host may change in MD_11 (R251). -/
def chHost (s : State) (n : Nat) : Bool := bit (regGet s (chCtlA n)) 4

/-- PWM_CH_CTL_n.SRC returns to the image value (R251). -/
def chSrcImage (s : State) : State :=
  (List.range 24).foldl (fun s n => regPut s (chCtlA n) 4 4 (if hasSect (imgOf s) 0x0A then pNatAt (imgOf s) 0x0A02 n else 0)) s

/-- GGD or PWM is in reset (R40). -/
def gateReset (s : State) : Bool := s.frst.inReset.testBit fnGGD || s.frst.inReset.testBit fnPWM

/-- The port may switch for a channel with the given source (R251). -/
def portMay (s : State) (host : Bool) : Bool :=
  (match s.sys.mode with
    | .md5 | .md6 | .md7 | .md8 | .md9 => true
    | .md11 => host
    | _ => false)
  && (!ddToken s || (s.red.lease && !s.sys.blockNext)) && !s.ggd.readback && !gateReset s && s.clk.state = 2

/-- PWM_STAT.MAY: the port may switch. -/
def mayStat (s : State) : Bool := portMay s true

/-- The image has a SINK of subtype 1 for endpoint ep of channel n. -/
def hasCmp (s : State) (ep n : Nat) : Bool :=
  (imgOf s).nodes.any (fun r => r.type = 7 && r.sub = 1 && leAt r.spec 0 2 = ep && leAt r.spec 2 2 = n)

/-- The channel is enabled (R252). -/
def chanEnabled (s : State) (n : Nat) : Bool :=
  let c := chanOf s n
  chEn s n && portMay s (chHost s n) && c.state < 3 &&
    (if chHost s n then bit (regGet s (chCtlA n)) 0 else !c.lost && (c.en || !hasCmp s 2 n))

/-! ### The pins (R238, R239, R240, R259) -/

/-- Time t lies in the dead time that follows the channel's last edge or drop (R239). -/
def inNotch (s : State) (n : Nat) (t : Int) : Bool :=
  let c := chanOf s n
  c.notch && decide (c.chgAt ≤ t) && decide (t < c.chgAt + gp s 0x0A06 n)

/-- The channel is released as HIGH, or will be once its enable rises. -/
def chanHigh (c : Chan) : Bool := c.pul && c.ena

/-- The partner of a channel in an exclusive pair (R240). -/
def xPartner (s : State) (n : Nat) : Option Nat :=
  if (gp s 0x0A13 n).testBit (n % 4 / 2) then some (if n % 2 = 0 then n + 1 else n - 1) else none

/-- When a channel's enable rises after its last edge (R239). -/
def upAt (s : State) (n : Nat) : Int := (chanOf s n).chgAt + gp s 0x0A06 n

/-- From when on both channels of a pair would be HIGH with ENA = 1, as they stand (R240). -/
def overlapAt (s : State) (n : Nat) : Option Int :=
  match xPartner s n with
  | some m => if chanHigh (chanOf s n) && chanHigh (chanOf s m) then some (max (upAt s n) (upAt s m)) else none
  | none => none

/-- The guard holds the channel's enable low at time t (R240). -/
def inHold (s : State) (n : Nat) (t : Int) : Bool := (overlapAt s n).any (fun u => decide (u ≤ t))

/-- ENA_n at the pin at time t, at or after the channel's last change: what the guard releases outside a notch and a hold, gated by the safe
block (R370), HARD_TRIP (R257), a reset of GGD or PWM (R40), the synthesiser (R320) and MD_0. -/
def pinEna (s : State) (n : Nat) (t : Int) : Bool :=
  (chanOf s n).ena && !inHold s n t && !inNotch s n t && !s.saf.lock && !s.ggd.ht && !gateReset s && s.clk.state = 2 && s.sys.mode ≠ .md0

/-- PUL_n at the pin at time t: it changes half a dead time after the edge or the drop, and outside a notch it is low where ENA_n is. -/
def pinPul (s : State) (n : Nat) (t : Int) : Bool :=
  let c := chanOf s n
  let half := decide (t < c.chgAt + (gp s 0x0A06 n / 2 : Nat))
  if inNotch s n t then (if half then c.pulWas else c.pul) else c.pul && pinEna s n t

/-- The divider at which TPC_g runs: from the end of MD_1 in every mode, but for a reset of PWM (R259). -/
def tpcWant (s : State) (g : Nat) : Nat :=
  if hasSect (imgOf s) 0x0A && pNatAt (imgOf s) 0x0A0F g = 1 && s.sys.mode ≠ .md0 && s.sys.mode ≠ .md1
    && !s.frst.inReset.testBit fnPWM && s.clk.state = 2 then pNatAt (imgOf s) 0x0A10 g else 0

/-- The trickle-pump clocks follow the image, the mode and the reset of PWM (R259). -/
def tpcFollow (s : State) : State := { s with ggd := { s.ggd with tpc := (List.range 6).map (tpcWant s) } }

/-! ### Changes of channel state (R252) -/

/-- GGD_LOCK and GGD_GLOCK with the bit of a channel that enters or leaves a lock state set or cleared (R266). -/
def lockBits (s : State) (n old new : Nat) : State :=
  let put := fun (s : State) (a b : Nat) (on : Bool) => regSet s a (if on then regGet s a ||| at_ 1 b else regGet s a &&& ~~~(at_ 1 b))
  let s := if new = 4 || old = 4 then put s 0xF0014 n (new = 4) else s
  let s := if new = 5 || old = 5 then
      put s 0xF0018 (grp n) ([4 * grp n, 4 * grp n + 1, 4 * grp n + 2, 4 * grp n + 3].any (fun m => (chanOf s m).state = 5)) else s
  if new = 6 || old = 6 then put s 0xF0018 6 ((List.range 24).any (fun m => (chanOf s m).state = 6)) else s

/-- A change of state shows in the lock bits and writes an entry with the channel, the new state and the cause. -/
def chanGo (s : State) (n new cause : Nat) : State :=
  let old := (chanOf s n).state
  if old = new then s
  else logNow (lockBits (updChan s n (fun c => { c with state := new })) n old new) fnGGD 0x80 (argAt 0 n + argAt 1 new + argAt 2 cause)

/-- A rise of ENA at time t opens a blanking window, which also defers a trip that was active before the channel turned on (R254). -/
def openBlank (s : State) (n : Nat) (t : Int) : State :=
  let e := t + gpFine s 0x0A09 n
  updChan s n (fun c => { c with
    blanks := c.blanks ++ [(t, e)], deferred := if c.trp && c.deferred.isNone then some e else c.deferred })

/-- The window that opened at time u is none: the enable did not rise there. -/
def shutBlank (s : State) (n : Nat) (u : Int) : State :=
  updChan s n (fun c => { c with
    blanks := c.blanks.filter (fun w => w.1 ≠ u), deferred := if c.deferred = some (u + gpFine s 0x0A09 n) then none else c.deferred })

/-- An overlap of the pair of channel n that has begun before time t is counted and flagged once, and the enable that would have risen with it
opened no window (R240, R254). -/
def pairMeet (s : State) (n : Nat) (t : Int) : State :=
  match xPartner s n, overlapAt s n with
  | some m, some u =>
    if t ≤ u || (chanOf s n).hold then s
    else
      let shut := fun (s : State) (k : Nat) => if upAt s k = u then shutBlank s k u else s
      let s := updChan (updChan (shut (shut s n) m) n (fun c => { c with hold := true })) m (fun c => { c with hold := true })
      raise (regInc s (0xF0104 + 0x10 * min n m) 15 0) fnGGD 2 (min n m) 0
  | _, _ => s

/-- After a change of channel n at time t: a hold whose overlap is over ends, and the partner's enable rises again (R239, R240). -/
def pairEnd (s : State) (n : Nat) (t : Int) : State :=
  match xPartner s n with
  | some m =>
    if (chanOf s n).hold && (overlapAt s n).isNone then
      let s := updChan (updChan s n (fun c => { c with hold := false })) m (fun c => { c with hold := false })
      if (chanOf s m).ena then openBlank s m t else s
    else s
  | none => updChan s n (fun c => { c with hold := false })

/-- ENA drops at time t and PUL follows from the level it has, every edge not yet released is dropped, and no retry is due any more. A channel
that is dark already keeps the end of its last change. -/
def chanDark (s : State) (n : Nat) (t : Int) : State :=
  let s := pairMeet s n t
  let pin := pinPul s n t
  pairEnd (updChan s n (fun c =>
    let c := if c.ena then { c with pul := false, ena := false, pulWas := pin, chgAt := t, notch := true } else c
    { c with edges := [], tLast := c.relAt, blanks := [], deferred := none, cutTo := none, retry := false, waitTrp := false })) n t

/-- The channel goes to OFF at time t and its idle timer starts. -/
def chanOff (s : State) (n : Nat) (t : Int) (cause : Nat) : State :=
  updChan (chanGo (chanDark s n t) n 0 cause) n (fun c => { c with offAt := t })

/-- A refresh is due on the channel (R260). -/
def chanDue (s : State) (n : Nat) : State := updChan s n (fun c => { c with due := true })

/-- Lower fine-step time of the last tick boundary. -/
def boundFine (s : State) : Int := (s.ggd.idx * (tickNs s * 128 / 100) * 16 : Nat)

/-- The channel locks at time t (R255): cause 1 LIMIT, 2 STUCK. -/
def chanLock (s : State) (n : Nat) (t : Int) (cause : Nat) : State :=
  let deb := switching s
  let s := updChan (chanGo (chanDark s n t) n 4 cause) n (fun c => { c with cause := cause })
  let s := raise s fnGGD 5 n 0
  if deb then (if ddToken s && pNat (imgOf s) 0x0A15 = 1 then blockRelease s else s) else s

/-- A bus fault locks the whole group at time t, but for channels under HARD_TRIP's lock (R252, R256). -/
def groupLock (s : State) (g : Nat) (t : Int) : State :=
  let deb := switching s
  let s := [4 * g, 4 * g + 1, 4 * g + 2, 4 * g + 3].foldl (fun s n =>
    if (chanOf s n).state = 6 then s else chanGo (chanDark s n t) n 5 5) s
  let s := raise s fnGGD 6 g 0
  if deb then (if ddToken s && pNat (imgOf s) 0x0A15 = 1 then blockRelease s else s) else s

/-- A trip is accepted at time t (R255, R256). -/
def tripAccept (s : State) (n : Nat) (t : Int) : State :=
  let s := regInc s (0xF0104 + 0x10 * n) 31 16
  let s := raise s fnGGD 3 n 0
  let s := chanGo (chanDark s n t) n 3 4
  let c := chanOf s n
  let s := updChan s n (fun c => { c with lastTrip := some t, window := true, tries := if c.window then c.tries else 0 })
  let tries := if c.window then c.tries else 0
  let near := [4 * grp n, 4 * grp n + 1, 4 * grp n + 2, 4 * grp n + 3].any (fun m =>
    m ≠ n && (match (chanOf s m).lastTrip with | some u => decide (t - u ≤ 40960) && decide (u - t ≤ 40960) | none => false))
  if near then groupLock s (grp n) t
  else if tries < gp s 0x0A0D n then updChan s n (fun c => { c with retry := true })
  else chanLock s n t 1

/-! ### Edges (R239 to R246) -/

/-- An edge is released at time t (R239): ENA falls, PUL changes half a dead time later, and ENA rises after the dead time, which
opens a blanking window (R254). -/
def edgeOut (s : State) (n : Nat) (t : Int) (lv : Bool) : State :=
  let s := pairMeet s n t
  let pin := pinPul s n t
  let s := updChan s n (fun c => { c with
    pul := lv, ena := true, pulWas := pin, chgAt := t, notch := true, relAt := t, hiAt := if lv then t else c.hiAt })
  pairEnd (openBlank s n (t + gp s 0x0A06 n)) n t

/-- The commanded edges of a period that starts at t0, in time order (R243). -/
def cmdEdges (t0 : Int) (c : Chan) : List (Int × Bool) :=
  if c.aRise = c.aFall then []
  else if c.aRise < c.aFall then [(t0 + c.aRise, true), (t0 + c.aFall, false)]
  else [(t0 + c.aFall, false), (t0 + c.aRise, true)]

/-- Edges that command the level already in force are dropped (R243). -/
def dropSame : Bool → List (Int × Bool) → List (Int × Bool)
  | _, [] => []
  | lv, (t, l) :: es => if l = lv then dropSame lv es else (t, l) :: dropSame l es

/-- The level that the channel commands once every scheduled edge is out. -/
def lastLevel (c : Chan) : Bool := (c.edges.getLast?.map (·.2)).getD c.pul

/-- The level commanded at time t of the period in progress: that of its last edge up to t, else the level carried over from the period
before (R243, R252). -/
def levelAt (c : Chan) (t : Int) : Bool :=
  (((cmdEdges c.start c).filter (fun e => decide (e.1 ≤ t))).getLast?.map (·.2)).getD c.lvl0

/-- The level commanded as the period in progress ends. -/
def levelEnd (c : Chan) : Bool := ((cmdEdges c.start c).getLast?.map (·.2)).getD c.lvl0

/-- The edges of a period are scheduled under the minimum pulse, with the number moved (R245). -/
def placeEdges (tMin : Int) (c : Chan) : List (Int × Bool) → Chan × Nat
  | [] => (c, 0)
  | (t, l) :: es =>
    let late := decide (t < c.tLast + tMin)
    let t' := if late then c.tLast + tMin else t
    let (c', k) := placeEdges tMin { c with edges := c.edges ++ [(t', l)], tLast := t' } es
    (c', k + b2n late)

/-- f applied n times. -/
def iter {α : Type} (f : α → α) : Nat → α → α
  | 0, a => a
  | n + 1, a => iter f n (f a)

/-- The edges of the period that starts now are evaluated (R245). Those inside a refresh or a cut are dropped; where the refresh ends in
this period at a high level, its end releases a rising edge (R252), from which the later edges are measured. -/
def evalPeriod (s : State) (n : Nat) : State :=
  let c := chanOf s n
  let tMin : Int := gp s 0x0A07 n
  let free : Int := match c.cutTo with | some u => u | none => c.start
  let tR : Int := c.refAt + gpFine s 0x0A11 n
  let ends := c.state = 1 && decide (c.start ≤ tR) && decide (tR < c.start + (chPer s n * 16 : Nat)) && levelAt c tR
  let later := fun (e : Int × Bool) => if c.state = 1 then decide (tR < e.1) else decide (free ≤ e.1)
  let es := dropSame (if c.state = 1 then ends else lastLevel c) ((cmdEdges c.start c).filter later)
  let c := if ends then { c with tLast := tR } else c
  let short := match es with
    | [(t1, _), (t2, _)] => decide (t2 - t1 < tMin) && decide (gp s 0x0A08 n = 0)
    | _ => false
  if short then raise (regInc (updChan s n (fun _ => c)) (0xF0100 + 0x10 * n) 15 0) fnGGD 0 n 0
  else
    let (c', k) := placeEdges tMin c es
    iter (fun s => raise (regInc s (0xF0100 + 0x10 * n) 31 16) fnGGD 1 n 0) k (updChan s n (fun _ => c'))

/-! ### Period boundaries and reloads (R242, R247 to R250, R252) -/

/-- The next period boundary of a channel: the first after `start` at which its counter stands at 0. -/
def nextPeriod (s : State) (n : Nat) : Int :=
  let cyc := (chanOf s n).start / 16
  let k := (cyc - chPhs s n) % (chPer s n : Int)
  (cyc - k + chPer s n) * 16

/-- A reload copies the shadow set into the active set. -/
def reload (c : Chan) (rise fall : Nat) : Chan := { c with aRise := rise, aFall := fall, rseq := (c.rseq + 1) % 256 }

/-- The reload of a channel at time t: a write or an arming of the same instant belongs to the next one (R248, R250). -/
def takeReload (priv : Bool) (t : Int) (c : Chan) : Chan :=
  if c.wAt = t then
    if priv || c.pArmed then
      { reload c c.pRise c.pFall with
          wseq := if c.pWrote then (c.rseq + 2) % 256 else c.wseq, pend := c.pend && c.pWrote, pArmed := false }
    else c
  else if priv || c.armed then { reload c c.rise c.fall with armed := false, pend := false } else c

/-- A refresh starts (R252, R260): ENA rises with PUL low. -/
def startRefresh (s : State) (n : Nat) (t : Int) : State :=
  let s := regInc s (0xF0108 + 0x10 * n) 15 0
  let s := raise s fnGGD 8 n 0
  let s := chanGo s n 1 3
  openBlank (updChan s n (fun c => { c with pul := false, ena := true, notch := false, refAt := t, due := false })) n t

/-- A period boundary of a channel (R242 to R252). -/
def periodBoundary (s : State) (n : Nat) : State :=
  let t := nextPeriod s n
  let s := updChan s n (fun c => takeReload (chPriv s n) t { c with lvl0 := levelEnd c, start := t })
  let c := chanOf s n
  let s :=
    if c.state = 0 && chanEnabled s n then
      if c.due || decide (t - c.offAt > gpFine s 0x0A12 n) then startRefresh s n t else chanGo s n 2 3
    else s
  let c := chanOf s n
  if c.state = 1 || c.state = 2 then evalPeriod s n else s

/-- PERIOD_BOUNDARY: a channel's period counter reaches zero; the counters run from the end of MD_1 (R242). -/
def execPeriodBoundary (ch : Fin 24) (s : State) : Host.Outcome State Fault Refusal :=
  let s := begin s
  .next (if s.sys.mode = .md0 ∨ s.sys.mode = .md1 then s else periodBoundary s ch)

/-- The first scheduled edge of a channel is released (R239); a channel that does not switch releases none. -/
def edgeRelease (s : State) (n : Nat) : State :=
  let c := chanOf s n
  match c.edges with
  | [] => s
  | (t, lv) :: es =>
    let s := updChan s n (fun c => { c with edges := es })
    if c.state = 2 then edgeOut s n t lv else s

/-- EDGE_RELEASE. -/
def execEdgeRelease (ch : Fin 24) (s : State) : Host.Outcome State Fault Refusal := .next (edgeRelease (begin s) ch)

/-- The refresh of a channel ends (R252): a rising edge is released at once where the commanded level is high. -/
def refreshEnd (s : State) (n : Nat) : State :=
  let c := chanOf s n
  if c.state = 1 then
    let t := c.refAt + gpFine s 0x0A11 n
    let s := chanGo s n 2 0
    if levelAt c t then edgeOut (updChan s n (fun c => { c with tLast := max c.tLast t })) n t true else s
  else s

/-- REFRESH_END. -/
def execRefreshEnd (ch : Fin 24) (s : State) : Host.Outcome State Fault Refusal := .next (refreshEnd (begin s) ch)

/-- A HIGH level without the pump that has lasted T_HOLD is cut (R260). -/
def bsCut (s : State) (n : Nat) : State :=
  let c := chanOf s n
  if c.state = 2 && chanHigh c && gp s 0x0A0F n = 0 then
    let t := c.hiAt + gp s 0x0A06 n + gpFine s 0x0A12 n
    let till := t + gpFine s 0x0A11 n
    let s := raise (regInc s (0xF0108 + 0x10 * n) 31 16) fnGGD 9 n 0
    let s := edgeOut s n t false
    updChan s n (fun c =>
      let es := dropSame false (c.edges.filter (fun e => decide (till ≤ e.1)))
      { c with edges := es, cutTo := some till, tLast := (es.getLast?.map (·.1)).getD t })
  else s

/-- BS_CUT. -/
def execBsCut (ch : Fin 24) (s : State) : Host.Outcome State Fault Refusal := .next (bsCut (begin s) ch)

/-! ### Trips (R254 to R257) -/

/-- The earliest blanking window that holds an instant, by its end. -/
def windowAt (t : Int) : List (Int × Int) → Option Int
  | [] => none
  | (b, e) :: es => if b ≤ t ∧ t < e then some e else windowAt t es

/-- TRP_n has been active for TRP_FILT: accepted, or deferred to the end of the earliest blanking window that holds its onset. -/
def tripFiltered (s : State) (n : Nat) (t : Int) : State :=
  let s := updChan (pairMeet s n (t + 1)) n (fun c => { c with trp := true })
  let c := chanOf s n
  if c.state = 1 || c.state = 2 then
    match windowAt t c.blanks with
    | some e => updChan s n (fun c => { c with deferred := some e })
    | none => tripAccept s n t
  else s

/-- TRIP_FILTERED, `off` fine steps after the last tick boundary. -/
def execTripFiltered (ch : Fin 24) (off : Nat) (s : State) : Host.Outcome State Fault Refusal :=
  let s := begin s
  if s.sys.mode = .md0 then .next s else .next (tripFiltered s ch (boundFine s + off))

/-- The earliest open blanking window of a channel ends; a trip that it defers is accepted if still active (R254). -/
def blankEnd (s0 : State) (n : Nat) : State :=
  match (chanOf s0 n).blanks with
  | [] => s0
  | (b, e) :: es =>
    let s := pairMeet s0 n (b + 1)
    let c := chanOf s n
    if c.blanks ≠ (b, e) :: es then s
    else
      let s := updChan s n (fun c => { c with blanks := es, deferred := if c.deferred = some e then none else c.deferred })
      if c.deferred = some e && c.trp && (c.state = 1 || c.state = 2) then tripAccept s n e else s

/-- BLANK_END. -/
def execBlankEnd (ch : Fin 24) (s : State) : Host.Outcome State Fault Refusal := .next (blankEnd (begin s) ch)

/-- A retry is taken: the channel goes to OFF with TRIES incremented and a refresh due (R252, R255). -/
def retryTake (s : State) (n : Nat) : State :=
  let s := raise s fnGGD 4 n 0
  let s := chanDue (chanOff s n (boundFine s) 0) n
  updChan s n (fun c => { c with tries := c.tries + 1 })

/-- TRIP_RETRY: T_RETRY after an acceptance, the channel retries if its trip input is inactive. -/
def execTripRetry (ch : Fin 24) (s : State) : Host.Outcome State Fault Refusal :=
  let s := begin s
  let c := chanOf s ch
  if c.state = 3 && c.retry then
    .next (if c.trp then updChan s ch (fun c => { c with waitTrp := true }) else retryTake s ch)
  else .next s

/-- TRP_INACTIVE: a trip input leaves its active level. A retry that fell due while it was active is then taken (R252). -/
def execTrpInactive (ch : Fin 24) (s : State) : Host.Outcome State Fault Refusal :=
  let s := updChan (begin s) ch (fun c => { c with trp := false, deferred := none })
  let c := chanOf s ch
  .next (if c.state = 3 && c.waitTrp then retryTake s ch else s)

/-- RETRY_WINDOW_CLOSE: a channel that is still tripped locks with cause STUCK (R255). Where its retry is only waiting for its time, with the
input inactive, the closing window cancels it, and STUCK is the one outcome too; TRIES stays (R379). -/
def execRetryWindowClose (ch : Fin 24) (s : State) : Host.Outcome State Fault Refusal :=
  let s := begin s
  let c := chanOf s ch
  if c.window then
    let s := updChan s ch (fun c => { c with window := false })
    .next (if c.state = 3 then chanLock s ch (boundFine s) 2 else if c.state = 4 then s else updChan s ch (fun c => { c with tries := 0 }))
  else .next s

/-- HARD_TRIP goes active (R257): the whole port locks. -/
def hardTrip (s : State) : State :=
  let deb := switching s
  let s := { s with ggd := { s.ggd with ht := true } }
  let s := (List.range 24).foldl (fun s n => chanGo (chanDark s n (boundFine s)) n 6 6) s
  let s := raise s fnGGD 7 0 0
  if ddToken s && deb then blockRelease s else s

/-- HARD_TRIP. In MD_0 every output is blocked by hardware and the guard takes nothing. -/
def execHardTrip (s : State) : Host.Outcome State Fault Refusal :=
  let s := begin s
  .next (if s.sys.mode = .md0 then { s with ggd := { s.ggd with ht := true } } else hardTrip s)

/-- HARD_TRIP_INACTIVE. -/
def execHardTripInactive (s : State) : Host.Outcome State Fault Refusal :=
  .next { begin s with ggd := { s.ggd with ht := false } }

/-- Every channel of the port goes to OFF with a refresh due; lock states stay. -/
def portOff (s : State) (cause : Nat) : State :=
  (List.range 24).foldl (fun s n =>
    if (chanOf s n).state < 4 then chanDue (chanOff s n (boundFine s) cause) n else s) s

/-- PIN_READBACK_FAULT (R365): the port is blocked, and a port under the token blocks and releases. -/
def execPinReadbackFault (_pin : Fin 48) (s : State) : Host.Outcome State Fault Refusal :=
  let s := begin s
  let tok := ddToken s
  let s := { portOff s 3 with ggd := { (portOff s 3).ggd with readback := true } }
  .next (if tok then blockRelease s else s)

/-- PWM_LOCKSTEP_MISMATCH (R241). -/
def execPwmLockstepMismatch (ch : Fin 24) (s : State) : Host.Outcome State Fault Refusal :=
  let s := begin s
  let deb := switching s
  let s := raise (portOff s 9) fnGGD 14 ch 0
  .next (if ddToken s && deb then blockRelease s else s)

/-- The channel's fabric values have been invalid for LOSS_N ticks (R244). -/
def cmpLoss (s : State) (n : Nat) : State :=
  let s := raise s fnGGD 11 n 0
  let s := updChan s n (fun c => { c with lost := true })
  if (chanOf s n).state = 1 || (chanOf s n).state = 2 then chanOff s n (boundFine s) 3 else s

/-- CMP_LOSS. -/
def execCmpLoss (ch : Fin 24) (s : State) : Host.Outcome State Fault Refusal :=
  let s := begin s
  .next (if chHost s ch || !chEn s ch || (chanOf s ch).lost then s else cmpLoss s ch)

/-! ### Host commands -/

/-- A load-all transfer is armed (R248): every channel without privilege that has a period takes its shadow set at its next boundary. An arming of the fabric
comes at the tick boundary at time t: where the channel has a period boundary in that instant, that boundary takes what was armed before. -/
def loadAll (s : State) (t : Option Int) : State :=
  let s := { s with ggd := { s.ggd with laSeq := (s.ggd.laSeq + 1) % 256 } }
  (List.range 24).foldl (fun s n =>
    if chPriv s n || chPerSet s n = 0 then s
    else
      let c := chanOf s n
      let taken := t = some (nextPeriod s n)
      let s := if c.armed && !taken then raise s fnGGD 13 n 0 else s
      match t with
      | some u =>
        updChan s n (fun c =>
          if c.wAt = u then { c with armed := true }
          else { c with armed := true, wAt := u, pRise := c.rise, pFall := c.fall, pArmed := c.armed, pWrote := false })
      | none => updChan s n (fun c => { c with armed := true })) s

/-- LOADALL_ARM: a write of PWM_LOADALL. -/
def execLoadallArm (pf : Pf) (v : Word) (s : State) : Host.Outcome State Fault Refusal :=
  .next (hostAccess (begin s) pf fnPWM (fun s => if bit v 0 then loadAll s none else s))

/-- New values stand in the shadow set, and the next reload takes them (R250). -/
def shadowSet (c : Chan) (rise fall : Nat) : Chan :=
  { c with rise := rise, fall := fall, wseq := (c.rseq + 1) % 256, pend := true }

/-- What keeps the host from writing a shadow register, as the kind of its access error (R249, R250). -/
def shadowBar (s : State) (pf : Pf) (n : Nat) : Option Nat :=
  if chPriv s n && pf = .pf1 then some 1 else if !chHost s n || !chEn s n then some 4 else none

/-- SHADOW_WRITE: a host write of PWM_CH_SHD_n, both words at once (R247, R249, R250). -/
def execShadowWrite (pf : Pf) (ch : Fin 24) (rise fall : BitVec 24) (s : State) : Host.Outcome State Fault Refusal :=
  .next (hostAccess (begin s) pf fnPWM (fun s =>
    match shadowBar s pf ch with
    | some k => accessErr s pf (chCtlA ch + 8) k
    | none => updChan s ch (fun c => { shadowSet c rise.toNat fall.toNat with wAt := -1 })))

/-- STATUS of the last GGD_CLR. -/
def clrRes (s : State) (st : Nat) : State := { s with ggd := { s.ggd with clrRes := st } }

/-- The channel is cleared (R258). -/
def chanClear (s : State) (n : Nat) : State :=
  updChan (chanDue (chanOff s n (boundFine s) 7) n) n (fun c =>
    { c with cause := 0, window := false, tries := 0 })

/-- CLEAR_CH (R258). -/
def execClearCh (pf : Pf) (key : BitVec 16) (index : Fin 32) (s : State) : Host.Outcome State Fault Refusal :=
  .next (hostPf0 (begin s) pf 0xF0080 (fun s =>
    if key ≠ 0x4743 then clrRes s 2
    else if 24 ≤ index.val then clrRes s 4
    else if (chanOf s index).state ≠ 4 then clrRes s 5
    else if (chanOf s index).trp then clrRes s 3
    else
      clrRes (chanClear s index) 1))

/-- CLEAR_GROUP (R258). -/
def execClearGroup (pf : Pf) (key : BitVec 16) (index : Fin 32) (s : State) : Host.Outcome State Fault Refusal :=
  .next (hostPf0 (begin s) pf 0xF0080 (fun s =>
    let ns := [4 * index.val, 4 * index.val + 1, 4 * index.val + 2, 4 * index.val + 3]
    if key ≠ 0x4743 then clrRes s 2
    else if 6 ≤ index.val then clrRes s 4
    else if !ns.any (fun n => (chanOf s n).state = 5) then clrRes s 5
    else if ns.any (fun n => (chanOf s n).trp) then clrRes s 3
    else
      clrRes (ns.foldl chanClear s) 1))

/-- CLEAR_PORT (R258). -/
def execClearPort (pf : Pf) (key : BitVec 16) (_index : Fin 32) (s : State) : Host.Outcome State Fault Refusal :=
  .next (hostPf0 (begin s) pf 0xF0080 (fun s =>
    if key ≠ 0x4743 then clrRes s 2
    else if !(List.range 24).any (fun n => (chanOf s n).state = 6) then clrRes s 5
    else if s.ggd.ht then clrRes s 3
    else
      clrRes ((List.range 24).foldl (fun s n => if (chanOf s n).state = 6 then chanClear s n else s) s) 1))

/-! ### What a tick does to the port -/

/-- A fabric word as an edge position (R244), with whether it was clamped. -/
def cmpValue (per : Nat) (w : SigW) : Nat × Bool :=
  let x := if w.e ≥ 31 then w.m * 2 ^ (w.e - 31).toNat * (16 * per) else roundDiv (w.m * (16 * per)) (2 ^ (31 - w.e).toNat)
  let one := if w.e ≥ 31 then decide (1 ≤ w.m) else decide (2 ^ (31 - w.e).toNat ≤ w.m)
  if w.m < 0 then (0, true) else (min x.toNat (16 * per - 1), one)

/-- Phase F of the guard for one channel (R244): the fabric's words are converted, and the loss of a word is counted. -/
def gatePhaseF (word : Nat → Nat → SigW) (s : State) (n : Nat) : State :=
  if chHost s n || !chEn s n then updChan s n (fun c => { c with cmp := none })
  else
    let r := word 0 n
    let f := word 1 n
    let e := word 2 n
    let enEp := hasCmp s 2 n
    let bad := !r.v || !f.v || (enEp && !e.v)
    let c := chanOf s n
    let (rv, rc) := cmpValue (chPer s n) r
    let (fv, fc) := cmpValue (chPer s n) f
    let rise := if r.v then rv else c.rise
    let fall := if f.v then fv else c.fall
    let s := iter (fun s => raise s fnGGD 10 n 0) (b2n (r.v && rc) + b2n (f.v && fc)) s
    let s := updChan s n (fun c =>
      { c with cmp := some (rise, fall), en := if enEp then (if e.v then e.m ≠ 0 else c.en) else true
               loss := if bad then c.loss + 1 else 0, lost := bad && c.lost })
    if bad && (chanOf s n).loss = pNat (imgOf s) 0x0A14 && !(chanOf s n).lost then cmpLoss s n else s

/-- The fabric's values reach the shadow registers at the boundary (R244), at time t. -/
def cmpWrite (t : Int) (priv : Bool) (c : Chan) : Chan :=
  match c.cmp with
  | some (r, f) =>
    { shadowSet c r f with pRise := c.rise, pFall := c.fall, pArmed := !priv && c.armed, pWrote := true, wAt := t, cmp := none }
  | none => c

/-- The times of a channel on a scale that has moved by d. -/
def shiftTimes (d : Int) (c : Chan) : Chan :=
  { c with edges := c.edges.map (fun e => (e.1 + d, e.2)), start := c.start + d, tLast := c.tLast + d, relAt := c.relAt + d
           hiAt := c.hiAt + d, offAt := c.offAt + d, refAt := c.refAt + d, chgAt := c.chgAt + d
           blanks := c.blanks.map (fun w => (w.1 + d, w.2 + d)), deferred := c.deferred.map (· + d)
           lastTrip := c.lastTrip.map (· + d), cutTo := c.cutTo.map (· + d) }

/-- CK_PWM cycles since start-up: 1.28 of them to a local nanosecond (R25). -/
def pwmCount (s : State) : Nat := s.tim.loc / 51200

/-- The counter of channel n at the tick boundary at time t takes the value computed from the tick index; where it held another, the period in
progress ends there, and its edges not yet released are dropped (R242); a jump of TRG_CH restarts the chains (R270). A counter that comes to 0 in this instant has its period boundary
as a command of its own. -/
def rephase (s : State) (n : Nat) (t : Int) : State :=
  let per : Int := chPer s n * 16
  let at0 := t - (t - chPhs s n * 16) % per
  let base := if at0 = t then t - per else at0
  let trg := regGet s 0x110018
  if (chanOf s n).start = at0 || (chanOf s n).start = base then s
  else
    let s := updChan s n (fun c => { c with start := base, edges := [], tLast := c.relAt })
    if bit trg 31 && field trg 25 21 = n then adcRestart s else s

/-- Every channel that is in REFRESH or RUN and no longer enabled goes to OFF (R251, R252). -/
def portSettle (s : State) : State :=
  (List.range 24).foldl (fun s n =>
    if ((chanOf s n).state = 1 || (chanOf s n).state = 2) && !chanEnabled s n then chanOff s n (boundFine s) 3 else s) s

/-- The boundary of a tick with index idx, as the port sees it: times follow the index, by as much as it moved beyond the cycles that have
passed, the counters are set, the fabric's values are written and arm a load-all, and channels that may no longer switch go to OFF. -/
def gateBoundary (s : State) (idx : Nat) : State :=
  let ct := tickNs s * 128 / 100
  let cyc := pwmCount s
  let d := ((idx : Int) - s.ggd.idx) * (ct * 16 : Nat) - ((cyc : Int) - s.ggd.cyc) * 16
  let s := { s with ggd := { s.ggd with idx := idx, cyc := cyc, chans := s.ggd.chans.map (shiftTimes d) } }
  let t := boundFine s
  let s := (List.range 24).foldl (fun s n => pairMeet s n t) s
  let s := (List.range 24).foldl (fun s n => rephase s n t) s
  let any := (List.range 24).any (fun n => !chHost s n && (chanOf s n).cmp.isSome)
  let s := (List.range 24).foldl (fun s n =>
    updChan s n (fun c => if chHost s n then { c with cmp := none } else cmpWrite t (chPriv s n) c)) s
  let s := if any then loadAll s (some t) else s
  tpcFollow (portSettle s)

/-- Reset of GGD (R40): every enable low, channels in OFF or in the lock state they hold. -/
def ggdReset (s : State) : State :=
  let s := portOff s 8
  { s with ggd := { s.ggd with clrRes := 0, readback := false } }

/-- Reset of PWM (R40): enables low, channels return disabled, lock-outs kept. -/
def pwmReset (s : State) : State :=
  let s := portOff s 8
  chSrcImage { s with ggd := { s.ggd with laSeq := 0, chans := s.ggd.chans.map (fun c =>
    { c with rise := 0, fall := 0, aRise := 0, aFall := 0, rseq := 0, wseq := 0, pend := false, armed := false, cmp := none, wAt := -1, pWrote := false }) } }

end Sys2Proof.Machine
end

