-- ==== Sys2Proof/Machine/Riddle.lean ====
section
/-!
DEFINITION. Phase D: the riddle engine's work of one tick (R166 to R194), on integers scaled by 2^q.
-/
namespace Sys2Proof.Machine

/-! ### What phase D reads and what it asks for -/

/-- One arm's inputs in a tick: its uplink set where it is valid, the port's V_SCALE (Q8.24) and whether the port may switch. -/
structure ArmIn where
  set   : Option (List (Nat × Nat))  -- voltage code and status byte per submodule
  scale : Nat
  deb   : Bool                       -- the next frame of the port may carry BLOCK = 0
  vref  : SigW
  iarm  : SigW

/-- What phase D reads besides the engine's own state. -/
structure RdlEnv where
  q         : Nat
  img       : Image
  tickNs    : Nat
  mode      : Nat
  switching : Bool
  lease     : Bool
  arms      : List ArmIn
  vdc       : SigW
  isol      : SigW
  svc       : Option (Nat × Nat × Nat)  -- arm, submodule and choice of a running service pulse
  bypIn     : Option Bool               -- PRE_BYP_IN with VALID = 1; none while invalid

/-- An arm's input as an unused port gives it. -/
def ArmIn.none : ArmIn := ⟨Option.none, 0, false, SigW.none, SigW.none⟩

/-! ### Quantities -/

/-- Arm a is enabled (R166). -/
def armOn (img : Image) (a : Nat) : Bool := decide (pNatAt img 0x0801 a = 1)
/-- N_SM of an arm. -/
def armSms (img : Image) (a : Nat) : Nat := if armOn img a then pNatAt img 0x0802 a else 0
/-- The arm's submodules are full-bridge. -/
def armFb (img : Image) (a : Nat) : Bool := decide (pNatAt img 0x0803 a = 1)
/-- The enabled arms. -/
def armsOn (img : Image) : List Nat := (List.range 6).filter (armOn img)
/-- Key of a submodule. -/
def smKey (a i : Nat) : Nat := a * 512 + i
/-- A submodule. -/
def smOf (r : Rdl) (a i : Nat) : Sm := tabGet Sm.fresh r.sms (smKey a i)
/-- REASON of a FAILED submodule; 0 where it is not FAILED. -/
def smReason (r : Rdl) (a i : Nat) : Nat := tabGet 0 r.failed (smKey a i)
/-- An arm's state. -/
def armOf (r : Rdl) (a : Nat) : Arm := nth Arm.reset r.arms a
/-- An arm's inputs. -/
def armIn (env : RdlEnv) (a : Nat) : ArmIn := nth ArmIn.none env.arms a
/-- HEALTHY and UNKNOWN submodules of an arm (R172). -/
def armAvail (img : Image) (r : Rdl) (a : Nat) : List Nat :=
  (List.range (armSms img a)).filter (fun i => smReason r a i = 0)
/-- v_i / V_sm,b (R3, R171), scaled. -/
def codePu (env : RdlEnv) (a code : Nat) : Int :=
  roundDiv ((code * (armIn env a).scale * pNat env.img 0x0105 : Nat) * 2 ^ env.q) (max (2 ^ 24 * pNat env.img 0x0103) 1)
/-- The same for a submodule. -/
def smPu (env : RdlEnv) (r : Rdl) (a i : Nat) : Int := codePu env a (smOf r a i).code
/-- Sum of a list. -/
def sumInt (l : List Int) : Int := l.foldl (· + ·) 0
/-- v̄_a / V_sm,b, scaled; zero without an available submodule. -/
def armMean (env : RdlEnv) (r : Rdl) (a : Nat) : Int :=
  let av := armAvail env.img r a
  if av.isEmpty then 0 else roundDiv (sumInt (av.map (smPu env r a))) av.length
/-- A parameter of the ARMS section. -/
def rp (env : RdlEnv) (pid : Nat) : Int := pBfp env.q env.img pid

/-! ### Submodule states (R168, R169) -/

/-- A submodule becomes FAILED: its reason enters the map, SM_FAIL is raised. -/
def smFail (a i reason : Nat) (r : Rdl) : Rdl × List RdlFx :=
  ({ r with failed := tabSet 0 r.failed (smKey a i) reason, dirty := true
            sms := tabUpd Sm.fresh r.sms (smKey a i) (fun m => { m with unknown := false, miss := 0 }) },
    [RdlFx.flag 4 a i])

/-- A FAILED submodule returns to HEALTHY. -/
def smHeal (a i : Nat) (r : Rdl) : Rdl :=
  { r with failed := tabErase r.failed (smKey a i), dirty := true
           sms := tabUpd Sm.fresh r.sms (smKey a i) (fun m => { m with unknown := false, miss := 0 }) }

/-- One accepted host command, taking effect in phase D: 1 SET, 2 CLEAR, 3 CLEAR_ARM. -/
def smHost (img : Image) (acc : Rdl × List RdlFx) (c : Nat × Nat × Nat) : Rdl × List RdlFx :=
  let (cmd, a, i) := c
  if cmd = 1 then
    if smReason acc.1 a i = 0 && decide (i < armSms img a) then
      let (r, f) := smFail a i 5 acc.1
      (r, acc.2 ++ f)
    else acc
  else
    let l := if cmd = 2 then [i] else List.range 512
    (l.foldl (fun r k => if smReason r a k = 0 then r else smHeal a k r) acc.1, acc.2)

/-- One submodule's row of a valid uplink set (R168). -/
def smUplink (env : RdlEnv) (a : Nat) (acc : Rdl × List RdlFx) (x : Nat × (Nat × Nat)) : Rdl × List RdlFx :=
  let (i, code, st) := x
  let mv := st.testBit 0
  let m0 := smOf acc.1 a i
  let m := if mv then { m0 with code := code } else m0
  let put := fun (m : Sm) => { acc.1 with sms := tabSet Sm.fresh acc.1.sms (smKey a i) m }
  let fail := fun (m : Sm) (reason : Nat) =>
    let (r, f) := smFail a i reason (put m)
    (r, acc.2 ++ f)
  if smReason acc.1 a i ≠ 0 then (put m, acc.2)
  else if st.testBit 1 then fail m 1
  else if st.testBit 2 then fail m 2
  else if codePu env a m.code > rp env 0x080B then fail m 4
  else if mv then (put { m with unknown := false, miss := 0 }, acc.2)
  else
    let miss := m.miss + 1
    let m1 := { m with unknown := true, miss := miss }
    if miss ≥ pNat env.img 0x080F then fail m1 3 else (put m1, acc.2)

/-- One arm's uplink set in a tick (R168, R177), with the events and the reaction at the limit. -/
def armUplink (env : RdlEnv) (acc : Rdl × List RdlFx) (a : Nat) : Rdl × List RdlFx :=
  let upd := fun (r : Rdl) (f : Arm → Arm) => { r with arms := updNth r.arms a f }
  match (armIn env a).set with
  | some l =>
    let (r, f) := ((List.range (armSms env.img a)).zip l).foldl (smUplink env a) acc
    (upd r (fun x => { x with upBad := 0, seen := true }), f)
  | none =>
    let n := (armOf acc.1 a).upBad + 1
    let lim := pNat env.img 0x080E
    let at_ := decide (n * env.tickNs ≥ lim)
    let first := at_ && decide ((n - 1) * env.tickNs < lim)
    (upd acc.1 (fun x => { x with upBad := n }),
      acc.2 ++ (if first then [RdlFx.flag 2 a 0] else []) ++ (if at_ && env.switching then [RdlFx.react a] else []))

/-- The arm counts as valid: its set is fresh or held for at most UP_HOLD ticks (R177). -/
def armValid (img : Image) (r : Rdl) (a : Nat) : Bool :=
  (armOf r a).seen && decide ((armOf r a).upBad ≤ pNat img 0x080D)

/-! ### Choice of submodules (R172 to R176) -/

/-- Sign of a number. -/
def sgn (x : Int) : Int := if x > 0 then 1 else if x < 0 then -1 else 0

/-- N before the clamp: V_ARM_REF × V_dc,b / v̄_a rounded (R172, R20). Where every voltage is zero the quotient does not exist and its value is open. -/
def demandCount (env : RdlEnv) (r : Rdl) (a : Nat) (dem : SigW) : Int :=
  let av := armAvail env.img r a
  let total : Nat := av.foldl (fun s i => s + (smOf r a i).code) 0 * (armIn env a).scale
  if total = 0 then Config.roundErr 300 [dem.m, dem.e]
  else
    let num : Int := dem.m * (pNat env.img 0x0103 * av.length : Nat) * 2 ^ 24
    let e := dem.e - 31
    if e ≥ 0 then roundDiv (num * 2 ^ e.toNat) total else roundDiv num (total * 2 ^ (-e).toNat)

/-- Insertion of a submodule into a list in ascending key, then index (R174). -/
def insertByKey (x : Int × Nat) : List (Int × Nat) → List (Int × Nat)
  | [] => [x]
  | y :: ys => if x.1 < y.1 || (x.1 = y.1 && x.2 ≤ y.2) then x :: y :: ys else y :: insertByKey x ys

/-- Submodules in ascending key. -/
def byKey (key : Nat → Int) (l : List Nat) : List Nat := ((l.map (fun i => (key i, i))).foldr insertByKey []).map (·.2)

/-- The key of R174. -/
def smRank (env : RdlEnv) (r : Rdl) (a : Nat) (p : Int) (charge : Bool) (i : Nat) : Int :=
  let v := smPu env r a i
  let four := (4 : Int) * 2 ^ env.q
  let k := if charge then v else -v
  let k := if charge && decide (v > rp env 0x0809) || !charge && decide (v < rp env 0x080A) then k + four else k
  let ins := if p > 0 then 2 else 3
  if p ≠ 0 && (smOf r a i).choice = ins then k - rp env 0x0806 else k

/-- A submodule is locked in this tick (R175). -/
def smLocked (dwell : Nat) (m : Sm) : Bool := decide (1 ≤ m.dwell) && decide (m.dwell ≤ dwell)

/-- The submodules to insert, with the locked set (R175). -/
def selectSet (env : RdlEnv) (r : Rdl) (a : Nat) (n : Int) (charge : Bool) : List Nat × List Nat :=
  let av := armAvail env.img r a
  let p := sgn n
  let ins := if p > 0 then 2 else 3
  let opp := if p > 0 then 3 else 2
  let ch := fun i => (smOf r a i).choice
  let locked := fun i => smLocked (pNat env.img 0x0807) (smOf r a i) && !(p ≠ 0 && ch i = opp)
  let lockIn := if p = 0 then [] else av.filter (fun i => locked i && ch i = ins)
  let lockOut := av.filter (fun i => locked i && ch i = 1)
  let free := av.filter (fun i => !lockIn.contains i && !lockOut.contains i)
  let key := smRank env r a p charge
  let k := n.natAbs
  let chosen :=
    if lockIn.length ≤ k && k + lockOut.length ≤ av.length then lockIn ++ (byKey key free).take (k - lockIn.length)
    else if k < lockIn.length then (byKey key lockIn).take k
    else lockIn ++ free ++ (byKey key lockOut).take (k - lockIn.length - free.length)
  (chosen, av.filter locked)

/-- New choices of an arm, with ages, the count of changes and the submodules changed while locked (R175, R198). -/
def applyChoices (img : Image) (a : Nat) (locked : List Nat) (choice : Nat → Nat) (r : Rdl) : Rdl × Nat × List Nat :=
  (List.range (armSms img a)).foldl (fun acc i =>
    let m := smOf acc.1 a i
    let c := choice i
    if m.choice = c then acc
    else
      let m1 := { m with choice := c, age := 0, dwell := 0, changes := satInc 32 m.changes }
      ({ acc.1 with sms := tabSet Sm.fresh acc.1.sms (smKey a i) m1 },
        acc.2.1 + 1, if locked.contains i then acc.2.2 ++ [i] else acc.2.2)) (r, 0, [])

/-- A change over every submodule of an arm. -/
def mapArm (img : Image) (a : Nat) (f : Sm → Sm) (r : Rdl) : Rdl :=
  { r with sms := (List.range (armSms img a)).foldl (fun t i => tabUpd Sm.fresh t (smKey a i) f) r.sms }

/-- One tick passes for the ages of an arm. -/
def ageArm (img : Image) (a : Nat) (r : Rdl) : Rdl :=
  mapArm img a (fun m => { m with age := min (m.age + 1) 65535, dwell := min (m.dwell + 1) 65535 }) r

/-- Soft-start of one arm (R183): previous choices BLOCK, dwell expired, s_last from a valid current. -/
def startArm (env : RdlEnv) (a : Nat) (r : Rdl) : Rdl :=
  let i := (armIn env a).iarm
  let s : Int := if i.v && i.m ≠ 0 then sgn i.m else 1
  let r1 := mapArm env.img a (fun m => { m with choice := 0, dwell := 65535 }) r
  { r1 with arms := updNth r1.arms a (fun x => { x with sLast := s }) }

/-- An arm inserts n submodules by R173 to R176. -/
def insertArm (env : RdlEnv) (a : Nat) (n : Int) (acc : Rdl × List RdlFx) (sat : Nat) : Rdl × List RdlFx :=
  let r := acc.1
  let charge := decide ((armOf r a).sLast * sgn n > 0)
  let (chosen, locked) := selectSet env r a n charge
  let ins := if n > 0 then 2 else 3
  let (r1, sw, ovr) := applyChoices env.img a locked (fun i => if chosen.contains i then ins else 1) r
  ({ r1 with arms := updNth r1.arms a (fun x => { x with nIns := n }) },
    acc.2 ++ ovr.map (RdlFx.flag 6 a) ++ [RdlFx.count a sw ovr.length sat])

/-- An arm that receives BLOCK, but for a submodule under a service pulse (R181, R182, R234). -/
def blockArm (env : RdlEnv) (a : Nat) (acc : Rdl × List RdlFx) : Rdl × List RdlFx :=
  let pulse : Nat → Nat := fun i => match env.svc with
    | some (x, y, c) => if x = a && y = i then c else 0
    | none => 0
  let (r1, sw, _) := applyChoices env.img a [] pulse acc.1
  let r2 := mapArm env.img a (fun m => { m with dwell := 65535 }) r1
  ({ r2 with arms := updNth r2.arms a (fun x => { x with nIns := 0, deb := false }) },
    acc.2 ++ (if sw > 0 then [RdlFx.count a sw 0 0] else []))

/-- The loss counts of a selecting arm's inputs (R173, R177). -/
def armInputs (env : RdlEnv) (a : Nat) (acc : Rdl × List RdlFx) : Rdl × List RdlFx :=
  let x := armOf acc.1 a
  let inp := armIn env a
  let demBad := if inp.vref.v then 0 else x.demBad + 1
  let iBad := if inp.iarm.v then 0 else x.iBad + 1
  let dn := pNat env.img 0x0810
  let il := pNat env.img 0x0811
  let iAt := decide (iBad * env.tickNs ≥ il) && decide (iBad > 0)
  let big := inp.iarm.v && decide ((fxWord env.q inp.iarm).natAbs > (rp env 0x0808).natAbs)
  let y := { x with demBad := demBad, iBad := iBad, dem := if inp.vref.v then inp.vref else x.dem
                    sLast := if big then sgn inp.iarm.m else x.sLast }
  ({ acc.1 with arms := setNth acc.1.arms a y },
    acc.2 ++ (if demBad = dn then [RdlFx.flag 0 a 0] else [])
      ++ (if iAt && decide ((iBad - 1) * env.tickNs < il) then [RdlFx.flag 1 a 0] else [])
      ++ (if env.switching && (decide (demBad ≥ dn) || iAt) then [RdlFx.react a] else []))

/-- The counts an arm can insert: none negative in a half-bridge arm (R172). -/
def insertRange (env : RdlEnv) (r : Rdl) (a : Nat) : Int × Int :=
  let nav : Int := (armAvail env.img r a).length
  (if armFb env.img a then -nav else 0, nav)

/-- The first tick of a deblock soft-starts the arm (R183). -/
def deblockArm (env : RdlEnv) (a : Nat) (r : Rdl) : Rdl :=
  let r1 := if (armOf r a).deb then r else startArm env a r
  { r1 with arms := updNth r1.arms a (fun x => { x with deb := true }) }

/-- An arm that does not select: BLOCK, and its inputs neither counted nor held (R177, R182). -/
def idleArm (env : RdlEnv) (a : Nat) (acc : Rdl × List RdlFx) : Rdl × List RdlFx :=
  blockArm env a ({ acc.1 with arms := updNth acc.1.arms a (fun x => { x with demBad := 0, iBad := 0 }) }, acc.2)

/-- A selecting arm in MD_5 to MD_9 (R172). -/
def selectArm (env : RdlEnv) (a : Nat) (acc0 : Rdl × List RdlFx) : Rdl × List RdlFx :=
  let acc := armInputs env a acc0
  let r := acc.1
  let raw := if (armAvail env.img r a).isEmpty then 0 else demandCount env r a (armOf r a).dem
  let (lo, hi) := insertRange env r a
  let n := clampInt lo hi raw
  insertArm env a n (r, acc.2 ++ (if n ≠ raw then [RdlFx.flag 5 a 0] else [])) (b2n (decide (n ≠ raw)))

/-! ### Inductance run (R192, R193) -/

/-- The two arms of a leg. -/
def legArms (leg : Nat) : Nat × Nat := (2 * leg, 2 * leg + 1)

/-- The leg's mean voltage, pu of V_sm,b. -/
def legMean (env : RdlEnv) (r : Rdl) (leg : Nat) : Int :=
  let (u, l) := legArms leg
  let avu := armAvail env.img r u
  let avl := armAvail env.img r l
  let n := avu.length + avl.length
  if n = 0 then 0 else roundDiv (sumInt (avu.map (smPu env r u)) + sumInt (avl.map (smPu env r l))) n

/-- N_b for a mean voltage (R193); open where the mean is zero. -/
def legCount (env : RdlEnv) (vbar : Int) : Nat :=
  if vbar ≤ 0 then (Config.roundErr 302 [env.vdc.m, env.vdc.e]).natAbs
  else (roundDiv (fxWord env.q env.vdc * pNat env.img 0x0105) vbar.toNat).toNat

/-- ⌈n / 2⌉. -/
def halfUp (n : Nat) : Nat := (n + 1) / 2

/-- The conditions under which an inductance run starts and goes on (R192). -/
def indOk (env : RdlEnv) (r : Rdl) (leg : Nat) : Bool :=
  let (u, l) := legArms leg
  let need := halfUp (legCount env (legMean env r leg)) + halfUp (pNat env.img 0x0816)
  env.lease && env.vdc.v && decide (2 * fxWord env.q env.vdc ≥ 2 ^ env.q) && env.isol.v && decide (env.isol.m ≠ 0) &&
  r.acctOk && armOn env.img u && armOn env.img l &&
  decide ((armAvail env.img r u).length ≥ need) && decide ((armAvail env.img r l).length ≥ need)

/-- n_p of R193. -/
def indPulse (env : RdlEnv) : Nat := (roundDiv (pNat env.img 0x0817) (max env.tickNs 1)).toNat

/-- Counts of upper and lower arm in tick k (from 1) of a repeat. -/
def indCounts (env : RdlEnv) (nb k : Nat) : Int × Int :=
  let d := pNat env.img 0x0816
  let np := indPulse env
  let nu : Int := halfUp nb
  let nl : Int := nb / 2
  let du : Int := halfUp d
  let dl : Int := d / 2
  if k ≤ 8 then (nu, nl)
  else if k ≤ 8 + np then (nu - du, nl - dl)
  else if k ≤ 8 + 2 * np then (nu + du, nl + dl)
  else (nu, nl)

/-- The circulating current, pu of I_dc,b (R193). -/
def legCurrent (env : RdlEnv) (leg : Nat) : Int :=
  let (u, l) := legArms leg
  roundDiv (fxWord env.q (armIn env u).iarm + fxWord env.q (armIn env l).iarm) 2

/-- The inductance of a repeat in µH, scaled; open where the current did not change. -/
def indValue (env : RdlEnv) (vbar d : Int) : Int :=
  let vdcb := pNat env.img 0x0103
  let num : Int := vbar * 2 ^ env.q * (pNat env.img 0x0816 * vdcb * vdcb * indPulse env * env.tickNs : Nat)
  if d ≤ 0 then (Config.roundErr 301 [vbar]).natAbs
  else roundDiv num (d.toNat * max (pNat env.img 0x0105 * pNat env.img 0x0101 * 1000) 1)

/-- An identification run ends (R187, R192, R194). -/
def idEnd (stat : Nat) (r : Rdl) : Rdl × List RdlFx :=
  match r.run with
  | none => (r, [])
  | some _ => ({ r with run := none, idStat := stat, idSeq := (r.idSeq + 1) % 16, idFresh := true }, [RdlFx.flag 10 0 0])

/-- An arm of the leg under test: it inserts n submodules where its port is deblocked (R182, R193). A count beyond what the arm can insert is
clamped as R172 clamps one (DESIGN CHOICE: R193 names no clamp). -/
def legArm (env : RdlEnv) (a : Nat) (n : Int) (acc : Rdl × List RdlFx) : Rdl × List RdlFx :=
  if (armIn env a).deb then
    let acc := armInputs env a (deblockArm env a acc.1, acc.2)
    let (lo, hi) := insertRange env acc.1 a
    insertArm env a (clampInt lo hi n) acc 0
  else idleArm env a acc

/-- One tick of an inductance run (R193). -/
def indTick (env : RdlEnv) (run : IdRun) (acc : Rdl × List RdlFx) : Rdl × List RdlFx :=
  let r := acc.1
  let (u, l) := legArms run.leg
  let stop := fun (stat : Nat) =>
    let (r1, f1) := idEnd stat r
    let x := blockArm env u (r1, acc.2 ++ f1)
    blockArm env l x
  let ic := legCurrent env run.leg
  if !indOk env r run.leg then stop 4
  else if ic.natAbs > (rp env 0x0819).natAbs then stop 5
  else
    let np := indPulse env
    let k := run.tick + 1
    let run1 := if k = 1 then
        let v := legMean env r run.leg
        { run with vbar := v, nb := legCount env v } else run
    let run2 := if k = 8 then { run1 with ia := ic } else run1
    let run3 := if k = 8 + np then { run2 with ib := ic } else run2
    let run4 := if k = 8 + 2 * np then { run3 with ic := ic } else run3
    let fin := decide (k = 16 + 2 * np)
    let run5 := if fin then
        { run4 with
            tick := 0, reps := run4.reps + 1
            lsum := run4.lsum + indValue env run4.vbar ((run4.ib - run4.ia).natAbs + (run4.ic - run4.ib).natAbs) }
      else { run4 with tick := k }
    let (nu, nl) := indCounts env run5.nb k
    let acc4 := legArm env l nl (legArm env u nu acc)
    if fin && decide (run5.reps ≥ pNat env.img 0x0818) then
      let v := satNat 24 (roundDiv run5.lsum (max run5.reps 1 * 2 ^ env.q)).toNat
      let (r1, f1) := idEnd 2 acc4.1
      ({ r1 with idL := setNth r1.idL run.leg (run5.reps, v) }, acc4.2 ++ f1)
    else ({ acc4.1 with run := some run5 }, acc4.2)

/-! ### Capacitance run (R187, R188) -/

/-- The results of a capacitance run: estimates, C_a and the CAP_DEV marks (R188). -/
def capStore (env : RdlEnv) (acc : Rdl × List RdlFx) (a : Nat) : Rdl × List RdlFx :=
  let got := (List.range (armSms env.img a)).filter (fun i => (smOf acc.1 a i).run.isSome)
  let val := fun i => (smOf acc.1 a i).run.getD 0
  if got.isEmpty then acc
  else
    let ca := roundDiv (sumInt (got.map val)) got.length
    let dev := fun i => let c := val i
      decide ((fxDiv env.q c ca - 2 ^ env.q).natAbs > (rp env 0x0815).natAbs)
    let r1 := (List.range (armSms env.img a)).foldl (fun r i =>
      let m := smOf r a i
      { r with sms := tabSet Sm.fresh r.sms (smKey a i) { m with est := m.run.getD 0, dev := got.contains i && dev i } }) acc.1
    ({ r1 with arms := updNth r1.arms a (fun x => { x with cCount := min got.length 1023, cVal := ca }) },
      acc.2 ++ (got.filter dev).map (fun i => RdlFx.flag 9 a i))

/-- A capacitance run still in progress ends at exit from MD_4 (R187). -/
def capExit (env : RdlEnv) (r : Rdl) : Rdl × List RdlFx :=
  let any := (armsOn env.img).any (fun a => (List.range (armSms env.img a)).any (fun i => (smOf r a i).run.isSome))
  match r.run with
  | some run =>
    if !run.cap then (r, [])
    else
      let any := decide (0 < run.tick) && any
      let (r1, f1) := idEnd (if any then 3 else 4) r
      if any then (armsOn env.img).foldl (capStore env) (r1, f1) else (r1, f1)
  | none => (r, [])

/-- C_i of R187 in 0.1 µF, scaled: the charge over the rise. -/
def capValue (env : RdlEnv) (qsum dv : Int) : Int :=
  let vdcb := pNat env.img 0x0103
  roundDiv (qsum * (env.tickNs * pNat env.img 0x0101 * pNat env.img 0x0105 : Nat) * 2 ^ env.q) (dv.toNat * max (vdcb * vdcb * 100) 1)

/-- One arm in one tick of a capacitance run: charge, and the estimates that end. -/
def capArm (env : RdlEnv) (acc : Rdl × IdRun) (a : Nat) : Rdl × IdRun :=
  let (r, run) := acc
  let i := fxWord env.q (armIn env a).iarm
  let qa := nth 0 run.q a + (if armFb env.img a then (i.natAbs : Int) else max i 0)
  let step := fun (r : Rdl) (k : Nat) =>
    let m0 := smOf r a k
    let m := if run.tick = 0 then { m0 with start := m0.code, run := none } else m0
    let dv := codePu env a m.code - codePu env a m.start
    let ends := m.run.isNone && decide (dv > 0) && decide (dv ≥ rp env 0x0814)
    { r with sms := tabSet Sm.fresh r.sms (smKey a k) (if ends then { m with run := some (capValue env qa dv) } else m) }
  ((List.range (armSms env.img a)).foldl step r, { run with q := setNth run.q a qa })

/-- One tick of a capacitance run. -/
def capTick (env : RdlEnv) (run : IdRun) (acc : Rdl × List RdlFx) : Rdl × List RdlFx :=
  let arms := armsOn env.img
  let bad := arms.any (fun a => !(armIn env a).iarm.v || (armIn env a).set.isNone)
  if bad then
    let (r, f) := idEnd 4 acc.1
    (r, acc.2 ++ f)
  else
    let (r1, run1) := arms.foldl (capArm env) (acc.1, run)
    let left := arms.any (fun a => (armAvail env.img r1 a).any (fun i => !(smOf r1 a i).unknown && (smOf r1 a i).run.isNone))
    if left then ({ r1 with run := some { run1 with tick := run1.tick + 1 } }, acc.2)
    else
      let (r2, f) := idEnd 2 r1
      arms.foldl (capStore env) (r2, acc.2 ++ f)

/-- A run starts (R187, R192). -/
def idStart (cap : Bool) (leg : Nat) (r : Rdl) : Rdl :=
  { r with run := some ⟨cap, leg, 0, List.replicate 6 0, 0, 0, 0, 0, 0, 0, 0⟩, idStat := 1, idKind := if cap then 1 else 2 }

/-! ### The energy account (R178 to R180) -/

/-- C_a in 0.1 µF, scaled (R178). -/
def armCap (env : RdlEnv) (cs : List Arm) (a : Nat) : Int :=
  let x := nth Arm.reset cs a
  if pNat env.img 0x0812 = 1 && decide (x.cCount ≠ 0) then x.cVal else pBfpAt env.q env.img 0x0804 a * 10000000

/-- ½ C v² / S_b for a sum of squares scaled by 2^(2q). -/
def armEnergy (env : RdlEnv) (c : Int) (sumsq : Int) : Int :=
  let vdcb := pNat env.img 0x0103
  let nn := pNat env.img 0x0105
  roundDiv (sumsq * c * (vdcb * vdcb : Nat)) (max (20000000 * pNat env.img 0x0101 * nn * nn * 2 ^ (2 * env.q)) 1)

/-- W_a and W_nom,a of every enabled arm, with the capacitances in force before this tick (R178). -/
def armAccount (env : RdlEnv) (cs : List Arm) (r : Rdl) (a : Nat) : Rdl :=
  let av := armAvail env.img r a
  let c := armCap env cs a
  let sq := sumInt (av.map (fun i => let v := smPu env r a i; v * v))
  { r with arms := updNth r.arms a (fun x => { x with
      w := armEnergy env c sq, wnom := armEnergy env c ((av.length : Int) * 2 ^ (2 * env.q)) }) }

/-- The account of the tick (R179, R180). -/
def account (env : RdlEnv) (cs : List Arm) (acc : Rdl × List RdlFx) : Rdl × List RdlFx :=
  let q := env.q
  let arms := armsOn env.img
  let r := arms.foldl (armAccount env cs) acc.1
  let wn := sumInt (arms.map (fun a => (armOf r a).wnom))
  let ws := sumInt (arms.map (fun a => (armOf r a).w))
  let ratios := arms.filterMap (fun a => if (armOf r a).wnom > 0 then some (fxDiv q (armOf r a).w (armOf r a).wnom) else none)
  let low := match ratios with
    | [] => 0
    | x :: xs => xs.foldl min x
  let w := if pNat env.img 0x080C = 0 then ws else fxMul q wn low
  let all := arms.all (fun a => (armIn env a).set.isSome)
  let need := r.needSet && !all
  let ok := !need && arms.all (fun a => armValid env.img r a && !(armAvail env.img r a).isEmpty)
  ({ r with acctW := w, acctN := wn, acctOk := ok, needSet := need, acctInv := !ok },
    if !ok && !r.acctInv then acc.2 ++ [RdlFx.flag 3 0 0] else acc.2)

/-! ### The precharge sequence (R189, R190) -/

/-- A change of the sequence's state restarts its timer and window. -/
def preGo (new cause : Nat) (p : Pre) : Pre × List RdlFx :=
  ({ p with state := new, cause := if new = 5 then cause else p.cause, run := 0, hist := [], relPend := false },
    [RdlFx.preState p.state new cause])

/-- The sequence fails (R189). -/
def preFail (cause : Nat) (p : Pre) : Pre × List RdlFx :=
  let (p1, f) := preGo 5 cause p
  (p1, f ++ [RdlFx.outputs false false, RdlFx.flag 13 0 0])

/-- The sequence at a change of mode (R189); `release` is whether the unit releases into MD_3. -/
def preMode (old new : Nat) (release : Bool) (p : Pre) : Pre × List RdlFx :=
  if new = 4 && old ≠ 4 && p.state = 0 then
    let (p1, f) := preGo 1 0 { p with acctBad := 0 }
    (p1, f ++ [RdlFx.outputs true false])
  else if p.state = 4 && old = 4 && (new = 5 || new = 6 || new = 7) then preGo 6 0 p
  else if p.state = 6 && old = 6 && new = 4 then preGo 4 0 { p with acctBad := 0 }
  else if p.state ≠ 0 && (new = 2 || new = 3 || new = 10 || new = 0) then
    let (p1, f) := preGo 0 0 p
    if p.state = 6 && release && new = 3 then ({ p1 with relPend := true }, f)
    else (p1, f ++ [RdlFx.outputs false false])
  else (p, [])

/-- HOLDER reached with a restore into MD_5 to MD_9. -/
def preHold (p : Pre) : Pre × List RdlFx :=
  if p.state = 0 then
    let (p1, f) := preGo 6 0 p
    (p1, f ++ [RdlFx.outputs true true])
  else (p, [])

/-- One tick of the sequence in MD_4. -/
def preTick (env : RdlEnv) (r : Rdl) : Pre × List RdlFx :=
  let q := env.q
  let arms := armsOn env.img
  let means := (List.range 6).map (fun a => if armOn env.img a then armMean env r a else 0)
  let vs := arms.map (fun a => nth 0 means a)
  let vmin := match vs with
    | [] => 0
    | x :: xs => xs.foldl min x
  let p0 := { r.pre with vmin := vmin }
  if env.mode ≠ 4 || p0.state = 0 || p0.state = 5 || p0.state = 6 then (p0, [])
  else
    let w1 := 100000000 / max env.tickNs 1
    let w2 := pNat env.img 0x011D * 1000000 / max env.tickNs 1
    let p := { p0 with run := p0.run + 1, hist := (means :: p0.hist).take (max w1 w2 + 1)
                       acctBad := if r.acctOk then 0 else p0.acctBad + 1 }
    let ago := fun (n : Nat) => p.hist[n]?
    if arms.any (fun a => (armOf r a).short) then preFail 2 p
    else if p.acctBad * env.tickNs > pNat env.img 0x080E then preFail 3 p
    else match p.state with
    | 1 =>
      let settled := match ago w1 with
        | some old => match arms.map (fun a => nth 0 old a) with
          | [] => false
          | x :: xs => decide (vmin - xs.foldl min x < fxRat q 1 100)
        | none => false
      if decide (vmin ≥ rp env 0x011B) && settled then
        let (p1, f) := preGo 2 0 p
        (p1, f ++ [RdlFx.outputs true true])
      else (p, [])
    | 2 =>
      if pNat env.img 0x011A = 16 || env.bypIn = some true then preGo 3 0 p
      else if p.run * env.tickNs ≥ pNat env.img 0x011E * 1000000 then preFail 1 p
      else (p, [])
    | 3 =>
      let settled := match ago w2 with
        | some old => arms.all (fun a => decide ((nth 0 means a - nth 0 old a).natAbs < (fxRat q 5 1000).natAbs))
        | none => false
      if decide (vmin ≥ rp env 0x011C) && settled then
        let (p1, f) := preGo 4 0 p
        (p1, f ++ [RdlFx.flag 12 0 0])
      else (p, [])
    | _ => if vmin < rp env 0x011C then preGo 3 0 p else (p, [])

/-! ### The capture of R198 -/

/-- The words of a capture of arm a, submodule i. -/
def smCapture (env : RdlEnv) (r : Rdl) (a i : Nat) : SmCap :=
  if a < 6 && armOn env.img a && i < armSms env.img a then
    let m := smOf r a i
    let v := satNat 16 (alignBy (smPu env r a i) (14 - (env.q : Int))).toNat
    let reason := smReason r a i
    let st := if reason ≠ 0 then 2 else b2n m.unknown
    ⟨v * 2 ^ 16 + min m.age 255 * 2 ^ 8 + m.choice * 2 ^ 6 + b2n m.dev * 2 ^ 5 + st * 2 ^ 3 + reason,
      satNat 32 (alignBy m.est (-(env.q : Int))).toNat, m.changes⟩
  else ⟨3 * 2 ^ 3, 0, 0⟩

/-! ### One tick -/

/-- Shortage of an arm (R182). -/
def armShort (env : RdlEnv) (acc : Rdl × List RdlFx) (a : Nat) : Rdl × List RdlFx :=
  let short := decide ((armAvail env.img acc.1 a).length < pNatAt env.img 0x0805 a)
  let was := (armOf acc.1 a).short
  let forming := decide (5 ≤ env.mode) && decide (env.mode ≤ 9)
  ({ acc.1 with arms := updNth acc.1.arms a (fun x => { x with short := short }) },
    acc.2 ++ (if short && !was then [RdlFx.flag 7 a 0] else []) ++ (if short && forming then [RdlFx.react a] else []))

/-- Whether the arm selects in this tick under R172 (MD_5 to MD_9). -/
def selecting (env : RdlEnv) (a : Nat) : Bool := decide (5 ≤ env.mode) && decide (env.mode ≤ 9) && (armIn env a).deb

/-- Choices of one arm outside an inductance run. -/
def armStep (env : RdlEnv) (skip : Nat → Bool) (acc : Rdl × List RdlFx) (a : Nat) : Rdl × List RdlFx :=
  if skip a then acc
  else if selecting env a then
    selectArm env a (deblockArm env a acc.1, acc.2)
  else idleArm env a acc

/-- Whether the engine runs in a mode (R181). -/
def rdlRuns (mode : Nat) : Bool := mode ≠ 0 && mode ≠ 1 && mode ≠ 3

/-- Phase D of one tick. -/
def rdlTick (env : RdlEnv) (r0 : Rdl) : Rdl × List RdlFx :=
  if !rdlRuns env.mode then ({ r0 with acctOk := false }, [])
  else
    let arms := armsOn env.img
    let cs := r0.arms
    let r1 := if r0.start then arms.foldl (fun r a => startArm env a r) { r0 with start := false } else r0
    let r2 := arms.foldl (fun r a => ageArm env.img a r) r1
    let acc3 := r2.cmds.foldl (smHost env.img) ({ r2 with cmds := [] }, [])
    let acc4 := arms.foldl (armUplink env) acc3
    let acc5 := arms.foldl (armShort env) acc4
    let acc6 := match acc5.1.run with
      | some run =>
        if run.cap then arms.foldl (armStep env (fun _ => false)) (if env.mode = 4 then capTick env run acc5 else acc5)
        else
          let (u, l) := legArms run.leg
          indTick env run (arms.foldl (armStep env (fun a => a = u || a = l)) acc5)
      | none => arms.foldl (armStep env (fun _ => false)) acc5
    let acc7 := account env cs acc6
    let (p, f8) := preTick env acc7.1
    let r8 := { acc7.1 with pre := p }
    let r9 := match r8.sel with
      | some (a, i) => { r8 with sel := none, cap := some (smCapture env r8 a i), capSeq := (r8.capSeq + 1) % 16 }
      | none => r8
    (r9, acc7.2 ++ f8)

/-- The SRC subtype 3 words (R171): endpoint, INDEX and word. -/
def rdlOutputs (env : RdlEnv) (r : Rdl) : List (Nat × Nat × SigW) :=
  let q := env.q
  let on := rdlRuns env.mode
  let arm := fun (a : Nat) =>
    let av := armAvail env.img r a
    let vs := av.map (smPu env r a)
    let v := on && armValid env.img r a
    let x := armOf r a
    let hi := vs.foldl max 0
    let lo := match vs with
      | [] => 0
      | y :: ys => ys.foldl min y
    [ (0, a, fxOut q (if x.wnom > 0 then fxDiv q x.w x.wnom else 0) 1 v),
      (1, a, fxOut q (fxDiv q (sumInt vs) ((pNat env.img 0x0105 : Int) * 2 ^ q)) 1 v),
      (2, a, fxOut q (armMean env r a) 1 v),
      (3, a, fxOut q (hi - lo) 1 v),
      (4, a, ⟨av.length, 31, v⟩),
      (5, a, ⟨x.nIns, 31, v⟩) ]
  (armsOn env.img).flatMap arm ++
    [(6, 0, fxOut q r.acctW 0 (on && r.acctOk)), (7, 0, fxOut q r.acctN 0 (on && r.acctOk))]

/-- Soft-start events of the engine (R183): reset, mismatch, restore. -/
def rdlSoftStart (r : Rdl) : Rdl := { r with start := true }

end Sys2Proof.Machine
end

