-- ==== Sys2Proof/Machine/Cord.lean ====
section
/-!
DEFINITION. Lanes, training, ports and lane maps of the Cord links (chapter Cord valve links, R199 to R216, R230, R231).
-/
namespace Sys2Proof.Machine

/-! ### Access -/

/-- Lane n, valve or partner. -/
def laneOf (s : State) (n : Nat) : Lane := nth Lane.off s.crd.lanes n

/-- Lane n changed. -/
def updLane (s : State) (n : Nat) (f : Lane → Lane) : State := { s with crd := { s.crd with lanes := updNth s.crd.lanes n f } }

/-- Valve port p. -/
def portOf (s : State) (p : Nat) : Port := nth Port.off s.crd.ports p

/-- Valve port p changed. -/
def updPort (s : State) (p : Nat) (f : Port → Port) : State := { s with crd := { s.crd with ports := updNth s.crd.ports p f } }

/-- Lane numbers of a port (R199). -/
def portLanes (p : Nat) : List Nat := (List.range 8).map (8 * p + ·)

/-- The lanes of a port that carry a slice of its map (R213). -/
def mappedLanes (s : State) (p : Nat) : List Nat := (portLanes p).filter (fun n => (laneOf s n).count ≠ 0)

/-- BAR0 offset of CRD_LANE_CFG_n. -/
def laneCfgA (n : Nat) : Nat := 0xD1000 + 0x10 * n

/-- The port is used (R199). -/
def portUsed (s : State) (p : Nat) : Bool := p < 6 && armOn (imgOf s) p

/-- Training runs in the mode (R206). -/
def trainMode (m : Mode) : Bool := m = .md2 || decide (4 ≤ m.code)

/-- The lane is enabled: LANE_EN of its port and no DISABLE; a partner lane where the unit is one of a pair (R199, R211, R342). -/
def laneOn (s : State) (n : Nat) : Bool :=
  if n < 48 then
    portUsed s (n / 8) && (pNatAt (imgOf s) 0x0901 (n / 8)).testBit (n % 8) && !bit (regGet s (laneCfgA n)) 0
  else pairUnit s

/-- Character time in ps (R200). -/
def charPs (gen : Nat) : Nat := if gen ≤ 1 then 8000 else if gen = 2 then 3200 else 1600

/-- Weight of a generation in the lane map (R213). -/
def genWeight (gen : Nat) : Nat := if gen ≤ 1 then 2 else if gen = 2 then 5 else 10

/-- t_lead of a generation in ps (R200). -/
def leadPs (gen : Nat) : Nat := if gen ≤ 1 then 3200000 else if gen = 2 then 1900000 else 1400000

/-- t_SW in ps: T_SW cycles of CK_PWM (R31). -/
def tSwPs (s : State) : Nat := (roundDiv (pNat (imgOf s) 0x0107 * 3125) 4).toNat

/-- Length rounded up to a multiple of 4. -/
def pad4 (n : Nat) : Nat := (n + 3) / 4 * 4

/-- Characters of the downlink frame for a slice (R217, R218). -/
def downChars (fb : Bool) (count : Nat) : Nat := 28 + pad4 ((count * (if fb then 4 else 2) + 7) / 8)

/-- Characters of the uplink frame for a slice (R220). -/
def upChars (count : Nat) : Nat := 24 + pad4 (3 * count)

/-- Rounded to the 100 ps grid of R209 from k units of 1/d ps. -/
def grid100 (x : Int) (d : Nat) : Nat := (roundDiv x (100 * d) * 100).toNat

/-! ### What leaves on a lane (R202, R203) -/

/-- Characters leave on a lane, coded from the running disparity after all that has left it before. -/
def laneSend (s : State) (n : Nat) (chars : List Sym) : State :=
  let x := encodeSyms (nth false s.txRd n) chars
  { send s (.lane n chars x.1) with txRd := setNth s.txRd n x.2 }

/-- A lane's transmitter starts anew with negative disparity (PRESUMED, as IEEE 802.3 has it). -/
def txAnew (s : State) (n : Nat) : State := { s with txRd := setNth s.txRd n false }

/-- An ordered set leaves on a lane. -/
def setSend (s : State) (n type a b : Nat) : State := laneSend s n (setSyms type a b)

/-- k delay requests leave on a lane, each with the next exchange number (R209). -/
def delayAsk (s : State) (n k : Nat) : State :=
  let e := (laneOf s n).exch
  (List.range k).foldl (fun s i => setSend s n setDlyReq ((e + 1 + i) % 256) (n % 8)) (updLane s n (fun l => { l with exch := (e + k) % 256 }))

/-! ### Lane states (R211) -/

/-- A lane changes state, with its entry in the event log. -/
def laneGo (s : State) (n new : Nat) : State :=
  if (laneOf s n).state = new then s
  else
    let s := updLane s n (fun l => { l with state := new })
    logNow s fnCRD 0x80 (argAt 0 n + argAt 1 new + argAt 2 (laneOf s n).cause)

/-- Generation of R201. -/
def laneGen (s : State) (n maxGen : Nat) : Nat :=
  let img := imgOf s
  if n < 48 then
    let cap := regF s (laneCfgA n) 3 2
    min maxGen (min (pNatAt img 0x0903 n) (if cap = 0 then 3 else cap))
  else min maxGen (pNat img 0x0E08)

/-! ### Management packets (R225 to R227) -/

/-- Bytes of a packet: header, data and CRC (R225); `ack` is the last SEQ received. -/
def packetBytes (p : Packet) (ack : Nat) (nak : Bool) : List Byte :=
  let body := leBytes 1 p.type ++ leBytes 1 p.seq ++ leBytes 1 ack ++ leBytes 1 (b2n nak) ++ leBytes 2 p.tag
    ++ leBytes 2 p.data.length ++ padTo (pad4 p.data.length) p.data
  body ++ leBytes 4 (crc32c body)

/-- The characters of a packet between its SOM, with its length in words, and its EOM (R225). -/
def packetChars (p : Packet) (ack : Nat) (nak : Bool) : List Sym :=
  let bs := packetBytes p ack nak
  setSyms setSOM (bs.length / 4) 0 ++ bs.map Sym.data ++ setSyms setEOM 0 0

/-- A lane in a state in which packets travel: from T1 to ACTIVE, and in WAKE. -/
def mgtLit (l : Lane) : Bool := (decide (2 ≤ l.state) && decide (l.state ≤ 7)) || l.state = 10

/-- A packet leaves on a lane; its ACK field acknowledges what has arrived (R227). -/
def mgtOut (s : State) (n : Nat) (p : Packet) (nak : Bool) : State :=
  let l := laneOf s n
  if mgtLit l then laneSend (updLane s n (fun l => { l with ackWait := none })) n (packetChars p l.rxSeq nak) else s

/-- An ACK-only packet answers what has arrived (R227). -/
def mgtAck (s : State) (n : Nat) (nak : Bool) : State := mgtOut s n ⟨0, (laneOf s n).txSeq, 0, [], 0, false⟩ nak

/-- A packet is handed to a lane's channel under the channel's next number. It leaves at once where no packet is outstanding, and waits behind
the outstanding one else (R226), the packets of training before the requests of the host. -/
def mgtPut (s : State) (n : Nat) (q : Packet) : State :=
  let l := laneOf s n
  let p := { q with seq := l.txSeq }
  let wait := l.mgt.drop 1
  let queue := if q.type = 4 then l.mgt ++ [p]
    else l.mgt.take 1 ++ wait.filter (fun x => x.type ≠ 4) ++ p :: wait.filter (fun x => x.type = 4)
  let s1 := updLane s n (fun l => { l with mgt := queue, txSeq := (l.txSeq + 1) % 256 })
  if l.mgt.isEmpty then mgtOut s1 n p false else s1

/-- A new packet for a lane's channel. -/
def mgtPost (s : State) (n type tag : Nat) (data : List Byte) : State := mgtPut s n ⟨type, 0, tag, data, 0, false⟩

/-- A host request ends (R228). -/
def reqEnd (s : State) (p : Nat) (status : Nat) (data : List Byte) : State :=
  let s := updPort s p (fun x => { x with req := none })
  { s with crd := { s.crd with mgtStat := status, mgtData := data, mgtFresh := true } }

/-- The first packet of a lane's queue leaves. One that has left before leaves under the same number and counts a retry; where its retries are
used up, the channel fails for it, and the next one takes its place (R226). -/
def mgtFlush : Nat → State → Nat → State
  | 0, s, _ => s
  | k + 1, s, n =>
    match (laneOf s n).mgt with
    | [] => s
    | p :: ps =>
      if !p.again then mgtOut s n p false
      else if p.retries < pNat (imgOf s) 0x090C then
        let p1 := { p with retries := p.retries + 1, again := false }
        let s := updLane s n (fun l => { l with mgt := p1 :: ps })
        let s := if p.type = 4 then { s with crd := { s.crd with mgtRetr := p1.retries } } else s
        mgtOut s n p1 false
      else
        let s := raise s fnCRD 12 (n / 8) n
        let s := if p.type = 4 then reqEnd s (n / 8) 3 [] else s
        mgtFlush k (updLane s n (fun l => { l with mgt := ps })) n

/-- The first packet of a lane's queue leaves, whatever the queue holds. -/
def mgtLeave (s : State) (n : Nat) : State := mgtFlush (laneOf s n).mgt.length s n

/-- The outstanding packet of a lane is done with and the next one leaves (R226). -/
def mgtNext (s : State) (n : Nat) : State := mgtLeave (updLane s n (fun l => { l with mgt := l.mgt.drop 1 })) n

/-- The outstanding packet of a lane, marked to leave again. -/
def mgtAgain : List Packet → List Packet
  | [] => []
  | p :: ps => { p with again := true } :: ps

/-- The outstanding packet is sent again, or its channel fails for it (R226). -/
def mgtResend (s : State) (n : Nat) : State := mgtLeave (updLane s n (fun l => { l with mgt := mgtAgain l.mgt })) n

/-- A packet that has been received before is acknowledged again and not delivered again (R226). -/
def mgtSeen (s : State) (n : Nat) (seq : Byte) : Bool := (laneOf s n).rxSeq = seq.toNat

/-- The requests of a lane's queue leave it, and what waited behind an outstanding one is sent. -/
def mgtShed (s : State) (n : Nat) : State :=
  let first := (laneOf s n).mgt.head?.any (fun q => q.type = 4)
  let s := updLane s n (fun l => { l with mgt := l.mgt.filter (fun q => q.type ≠ 4), held := [] })
  if first then mgtLeave s n else s

/-- The lane that carries a port's channel once it is up: its lowest-numbered ACTIVE lane (R225). -/
def mgtLane (s : State) (p : Nat) : Option Nat := (portLanes p).find? (fun n => (laneOf s n).state = 7)

/-- The requests of a port in service that stand on another lane move to the lane of its channel (R225). One that has left before keeps its number
and counts a retry when it leaves again there (R226). -/
def mgtGather (s : State) (p : Nat) : State :=
  match mgtLane s p with
  | none => s
  | some n =>
    let qs := (portLanes p).flatMap (fun k =>
      (laneOf s k).held ++ (if k = n then [] else (mgtAgain (laneOf s k).mgt).filter (fun q => q.type = 4)))
    if qs.isEmpty then s
    else
      let s := (portLanes p).foldl (fun s k => if k = n then updLane s k (fun l => { l with held := [] }) else mgtShed s k) s
      let idle := (laneOf s n).mgt.isEmpty
      let s := updLane s n (fun l => { l with mgt := l.mgt ++ qs })
      if idle then mgtLeave s n else s

/-! ### Leaving service and entering it (R211) -/

/-- What a lane forgets when it leaves service: the packets of its training, its open exchange, its uplink and its receiver's alignment. A
request of the host stands until it ends. -/
def laneClear (l : Lane) : Lane :=
  { l with mgt := [], held := l.held ++ (mgtAgain l.mgt).filter (fun q => q.type = 4), ackWait := none, peer := none, ownAck := 0
           exchOut := false, upOk := false, bad := 0, drift := false, eyeLow := false, eyeLowV := false, fill := 32, rxRd := none
           rx := Received.none, prbs := none }

/-- A lane starts training at T0, with the cause CAUSE shows. -/
def laneT0 (s : State) (n cause : Nat) : State :=
  let s := updLane s n (fun l => { laneClear l with gen := 1, cause := cause })
  let s := if (laneOf s n).state = 1 then s else laneGo s n 1
  setSend s n setTS1 1 (n % 8)

/-- A lane becomes ABSENT (R206). -/
def laneAbsent (s : State) (n cause : Nat) : State :=
  let s := updLane s n (fun l => { laneClear l with gen := 0, cause := cause })
  raise (laneGo s n 8) fnCRD 0 (n / 8) n

/-- A lane goes OFF: its transmitter is dark. -/
def laneOff (s : State) (n : Nat) : State :=
  laneGo (updLane (txAnew s n) n (fun l => { laneClear l with gen := 0, offReq := false })) n 0

/-- A lane reaches READY, which ends its retry schedule. -/
def laneReady (s : State) (n : Nat) : State := laneGo (updLane s n (fun l => { l with retries := 0 })) n 5

/-! ### Lane map (R213, R214) -/

/-- The shares of a port's submodules, by lane in ascending number. -/
def mapShares (total : Nat) (ws : List (Nat × Nat)) : List (Nat × Nat) :=
  let w := ws.foldl (fun a x => a + x.2) 0
  let base := ws.map (fun x => (x, if w = 0 then 0 else total * x.2 / w))
  let rest := total - base.foldl (fun a x => a + x.2) 0
  let order := [10, 5, 2].flatMap (fun k => (ws.filter (fun x => x.2 = k)).map (·.1))
  let extra := order.take rest
  base.map (fun x => (x.1.1, x.2 + b2n (extra.contains x.1.1)))

/-- The slices, contiguous and in ascending lane number: lane, first submodule and count. -/
def mapSlices : Nat → List (Nat × Nat) → List (Nat × Nat × Nat)
  | _, [] => []
  | f, (n, c) :: l => (n, f, c) :: mapSlices (f + c) l

/-- The frames of a slice fit the tick in both directions, with 100 characters to spare (R214). -/
def sliceFits (s : State) (fb : Bool) (gen count : Nat) : Bool :=
  let c := tickNs s * 1000 / charPs gen
  decide (downChars fb count + 100 ≤ c) && decide (upChars count + 100 ≤ c)

/-- Data of a MAP packet (R227). -/
def mapData (s : State) (p : Nat) : List Byte :=
  leBytes 1 (portOf s p).mapId ++ zeros 3 ++
    (portLanes p).flatMap (fun n => leBytes 2 (if (laneOf s n).count = 0 then 0 else (laneOf s n).first) ++ leBytes 2 (laneOf s n).count)

/-- A port changes state, with its entry in the event log. -/
def portGo (s : State) (p new : Nat) : State :=
  if (portOf s p).state = new then s
  else
    let s := updPort s p (fun x => { x with state := new })
    logNow s fnCRD 0x81 (argAt 0 p + argAt 1 new + argAt 2 (portOf s p).cause)

/-- A port goes DOWN with a cause: 1 LANES, 2 BANDWIDTH. -/
def portDown (s : State) (p cause : Nat) : State :=
  portGo (updPort s p (fun x => { x with cause := cause, upset := false, carry := false })) p 1

/-- A port enters MAPPING, or maps again there: ACTIVE lanes go back to READY, the map is computed over the READY lanes and sent, and
where too few lanes are READY or a frame does not fit, the port is DOWN (R212 to R214). -/
def portMap (s : State) (p : Nat) : State :=
  let s := (portLanes p).foldl (fun s n => if (laneOf s n).state = 7 then laneGo s n 5 else s) s
  let s := portGo (updPort s p (fun x =>
    { x with mapId := if x.mapId ≥ 255 then 1 else x.mapId + 1, epoch := 0, upset := false, carry := false, lp := 0 })) p 3
  let img := imgOf s
  let cand := (portLanes p).filter (fun n => (laneOf s n).state = 5 || (laneOf s n).state = 6)
  let shares := mapShares (armSms img p) (cand.map (fun n => (n, genWeight (laneOf s n).gen)))
  let slices := mapSlices 0 shares
  let fits := slices.all (fun x => sliceFits s (armFb img p) (laneOf s x.1).gen x.2.2)
  if cand.length < pNatAt img 0x0902 p || !fits then
    let s := cand.foldl (fun s n => laneGo s n 5) s
    portDown ((portLanes p).foldl (fun s n => updLane s n (fun l => { l with count := 0, first := 0 })) s) p 2
  else
    let s := (portLanes p).foldl (fun s n => updLane s n (fun l => { l with count := 0, first := 0, upOk := false })) s
    let s := slices.foldl (fun s x => updLane s x.1 (fun l => { l with first := if x.2.2 = 0 then 0 else x.2.1, count := x.2.2 })) s
    let s := updPort s p (fun x =>
      { x with dp := ((mappedLanes s p).map (fun n => (laneOf s n).dl)).foldl max 0 })
    cand.foldl (fun s n =>
      if (laneOf s n).count = 0 then laneGo s n 5
      else mgtPost (laneGo s n 6) n 2 0 (mapData s p)) s

/-! ### Port states (R212) -/

/-- D_p of a port in ps (R215). -/
def portDp (s : State) (p : Nat) : Nat := ((mappedLanes s p).map (fun n => (laneOf s n).dl)).foldl max 0

/-- Slowest mapped generation of a port, over the mapped lanes that have one: a lane that retrains runs at none. -/
def portGen (s : State) (p : Nat) : Nat :=
  (((mappedLanes s p).filter (fun n => (laneOf s n).state = 7)).map (fun n => (laneOf s n).gen)).foldl min 3

/-- D_p + t_lead exceeds t_SW (R31). -/
def overBudget (s : State) (p : Nat) : Bool := decide (portDp s p + leadPs (portGen s p) > tSwPs s)

/-- L_p (R222). -/
def portLp (s : State) (p : Nat) : Nat :=
  let t := max 1 (tickNs s * 1000)
  let upl := leAt (portOf s p).cap 0x0E 2 * 1000
  let one := fun n =>
    let l := laneOf s n
    (tSwPs s + upl + l.dl + upChars l.count * charPs l.gen + 100000 + t - 1) / t
  max 1 (min 4 (((mappedLanes s p).map one).foldl max 1))

/-- A lane of the port sends the PRBS pattern, so that the port is not UP (R237). -/
def portPrbs (s : State) (p : Nat) : Bool := (portLanes p).any (fun n => (laneOf s n).state = 11)

/-- A READY lane that would enter the map. -/
def readyLane (s : State) (p : Nat) : Bool := (portLanes p).any (fun n => (laneOf s n).state = 5)

/-- One row of R212 that depends on the lanes and the delays alone; `again` where one was taken. -/
def portStep (s : State) (p : Nat) : State × Bool :=
  let x := portOf s p
  let ls := (portLanes p).map (laneOf s)
  let mapped := ls.filter (fun l => l.count ≠ 0)
  let on := (portLanes p).filter (laneOn s)
  if x.state = 2 then
    if on.all (fun n => (laneOf s n).state = 5 || (laneOf s n).state = 8) && readyLane s p && !portPrbs s p then (portMap s p, true)
    else (s, false)
  else if x.state = 3 then
    if s.sys.mode = .md3 || ls.any (fun l => l.state = 10 || l.state = 9) then (s, false)
    else if mapped.any (fun l => l.state ≠ 6 && l.state ≠ 7) then (portMap s p, true)
    else if !mapped.isEmpty && mapped.all (fun l => l.state = 7) then
      let s := updPort s p (fun x => { x with lp := portLp s p, dp := portDp s p })
      (raise (portGo s p (if overBudget s p then 5 else 4)) fnCRD 2 p 0, false)
    else (s, false)
  else if x.state = 4 || x.state = 5 then
    if portPrbs s p || mapped.all (fun l => l.state ≠ 7) then (raise (portDown s p 1) fnCRD 1 p 0, false)
    else if !x.carry && (mapped.any (fun l => l.state ≠ 7) || (readyLane s p && decide (mapped.length < armSms (imgOf s) p))) then
      (portMap s p, true)
    else
      let s := updPort s p (fun x => { x with dp := portDp s p })
      if x.state = 4 && overBudget s p then
        let s := raise (portGo s p 5) fnCRD 3 p 0
        (if x.carry then blockRelease s else s, false)
      else if x.state = 5 && !overBudget s p then (portGo s p 4, false)
      else (s, false)
  else if x.state = 6 then
    if s.sys.mode = .md3 || ls.any (fun l => l.state = 10 || l.state = 9) then (s, false)
    else if !mapped.isEmpty && mapped.all (fun l => l.state = 7) then (portGo s p (if overBudget s p then 5 else 4), true)
    else
      ((portLanes p).foldl (fun s n => if (laneOf s n).state = 7 then laneReady s n else s) (portGo s p 2), true)
  else (s, false)

/-- The rows of R212 are taken until none applies. -/
def portEval : Nat → State → Nat → State
  | 0, s, _ => s
  | k + 1, s, p =>
    let (s1, again) := portStep s p
    if again then portEval k s1 p else s1

/-- A port is judged again after a change. -/
def portJudge (s : State) (p : Nat) : State :=
  if p < 6 then
    let s := portEval 12 s p
    if (portOf s p).state = 4 || (portOf s p).state = 5 then mgtGather s p else s
  else s

/-- A record is not the one that the first lane of the port to finish T1 had accepted (R208). -/
def crossed (s : State) (p : Nat) (r : List Byte) : Bool :=
  decide ((portOf s p).cap ≠ []) && decide (leAt (portOf s p).cap 0x3C 4 ≠ leAt r 0x3C 4)

/-- T1 fails for a fibre in the wrong port (R208). -/
def laneCross (s : State) (n : Nat) : State := portJudge (raise (laneAbsent s n 7) fnCRD 11 (n / 8) n) (n / 8)

/-- T1 ends once the other end's record is accepted and both parts of the own one are acknowledged (R211). The record of the first lane of a
valve port to finish is the port's, and another one fails T1 with CROSS (R208). -/
def laneT1 (s : State) (n : Nat) : State :=
  let l := laneOf s n
  match l.peer with
  | some r =>
    if l.state ≠ 2 || l.ownAck ≠ 2 then s
    else if n < 48 && crossed s (n / 8) r then laneCross s n
    else
      let s := if n < 48 && decide ((portOf s (n / 8)).cap = []) then updPort s (n / 8) (fun x => { x with cap := r }) else s
      laneGo (updLane s n (fun l => { l with gen := laneGen s n (leAt r 3 1) })) n 3
  | none => s

/-- The outstanding packet of a lane is acknowledged. -/
def mgtPop (s : State) (n : Nat) : State :=
  let own := ((laneOf s n).mgt.head?.map (·.type)) = some 1
  laneT1 (mgtNext (updLane s n (fun l => { l with ownAck := l.ownAck + b2n own })) n) n

/-- A packet of the other end has arrived under number `seq` and acknowledges `ack`: its own acknowledgement is due (R226, R227). -/
def mgtGot (s : State) (n : Nat) (seq ack : Byte) : State :=
  let s := updLane s n (fun l => { l with rxSeq := seq.toNat, ackWait := some (l.ackWait.getD 0) })
  if ((laneOf s n).mgt.head?.map (·.seq)) = some ack.toNat then mgtPop s n else s

/-- A lane has reached READY; a port that is DOWN maps again (R212). -/
def laneReadyPort (s : State) (n : Nat) : State :=
  let s := laneReady s n
  let p := n / 8
  if (portOf s p).state = 1 && !portPrbs s p then portJudge (portMap s p) p else portJudge s p

/-- A used port enters TRAINING and its enabled lanes start T0 (R206, R212). -/
def portTrain (s : State) (p : Nat) : State :=
  let s := portGo s p 2
  (portLanes p).foldl (fun s n => if laneOn s n && (laneOf s n).state = 0 then laneT0 s n (laneOf s n).cause else s) s

/-- A port goes OFF with its lanes; the accepted record falls away. -/
def portDark (s : State) (p : Nat) : State :=
  let s := (portLanes p).foldl (fun s n => updLane (laneOff s n) n (fun l => { l with first := 0, count := 0 })) s
  updPort (portGo s p 0) p (fun x => { Port.off with mapId := x.mapId })

/-- Every port and lane that may train starts, and every port that is no longer used goes OFF (R199, R206, R212). -/
def crdStart (s : State) : State :=
  let s := (List.range 6).foldl (fun s p =>
    if !portUsed s p then (if (portOf s p).state = 0 then s else portDark s p)
    else if (portOf s p).state = 0 && trainMode s.sys.mode && !s.frst.inReset.testBit fnCRD then portTrain s p else s) s
  [48, 49].foldl (fun s n =>
    if !laneOn s n then (if (laneOf s n).state = 0 then s else laneOff s n)
    else if (laneOf s n).state = 0 && (trainMode s.sys.mode || s.sys.mode = .md3) then laneT0 s n (laneOf s n).cause else s) s

/-- Every lane and port is OFF. -/
def crdDark (s : State) : State := [48, 49].foldl laneOff ((List.range 6).foldl portDark s)

/-- A lane is taken out of service while its port carries BLOCK (R211). -/
def laneDisable (s : State) (n : Nat) : State :=
  if (portOf s (n / 8)).carry then updLane s n (fun l => { l with offReq := true }) else portJudge (laneOff s n) (n / 8)

/-- PRBS of a lane, which acts in MD_11 only (R237). The place in the pattern at which it starts is open. -/
def lanePrbs (s : State) (n : Nat) : State :=
  let on := s.sys.mode = .md11 && bit (regGet s (laneCfgA n)) 4
  let st := (laneOf s n).state
  if on && st ≠ 0 && st ≠ 11 then
    let (k, s) := freshBelow s (2 ^ 31 - 1)
    portJudge (laneGo (updLane (txAnew s n) n (fun l => { laneClear l with prbs := some ⟨k + 1, 0, 0, 0⟩ })) n 11) (n / 8)
  else if !on && st = 11 then portJudge (laneT0 s n (laneOf s n).cause) (n / 8)
  else s

/-- A write of CRD_LANE_CFG_n. -/
def laneCfg (s : State) (n : Nat) (v : Word) : State :=
  let s := regSet s (laneCfgA n) (v &&& 0x1D)
  let s := if bit v 0 then (if (laneOf s n).state = 0 then s else laneDisable s n) else updLane s n (fun l => { l with offReq := false })
  lanePrbs s n

/-! ### Deep idle (R231) -/

/-- What entry to MD_3 does to the lanes and ports: an ACTIVE lane goes to SLEEP, whatever its port's state, and every other lane OFF; a port in
service goes to SLEEP, and every other one stays as it is (R211, R212). -/
def crdSleep (s : State) : State :=
  let s := (List.range 48).foldl (fun s n =>
    let st := (laneOf s n).state
    if st = 7 then
      laneGo (updLane (txAnew ((List.range 16).foldl (fun s _ => setSend s n setSLP 0 0) s) n) n
        (fun l => { l with exchOut := false, upOk := false, fill := 32, rxRd := none, rx := Received.none })) n 9
    else if st = 0 then s else laneOff s n) s
  (List.range 6).foldl (fun s p =>
    let st := (portOf s p).state
    if st = 4 || st = 5 then portGo (updPort s p (fun x => { x with carry := false, upset := false })) p 6 else s) s

/-- The lanes that MD_3 took OFF train from T0 as it ends, on every port that is not OFF (R211). -/
def crdRise (s : State) : State :=
  (List.range 48).foldl (fun s n =>
    if (laneOf s n).state = 0 && laneOn s n && (portOf s (n / 8)).state ≠ 0 then laneT0 s n (laneOf s n).cause else s) s

/-- The sleeping lanes send WAK and the 8 delay requests of the wake checks, and those that are OFF train (R211, R231). -/
def crdWake (s : State) : State :=
  let s := (List.range 48).foldl (fun s n =>
    if (laneOf s n).state = 9 then delayAsk (laneGo (setSend s n setWAK 0 0) n 10) n 8 else s) s
  (List.range 6).foldl portJudge (crdStart (crdRise s))

/-! ### Training commands -/

/-- The N9's own capability record (R207): MAX_GEN is 3, since R200 has it run all three generations (DEDUCED); T_DEC, T_UPL, HOLD_N, LANES and
SLEEP, which R207 states for the valve-base unit only, are left to the implementation within R207's ranges. -/
def ownRecord (s : State) (n : Nat) : List Byte :=
  let img := imgOf s
  let p := n / 8
  let arm := decide (n < 48)
  let o := Config.ownRecord
  let flags : Byte := ((o 7) &&& 0x03) ||| (if s.red.unitSel then 4 else 0)
  let body := leBytes 2 1 ++ [0, 3] ++ (if arm then leBytes 2 (armSms img p) ++ [if armFb img p then 1 else 0] else [o 4, o 5, BitVec.ofNat 8 ((o 6).toNat % 2)])
    ++ [flags] ++ leBytes 4 0 ++ [o 12, o 13, o 14, o 15, BitVec.ofNat 8 (1 + (o 16).toNat % 4), BitVec.ofNat 8 (tickNs s / 1000), BitVec.ofNat 8 (1 + (o 18).toNat % 8)] ++ zeros 13
    ++ sliceBytes identity 8 16 ++ (List.range 12).map (fun k => o (0x30 + k))
  body ++ leBytes 4 (crc32c body)

/-- LANE_T0_DONE: 256 ordered sets aligned and TS2 received (R211). -/
def execLaneT0Done (lane : Fin 50) (s : State) : Host.Outcome State Fault Refusal :=
  let s := begin s
  .next (if (laneOf s lane).state = 1 then
    let r := ownRecord s lane
    let s := laneGo (setSend s lane setTS2 1 (lane % 8)) lane 2
    let s := mgtPost s lane 1 0 ([0, 0, 0, 0] ++ r.take 32)
    mgtPost s lane 1 0 ([1, 0, 0, 0] ++ r.drop 32)
  else s)

/-- The checks of R208 on a valve-base unit's record, but for CROSS. -/
def capabOk (s : State) (n : Nat) (r : List Byte) : Bool :=
  let img := imgOf s
  let p := n / 8
  let sn := pNatAt img 0x0904 p
  decide (r.length = 64) && leAt r 0x3C 4 = crc32c (r.take 60) && leAt r 0 2 = 1 && leAt r 2 1 = 1
    && decide (1 ≤ leAt r 3 1) && decide (leAt r 3 1 ≤ 3)
    && leAt r 4 2 = armSms img p && leAt r 6 1 = b2n (armFb img p) && leAt r 8 4 ≠ 0
    && decide (leAt r 0x0C 2 ≤ 900) && decide (leAt r 0x0E 2 ≤ 500)
    && decide (1 ≤ leAt r 0x10 1) && decide (leAt r 0x10 1 ≤ pNat img 0x090E)
    && (leAt r 7 1).testBit 0 && decide (leAt r 0x12 1 > n % 8)
    && (sn = 0 || crc32c (sliceBytes r 0x20 16) = sn)

/-- The checks on a partner's record (R342); false where it fails for another reason than UNIT. -/
def partnerOk (r : List Byte) : Bool :=
  decide (r.length = 64) && leAt r 0x3C 4 = crc32c (r.take 60) && leAt r 0 2 = 1 && leAt r 2 1 = 0
    && decide (1 ≤ leAt r 3 1) && decide (leAt r 3 1 ≤ 3)

/-- CAPABILITY_RX: the other end's record has arrived whole, with the packet of its last part (R207, R208, R342). -/
def execCapabilityRx (lane : Fin 50) (rec_ : PacketHead × List Byte) (s : State) : Host.Outcome State Fault Refusal :=
  let s := begin s
  let p := lane.val / 8
  let r := rec_.2
  .next (if (laneOf s lane).state = 2 then
    let seen := mgtSeen s lane rec_.1.seq
    let s := mgtGot s lane rec_.1.seq rec_.1.ack
    let pass := fun (s : State) => laneT1 (updLane s lane (fun l => { l with peer := some r })) lane
    if seen then s
    else if lane.val < 48 then
      if !capabOk s lane r then portJudge (laneAbsent s lane 6) p
      else if crossed s p r then laneCross s lane
      else pass s
    else if !partnerOk r then laneAbsent s lane 6
    else if (leAt r 7 1).testBit 2 = s.red.unitSel then raise (laneAbsent s lane 6) fnRED 11 0 0
    else pass s
  else s)

/-- An eye margin, the own or the other end's, is kept and judged against EYE_WARN: raised once per excursion (R230). -/
def eyeJudge (s : State) (n : Nat) (vbu : Bool) (fom : Nat) : State :=
  let low := decide (fom < pNat (imgOf s) 0x0908)
  let was := if vbu then (laneOf s n).eyeLowV else (laneOf s n).eyeLow
  let s := updLane s n (fun l => if vbu then { l with fomVbu := fom, eyeLowV := low } else { l with fom := fom, eyeLow := low })
  if low && !was then raise s fnCRD 4 (n / 8) n else s

/-- LANE_EYE_RESULT: both ends' eye margins in T2 (R211, R230). -/
def execLaneEyeResult (lane : Fin 50) (own vbu : Byte) (s : State) : Host.Outcome State Fault Refusal :=
  let s := begin s
  .next (if (laneOf s lane).state = 3 then
    let s := eyeJudge (eyeJudge s lane false own.toNat) lane true vbu.toNat
    let lim := pNat (imgOf s) 0x0907
    if lim ≤ own.toNat ∧ lim ≤ vbu.toNat then delayAsk (laneGo s lane 4) lane 64
    else if (laneOf s lane).gen > 1 then updLane s lane (fun l => { l with gen := l.gen - 1 })
    else portJudge (laneAbsent s lane 8) (lane / 8)
  else s)

/-- Twice the sample of an exchange, in ps: round trip less turnaround (R209). -/
def sample2 (x : Nat × Nat) : Int := (x.1 : Int) - 10 * x.2

/-- DELAY_TRAINING_DONE: the samples of a lane's 64 exchanges (R209). Exchanges that were lost are sent again, and all 64 are where their
spread is above 2 ns. -/
def execDelayTrainingDone (lane : Fin 50) (samples : List (Nat × Nat)) (s : State) : Host.Outcome State Fault Refusal :=
  let s := begin s
  let ds := samples.map sample2
  let hi := ds.foldl max (ds.headD 0)
  let lo := ds.foldl min (ds.headD 0)
  .next (if (laneOf s lane).state ≠ 4 then s
  else if ds.length < 64 then delayAsk s lane (64 - ds.length)
  else if ds.length = 64 ∧ hi - lo ≤ 4000 then
    let dl := grid100 (sumInt ds) 128
    let s := updLane s lane (fun l => { l with dl := dl, dlTrain := dl, df := dl * 16 })
    if dl > 5000000 then portJudge (laneAbsent s lane 9) (lane / 8)
    else if lane.val < 48 then laneReadyPort s lane
    else laneGo (updLane s lane (fun l => { l with retries := 0 })) lane 7
  else delayAsk s lane 64)

/-- MAP_ACK_RX (R211, R227). -/
def execMapAckRx (lane : Fin 48) (mapId : Byte) (result : PacketHead × Byte) (s : State) : Host.Outcome State Fault Refusal :=
  let s := begin s
  let p := lane.val / 8
  .next (
    let l := laneOf s lane
    let seen := mgtSeen s lane result.1.seq
    let s := mgtGot s lane result.1.seq result.1.ack
    if seen then s
    else if l.state = 6 ∧ mapId.toNat = (portOf s p).mapId then
      if result.2 = 0 then portJudge (laneGo s lane 7) p
      else if result.2 = 1 then portJudge (laneAbsent s lane 5) p
      else s
    else s)

/-- LANE_PHASE_TIMEOUT: T_PHASE ends in T0 to T4 (R206). -/
def execLanePhaseTimeout (lane : Fin 50) (s : State) : Host.Outcome State Fault Refusal :=
  let s := begin s
  let st := (laneOf s lane).state
  .next (if 1 ≤ st ∧ st ≤ 4 then portJudge (laneAbsent s lane st) (lane / 8)
    else if st = 6 then portJudge (laneAbsent s lane 5) (lane / 8)
    else s)

/-- LANE_RETRY_TIMER: an ABSENT lane starts again (R206). -/
def execLaneRetryTimer (lane : Fin 50) (s : State) : Host.Outcome State Fault Refusal :=
  let s := begin s
  .next (if (laneOf s lane).state = 8 then
    laneT0 (updLane s lane (fun l => { l with retries := satInc 4 l.retries })) lane (laneOf s lane).cause
  else s)

/-- The lanes of a port that are still in T0 to T3 give up with the port: ABSENT, with their CAUSE and without LANE_ABSENT (R379). -/
def lanesQuit (s : State) (p : Nat) : State :=
  (portLanes p).foldl (fun s n =>
    if 1 ≤ (laneOf s n).state ∧ (laneOf s n).state ≤ 4 then laneGo (updLane s n (fun l => { laneClear l with gen := 0 })) n 8 else s) s

/-- PORT_TRAIN_TIMEOUT: T_PORT ends (R212, R379). -/
def execPortTrainTimeout (port : Fin 6) (s : State) : Host.Outcome State Fault Refusal :=
  let s := begin s
  .next (if (portOf s port).state = 2 then
    let s := lanesQuit s port
    (if readyLane s port && !portPrbs s port then portJudge (portMap s port) port else portDown s port 1)
  else s)

/-- An ACTIVE lane retrains (R211). -/
def laneFail (s : State) (n cause : Nat) : State :=
  if (laneOf s n).state = 7 then portJudge (laneT0 (raise s fnCRD 6 (n / 8) n) n cause) (n / 8) else s

/-- LANE_LINK_ERROR: loss of signal or alignment, or LINK_ERR_N bad uplinks (R211). -/
def execLaneLinkError (lane : Fin 50) (s : State) : Host.Outcome State Fault Refusal := .next (laneFail (begin s) lane 10)

/-- RTR_RX (R211). -/
def execRtrRx (lane : Fin 50) (s : State) : Host.Outcome State Fault Refusal := .next (laneFail (begin s) lane 10)

/-- RATE_ERR (R205, R211). -/
def execRateErr (lane : Fin 50) (s : State) : Host.Outcome State Fault Refusal :=
  .next (laneFail (raise (begin s) fnCRD 7 (lane.val / 8) lane) lane 11)

/-! ### Delay, eye and wake in service -/

/-- DLY_EXCHANGE_TIMER: a delay request leaves; an exchange still open was lost and is counted (R210). -/
def execDlyExchangeTimer (lane : Fin 50) (s : State) : Host.Outcome State Fault Refusal :=
  let s := begin s
  .next (if (laneOf s lane).state = 7 then
    delayAsk (updLane s lane (fun l => { l with exchBad := l.exchBad + b2n l.exchOut, exchOut := true })) lane 1
  else s)

/-- A sample updates D_f, and DLY_DRIFT is raised once per excursion (R210); d2 is twice the sample. -/
def delaySample (s : State) (n : Nat) (d2 : Int) : State :=
  let l := laneOf s n
  let df := l.df + roundDiv (8 * d2 - l.df) 16
  let out := decide ((df - 16 * l.dlTrain).natAbs > 16 * pNat (imgOf s) 0x090B)
  let s := updLane s n (fun l => { l with df := df, drift := out })
  if out && !l.drift then raise s fnCRD 5 (n / 8) n else s

/-- DLY_RSP_RX: exchange number, round trip in ps and turnaround in units of 10 ps (R209, R210). -/
def execDlyRspRx (lane : Fin 50) (exch : Byte) (rtt turn : Nat) (s : State) : Host.Outcome State Fault Refusal :=
  let s := begin s
  let l := laneOf s lane
  .next (if l.state = 7 ∧ l.exchOut = true ∧ l.exch = exch.toNat then
    let s := updLane s lane (fun l => { l with exchOut := false })
    let d2 := sample2 (rtt, turn)
    if d2 > 10000000 then updLane s lane (fun l => { l with exchBad := l.exchBad + 1 }) else delaySample s lane d2
  else s)

/-- EYE_MEASURE: the own eye margin of an ACTIVE lane (R230). -/
def execEyeMeasure (lane : Fin 50) (fom : Byte) (s : State) : Host.Outcome State Fault Refusal :=
  let s := begin s
  .next (if (laneOf s lane).state = 7 then eyeJudge s lane false fom.toNat else s)

/-- A waking lane that fails its checks trains again (R211, R231). -/
def laneRetrain (s : State) (n : Nat) : State :=
  portJudge (laneT0 (raise s fnCRD 13 (n / 8) n) n (laneOf s n).cause) (n / 8)

/-- The wake checks: the fresh record shows the CRC of the accepted one, and the mean of the 8 samples lies within DLY_DRIFT_MAX of the
trained delay (R231). -/
def wakeOk (s : State) (n : Nat) (r : List Byte) (samples : List (Nat × Nat)) : Bool :=
  let d16 := sumInt (samples.map sample2)
  leAt r 0x3C 4 = leAt (portOf s (n / 8)).cap 0x3C 4 && crc32c (r.take 60) = leAt r 0x3C 4 && samples.length = 8
    && decide ((d16 - 16 * (laneOf s n).dlTrain).natAbs ≤ 16 * pNat (imgOf s) 0x090B)

/-- LANE_WAKE_DONE: both ends have relocked, with the fresh record and the 8 samples of the wake checks (R231). -/
def execLaneWakeDone (wake : WakeReport) (s : State) : Host.Outcome State Fault Refusal :=
  let s := begin s
  let lane := wake.lane
  .next (if (laneOf s lane).state ≠ 10 then s
    else if wakeOk s lane wake.cap wake.samples then portJudge (laneGo s lane 7) (lane / 8)
    else laneRetrain s lane)

/-- LANE_WAKE_TIMEOUT: the wake checks fail or 500 µs pass (R211). -/
def execLaneWakeTimeout (lane : Fin 48) (s : State) : Host.Outcome State Fault Refusal :=
  let s := begin s
  .next (if (laneOf s lane).state = 10 then laneRetrain s lane else s)

/-! ### Host commands (R237) -/

/-- LANE_DISABLE: a write of CRD_LANE_CFG_n. -/
def execLaneDisable (pf : Pf) (lane : Fin 48) (v : Word) (s : State) : Host.Outcome State Fault Refusal :=
  .next (hostPf0 (begin s) pf (laneCfgA lane) (fun s => laneCfg s lane v))

/-- STATUS of the last CRD_CMD. -/
def cmdRes (s : State) (st : Nat) : State := { s with crd := { s.crd with cmdRes := st } }

/-- RETRAIN_LANE. -/
def execRetrainLane (pf : Pf) (key : BitVec 16) (lane : Fin 64) (s : State) : Host.Outcome State Fault Refusal :=
  .next (hostPf0 (begin s) pf 0xD0080 (fun s =>
    let st := (laneOf s lane).state
    if key ≠ 0x4344 then cmdRes s 2
    else if 48 ≤ lane.val then cmdRes s 4
    else if st = 0 ∨ 9 ≤ st then cmdRes s 5
    else if (portOf s (lane.val / 8)).carry then cmdRes s 3
    else cmdRes (portJudge (laneT0 s lane 12) (lane / 8)) 1))

/-- RETRAIN_PORT. -/
def execRetrainPort (pf : Pf) (key : BitVec 16) (port : Fin 8) (s : State) : Host.Outcome State Fault Refusal :=
  .next (hostPf0 (begin s) pf 0xD0080 (fun s =>
    let x := portOf s port
    if key ≠ 0x4344 then cmdRes s 2
    else if 6 ≤ port.val then cmdRes s 4
    else if x.state = 0 ∨ x.state = 6 then cmdRes s 5
    else if x.carry then cmdRes s 3
    else
      let s := portGo (updPort s port (fun x => { x with cause := 3, upset := false })) port 2
      cmdRes ((portLanes port).foldl (fun s n => if laneOn s n && (laneOf s n).state ≠ 11 then laneT0 s n 12 else s) s) 1))

/-- REMAP: a port that is UP or in BUDGET and carries BLOCK maps again. -/
def execRemap (pf : Pf) (key : BitVec 16) (port : Fin 8) (s : State) : Host.Outcome State Fault Refusal :=
  .next (hostPf0 (begin s) pf 0xD0080 (fun s =>
    let x := portOf s port
    if key ≠ 0x4344 then cmdRes s 2
    else if 6 ≤ port.val then cmdRes s 4
    else if x.state = 0 ∨ x.state = 6 then cmdRes s 5
    else if x.carry then cmdRes s 3
    else cmdRes (if x.state = 4 ∨ x.state = 5 then portJudge (portMap s port) port else s) 1))

end Sys2Proof.Machine
end

