-- ==== Sys2Proof/Machine/Fabric.lean ====
section
/-!
DEFINITION. One tick of the fabric: order, rate groups, routes, soft-start and the words taken from and delivered to the
other functions (R106 to R112, R124, R127, R473).
-/
namespace Sys2Proof.Machine

/-- Key of a quantity at a SRC or SINK node: subtype, ENDPOINT and INDEX (R78). -/
def sigKey (sub endpoint index : Nat) : Nat := sub * 2 ^ 32 + endpoint * 2 ^ 16 + index

/-- ENDPOINT and INDEX of a SRC or SINK record. -/
def nodeEnd (r : NodeRec) : Nat × Nat := (nodeU r 0x20 2, nodeU r 0x22 2)

/-- Insertion of a node into a list in ascending tile and ORDER (R107). -/
def insertByOrder (r : NodeRec) : List NodeRec → List NodeRec
  | [] => [r]
  | x :: xs => if r.id / 64 * 65536 + r.order ≤ x.id / 64 * 65536 + x.order then r :: x :: xs else x :: insertByOrder r xs

/-- The nodes of one phase in evaluation order (R107). -/
def phaseNodes (img : Image) (ph : Nat) : List NodeRec :=
  (img.nodes.filter (fun r => decide (r.phase = ph))).foldr insertByOrder []

/-- The node record with an identifier. -/
def nodeRec (img : Image) (id : Nat) : Option NodeRec := img.nodes.find? (fun r => decide (r.id = id))

/-- The routes that feed a node, in input order (R79). -/
def nodeRoutes (img : Image) (r : NodeRec) : List RouteRec := (img.routes.drop r.inFirst).take r.inCount

/-- One round of marking the nodes that a marked node feeds. -/
def taintRound (img : Image) (bad : List Nat) : List Nat :=
  img.routes.foldl (fun acc t => if acc.contains t.src && !acc.contains t.dst then t.dst :: acc else acc) bad

/-- The nodes that trace back to a SRC node of subtype 2 or 3 through any number of routes (R109). -/
def taintedNodes (img : Image) : List Nat :=
  (List.range img.nodes.length).foldl (fun bad _ => taintRound img bad)
    ((img.nodes.filter (fun r => r.type = 6 && (r.sub = 2 || r.sub = 3))).map (·.id))

/-- The evaluation sets of R109, numbered as FAB_STAT.EVAL. -/
def inSet (tainted : List Nat) (eval : Nat) (r : NodeRec) : Bool :=
  match eval with
  | 2 => r.phase = 1
  | 3 => r.phase = 1 && !tainted.contains r.id
  | 4 => true
  | 5 => true
  | _ => false

/-- What the nodes of a tick read besides one another. -/
structure FabEnv where
  img     : Image
  src     : Tab SigW
  latch   : Tab SigW         -- `src` as the Latch phase left it
  start   : Tab Cell         -- the cells at the start of the tick
  idx     : Nat              -- N (R106)
  divs    : List Nat         -- RG_DIV_g
  tickNs  : Nat
  fb      : Nat
  eval    : Nat              -- evaluation set of R109
  tainted : List Nat
  free    : Bool             -- no port under the token is deblocked (R116)
  params  : Nat → SigW       -- the word of the BFP parameter a symbol names (R124)

/-- An event of one node in a tick. -/
structure FabEvt where
  node : NodeRec
  evt  : NodeEvt

/-- What a tick of the fabric has produced so far. -/
structure FabRun where
  cells : Tab Cell
  sink  : Tab SigW
  evts  : List FabEvt

/-- The word a SRC node takes from the words supplied to it (R111, R124). -/
def srcWord (env : FabEnv) (src : Tab SigW) (r : NodeRec) : SigW :=
  let (ep, ix) := nodeEnd r
  match r.sub with
  | 4 => ⟨nodeI32 r 0x24, r.outExp, true⟩
  | 5 => env.params ep
  | _ => tabGet SigW.none src (sigKey r.sub ep ix)

/-- The word on one route: the source's word now, or for DELAY that of its evaluation before this tick (R107). A source that has had its
first evaluation since its soft-start in this very tick has none before; one that waits for its soft-start has the word it keeps with
VALID = 0 (R109, R127). -/
def routeWord (env : FabEnv) (cells : Tab Cell) (t : RouteRec) : SigW :=
  let now := tabGet Cell.fresh cells t.src
  let old := tabGet Cell.fresh env.start t.src
  let c := if !t.delay then now else if !old.evald && now.evald then Cell.fresh else old
  nth SigW.none c.outs t.srcOut

/-- The input words of a node. -/
def nodeIns (env : FabEnv) (cells : Tab Cell) (r : NodeRec) : List SigW :=
  (nodeRoutes env.img r).map (routeWord env cells)

/-- Whether the node's rate group is due in this tick (R106). -/
def nodeDue (env : FabEnv) (r : NodeRec) : Bool := env.idx % nth 1 env.divs r.rg = 0

/-- The sample period of a node in ns (R106). -/
def nodePeriod (env : FabEnv) (r : NodeRec) : Nat := env.tickNs * nth 1 env.divs r.rg

/-- The soft-start word of a node (R110): that of INIT_NODE as latched, or a valid zero. -/
def initWord (env : FabEnv) (r : NodeRec) : SigW :=
  if r.initNode = 0xFFFF then ⟨0, 0, true⟩
  else match nodeRec env.img r.initNode with
    | some s => srcWord env env.latch s
    | none => SigW.none

/-- The evaluation of a node on its input words. -/
def evalOn (env : FabEnv) (r : NodeRec) (c : Cell) (ins : List SigW) : Cell × NodeEvt :=
  match r.type with
  | 1 => evalComp r c ins env.free
  | 2 => evalSel r c ins
  | 3 => evalLim r c ins
  | 4 => evalArith r c ins
  | 5 => evalXform r c ins (seqGain env.fb (nodePeriod env r))
  | 6 => evalSrc c (srcWord env env.src r)
  | _ => evalSink r c ins

/-- An evaluation in which a word of the wrong kind reached an input (R112): the outputs are invalid, and TYPE_ERR is raised. What the node
carries in its stage and histories stays as it was (DESIGN CHOICE: R112 speaks of the outputs only); the loss and freeze counts of a COMP
and its actions go on, for R114 and R115 count evaluations whatever the words hold. -/
def evalTypeErr (env : FabEnv) (r : NodeRec) (c : Cell) (ins : List SigW) : Cell × NodeEvt :=
  let x := evalComp r c ins env.free
  if r.type = 1 then
    ({ cellInvalid c with loss := x.1.loss, freeze := x.1.freeze, last := x.1.last, frozen := x.1.frozen, act := x.1.act, cause := x.1.cause, evald := x.1.evald },
      { x.2 with flags := x.2.flags.filter (fun n => n ≠ 4 && n ≠ 5) ++ [7] })
  else ({ cellInvalid c with evald := true }, ⟨[7], none, none⟩)

/-- The evaluation proper of a started node. -/
def evalStarted (env : FabEnv) (r : NodeRec) (c : Cell) (ins : List SigW) : Cell × NodeEvt :=
  if typeErr r ins then evalTypeErr env r c ins else evalOn env r c ins

/-- The delivery of a SINK whose word is not valid (R109, R110): the word last delivered, with VALID = 0. -/
def sinkInvalid (r : NodeRec) (t : Tab SigW) : Tab SigW :=
  if r.type = 7 then
    let k := sigKey r.sub (nodeEnd r).1 (nodeEnd r).2
    tabSet SigW.none t k { tabGet SigW.none t k with v := false }
  else t

/-- A node that is passed over. Where its soft-start falls in this tick, it takes up the word latched in it, if that is valid (R94, R110). -/
def passNode (env : FabEnv) (run : FabRun) (r : NodeRec) (c : Cell) : FabRun :=
  let w := initWord env r
  if c.act = 4 && c.soft && w.v then { run with cells := tabSet Cell.fresh run.cells r.id { c with soft := false, init := some w } } else run

/-- One node in one tick: passed over where not due, excluded by the mode, or evaluated after a soft-start where one is pending (R107, R109, R110).
An action in force that an exclusion or a reload of the tile cuts off writes no end entry (DESIGN CHOICE: R115 has an entry for every end of an
action, and R116 lists the ends without these two). -/
def evalNode (env : FabEnv) (run : FabRun) (r : NodeRec) : FabRun :=
  let c := tabGet Cell.fresh run.cells r.id
  if !inSet env.tainted env.eval r then
    { run with cells := tabSet Cell.fresh run.cells r.id { cellInvalid c with act := 4, evald := false, soft := false, init := none }, sink := sinkInvalid r run.sink }
  else if !nodeDue env r then passNode env run r c
  else
    let ins := nodeIns env run.cells r
    let w := c.init.getD (initWord env r)
    if c.act = 4 && !w.v then
      { run with cells := tabSet Cell.fresh run.cells r.id (cellInvalid c), sink := sinkInvalid r run.sink }
    else
      let (c0, sat) := if c.act = 4 then startCell r w (fillLength env.fb (nodePeriod env r)) else (c, false)
      let (c1, e) := evalStarted env r c0 ins
      let e := if sat then { e with flags := e.flags ++ [5] } else e
      let out := nth SigW.none c1.outs 0
      let out := if env.eval = 5 && r.sub ≤ 1 then { out with v := false } else out
      let sink := if r.type = 7 then tabSet SigW.none run.sink (sigKey r.sub (nodeEnd r).1 (nodeEnd r).2) out else run.sink
      ⟨tabSet Cell.fresh run.cells r.id c1, sink, if e.flags.isEmpty && e.act.isNone then run.evts else run.evts ++ [⟨r, e⟩]⟩

/-- One phase of the fabric (R107). -/
def evalPhase (env : FabEnv) (ph : Nat) (run : FabRun) : FabRun := (phaseNodes env.img ph).foldl (evalNode env) run

/-- The tile's cells after a lockstep mismatch: the state before the tick, words invalid, a soft-start pending (R127). Until then a
reader finds the words held before that tick. -/
def reloadTile (before cells : Tab Cell) (img : Image) (tile : Nat) : Tab Cell :=
  (img.nodes.filter (fun r => decide (r.id / 64 = tile))).foldl (fun t r =>
    tabSet Cell.fresh t r.id { cellInvalid (tabGet Cell.fresh before r.id) with act := 4, evald := false, soft := true, init := none }) cells

/-- The capture of a node (R129): ACT 5 where the mode excludes it. -/
def captureOf (img : Image) (cells : Tab Cell) (excluded : Bool) (id : Nat) : Capture :=
  let c := tabGet Cell.fresh cells id
  let e := match nodeRec img id with
    | some r => stageOf r c
    | none => 0
  ⟨if excluded then 5 else c.act, e, c.loss, c.freeze, c.outs⟩

end Sys2Proof.Machine
end

