-- ==== Sys2Proof/Machine/CordLink.lean ====
section
/-!
DEFINITION. Frames on the Cord lanes, the management channel and the service pulse (chapter Cord valve links, R217 to R228, R234).
-/
namespace Sys2Proof.Machine

/-! ### What a lane receives in a tick (R202 to R205, R220, R227) -/

/-- The fields of an uplink frame with the code errors within it; `whole` is whether its length is that of its COUNT (R220). -/
structure UpFrame where
  codeErr : Nat
  crcOk   : Bool
  whole   : Bool
  epoch   : Nat
  seq     : Nat
  flags   : Nat
  mapId   : Nat
  first   : Nat
  count   : Nat
  sms     : List (Nat × Nat)
deriving DecidableEq, Repr

/-- The fields of the bytes between an SOF and its EOF (R220). -/
def upFrame (bs : List Byte) (errs : Nat) : UpFrame :=
  let n := bs.length - 4
  let c := leAt bs 0x0A 2
  let fits := bs.length = 16 + pad4 (3 * c)
  { codeErr := errs, crcOk := decide (4 ≤ bs.length) && leAt bs n 4 = crc32c (bs.take n), whole := fits
    epoch := leAt bs 0 4, seq := leAt bs 4 2, flags := leAt bs 6 1, mapId := leAt bs 7 1, first := leAt bs 8 2, count := c
    sms := if fits then (List.range c).map (fun i => (leAt bs (12 + 3 * i) 2, leAt bs (14 + 3 * i) 1)) else [] }

/-- A frame without a code error and with a correct CRC. -/
def UpFrame.clean (f : UpFrame) : Bool := f.codeErr = 0 && f.crcOk

/-- LEN that a packet of a TYPE may have (R227). -/
def mgtLenOk (type len : Nat) : Bool :=
  match type with
  | 0 => len = 0
  | 1 | 2 => len = 36
  | 3 | 7 => len = 4
  | 4 | 5 => decide (len ≤ 52)
  | 6 => len = 12
  | _ => false

/-- A packet that is answered with NAK: its CRC is wrong, its TYPE is not listed, or its LEN is not that of its TYPE (R225 to R227). -/
def packetBad (bs : List Byte) : Bool :=
  let len := leAt bs 6 2
  let body := 8 + pad4 len
  bs.length ≠ body + 4 || leAt bs body 4 ≠ crc32c (bs.take body) || !mgtLenOk (leAt bs 0 1) len

/-- The elastic buffer at a FIL: above 40 characters it is deleted, below 24 another is inserted (R205). -/
def fillStep (f : Nat) : Nat := if 40 < f then f - 4 else if f < 24 then f + 4 else f

/-- What one lane received in a tick: whether its buffer ran over or empty, and the frames that were completed, each with whether it came at least
64 CK_FAB cycles before the boundary (R222). -/
structure LaneRx where
  lane : Nat
  lost : Bool
  ups  : List (Bool × UpFrame)
deriving DecidableEq, Repr

/-- A receiver that is powered and takes characters: not in OFF, SLEEP or PRBS. -/
def rxLit (l : Lane) : Bool := l.state ≠ 0 && l.state ≠ 9 && l.state ≠ 11

/-- The first part of a capability record is acknowledged as it arrives; the whole record is delivered by CAPABILITY_RX (R226, R227). -/
def partTake (n : Nat) (s : State) (bs : List Byte) : State :=
  if packetBad bs then mgtAck s n true
  else if leAt bs 0 1 = 1 && leAt bs 8 1 = 0 then mgtGot s n (bs.getD 1 0) (bs.getD 2 0)
  else s

/-- The characters of one lane: its code errors are counted, bad packets and first parts of records are answered, its buffer follows, and its port
keeps the highest epoch of a clean frame since MAPPING (R202, R203, R205, R227, R237). The other good packets, the frames of the partner, delay
responses and retrain requests are delivered by commands of their own. A lane in PRBS holds the bits against its pattern. -/
def rxTake (acc : State × List LaneRx) (u : Uplink) : State × List LaneRx :=
  let s := acc.1
  let n := u.lane.val
  let p := n / 8
  let l := laneOf s n
  if l.state = 11 then (updLane s n (fun l => { l with prbs := l.prbs.map (fun x => x.take (u.chars ++ u.late)) }), acc.2)
  else if !rxLit l then acc
  else
    let a := decodeGroups l.rxRd u.chars
    let b := decodeGroups a.2 u.late
    let r1 := Received.take (n % 8) a.1 l.rx
    let r := Received.take (n % 8) b.1 r1
    let lost := decide ((l.fill : Int) + u.slip < 0) || decide (64 < (l.fill : Int) + u.slip)
    let fill := if lost then 32 else iter fillStep r.fils ((l.fill : Int) + u.slip).toNat
    let s := updLane s n (fun l => { l with rxRd := b.2, fill := fill, rx := if lost then Received.none else r.rest })
    let a := laneCfgA n + 0xC
    let s := if n < 48 then regPut s a 15 0 (satNat 16 (regF s a 15 0 + r.errs)) else s
    let s := r.packets.foldl (partTake n) s
    let ups := if lost || 48 ≤ n then [] else r.frames.zipIdx.map (fun x => (decide (x.2 < r1.frames.length), upFrame x.1.1 x.1.2))
    let top := ((ups.filter (fun x => x.2.clean)).map (fun x => x.2.epoch)).foldl max 0
    let s := if decide (3 ≤ (portOf s p).state) && decide ((portOf s p).state ≤ 5) then updPort s p (fun x => { x with epoch := max x.epoch top })
      else s
    (if lost then raise s fnCRD 7 p n else s, acc.2 ++ [⟨n, lost, ups⟩])

/-! ### The uplink latch (R222 to R224) -/

/-- The unit's own epoch while it holds the token, else the epoch in force. -/
def ownEpoch (s : State) : Nat := s.red.epoch

/-- A frame with a code or CRC error is counted, and an ACTIVE lane with LINK_ERR_N of them in a row retrains (R211, R237). -/
def uplinkError (n : Nat) (s : State) (f : UpFrame) : State :=
  let s := if f.crcOk then s else regInc s (laneCfgA n + 0xC) 31 16
  let s := updLane s n (fun l => { l with bad := if f.clean then 0 else l.bad + 1 })
  if !f.clean && decide (pNat (imgOf s) 0x0909 ≤ (laneOf s n).bad) then laneFail s n 10 else s

/-- The errors of all frames of a tick; a lane whose buffer ran over or empty retrains too (R205). -/
def uplinkErrors (s : State) (x : LaneRx) : State :=
  let s := x.ups.foldl (fun s f => uplinkError x.lane s f.2) s
  if x.lost then laneFail s x.lane 11 else s

/-- Whether a frame is the uplink that its lane expects at the boundary of index idx (R222). -/
def uplinkOk (s : State) (p idx n : Nat) (early : Bool) (f : UpFrame) : Bool :=
  let l := laneOf s n
  let x := portOf s p
  l.state = 7 && early && f.clean && f.whole
    && f.seq = (idx + 65536 - x.lp) % 65536 && f.mapId = x.mapId && f.first = l.first && f.count = l.count
    && (!tokenHeld s || f.epoch = ownEpoch s)

/-- The reactions to what a clean frame carries while its port is deblocked (R224). -/
def uplinkContent (s : State) (p n : Nat) (carry ok : Bool) (f : UpFrame) : State :=
  if !f.clean then s
  else
    let fenced := carry && decide (f.epoch > ownEpoch s)
    let s := if fenced then raise s fnCRD 9 p n else s
    let lb := carry && ok && f.sms.any (fun x => x.2.testBit 3)
    let s := if lb then raise s fnCRD 10 p n else s
    if fenced || lb || (carry && (f.flags.testBit 0 || f.flags.testBit 3)) then blockRelease s else s

/-- The frames of a lane, each with whether it came early enough. -/
def framesOf (us : List LaneRx) (n : Nat) : List (Bool × UpFrame) := (us.filter (fun u => u.lane = n)).flatMap (·.ups)

/-- One lane's part of the latch: what its frames carry, and the one that is expected, where it arrived. -/
def laneLatch (us : List LaneRx) (p idx : Nat) (carry : Bool) (s : State) (n : Nat) : State :=
  let fs := (framesOf us n).map (fun x => (uplinkOk s p idx n x.1 x.2, x.2))
  let s := fs.foldl (fun s x => uplinkContent s p n carry x.1 x.2) s
  match fs.find? (·.1) with
  | some (_, f) =>
    let was := (laneOf s n).flags
    let newly := [0, 1, 3].filter (fun b => f.flags.testBit b && !was.testBit b)
    let s := iter (fun s => raise s fnCRD 14 p n) newly.length s
    updLane s n (fun l => { l with upOk := true, flags := f.flags, sms := f.sms })
  | none => raise (regInc (updLane s n (fun l => { l with upOk := false })) (0xD0108 + 0x20 * p) 31 16) fnCRD 8 p n

/-- The latch of one port at the boundary of index idx (R222, R223). -/
def portLatch (us : List LaneRx) (idx : Nat) (s : State) (p : Nat) : State :=
  let x := portOf s p
  if x.state = 4 ∨ x.state = 5 then
    let ls := mappedLanes s p
    let s := ls.foldl (laneLatch us p idx x.carry) s
    let ok := ls.all (fun n => (laneOf s n).upOk)
    let s := updPort s p (fun x => { x with upset := ok })
    if ok then s else regInc s (0xD0108 + 0x20 * p) 15 0
  else updPort s p (fun x => { x with upset := false })

/-- What the lanes received, the latch of every port, and then the lanes whose frames were bad. -/
def crdLatch (s : State) (us : List Uplink) (idx : Nat) : State :=
  let (s, rx) := us.foldl rxTake (s, [])
  rx.foldl uplinkErrors ((List.range 6).foldl (portLatch rx idx) s)

/-- The port's uplink set for the riddle engine, in submodule order, where it is valid. -/
def portSet (s : State) (p : Nat) : Option (List (Nat × Nat)) :=
  if (portOf s p).upset then some ((mappedLanes s p).flatMap (fun n => (laneOf s n).sms)) else none

/-! ### Downlink frames (R215, R217 to R219, R261) -/

/-- Pulse and enable bits of a choice, first bit lowest (R167, R218); a choice without a row gives zeros. -/
def choiceBits (fb : Bool) (c : Nat) : Nat :=
  if fb then
    match c with
    | 1 => 10
    | 2 => 11
    | 3 => 14
    | _ => 0
  else
    match c with
    | 1 => 2
    | 2 => 3
    | _ => 0

/-- A choice of an HB arm that has no row of R167 (R261). -/
def badChoice (fb : Bool) (c : Nat) : Bool := decide (3 < c) || (!fb && c = 3)

/-- Payload of a slice, padded to a multiple of 4 bytes (R218). -/
def payload (fb : Bool) (cs : List Nat) : List Byte :=
  let w := if fb then 4 else 2
  let v := cs.foldr (fun c acc => choiceBits fb c + 2 ^ w * acc) 0
  leBytes (pad4 ((cs.length * w + 7) / 8)) v

/-- The modes whose results may deblock a valve port under the lease (R43). -/
def valveMode (m : Mode) : Bool :=
  match m with
  | .md5 | .md6 | .md7 | .md8 | .md9 | .md11 => true
  | _ => false

/-- The frames of a port must carry BLOCK = 1 at this boundary, whatever the riddle engine chose (R30, R31, R43, R346); frames that a
safe stop found past the start of phase F leave as built (R370). -/
def mustBlock (s : State) (p : Nat) : Bool :=
  (portOf s p).state ≠ 4 || s.sys.blockNext || !s.red.lease || !tokenHeld s || (!s.sys.late && (!valveMode s.sys.mode || s.saf.lock))
    || (s.red.restored && !s.red.met.testBit p)

/-- The choices whose bits the frames carry: those of the last completed tick (R30). -/
def frameChoices (s : State) (p n : Nat) : List Nat :=
  let r := if s.sys.repeatNext then s.rdlOld else s.rdl
  let l := laneOf s n
  (List.range l.count).map (fun i => (smOf r p (l.first + i)).choice)

/-- One lane's frame leaves at the boundary of index idx, between its SOF and its EOF. -/
def laneFrame (p idx : Nat) (block : Bool) (build offs : List (Fin 48)) (s : State) (n : Nat) : State :=
  let l := laneOf s n
  let fb := armFb (imgOf s) p
  let misB := build.any (fun k => k.val = n)
  let misO := offs.any (fun k => k.val = n)
  let blk := block || misB
  let (dl, s) := freshBelow s (charPs l.gen)
  let test := !blk && (match s.crd.svc with | some (q, _, _, _) => q = p | none => false)
  let off := ofSigned 24 ((tSwPs s : Int) - l.dl - dl)
  let fl := b2n blk + 2 * b2n test + 4 * b2n s.red.unitSel
  let body := leBytes 4 (if tokenHeld s then ownEpoch s else 0) ++ leBytes 2 idx ++ leBytes 3 off ++ leBytes 1 fl
    ++ leBytes 1 (portOf s p).mapId ++ [0] ++ leBytes 2 l.first ++ leBytes 2 l.count
    ++ (if blk then zeros (downChars fb l.count - 28) else payload fb (frameChoices s p n))
  let crc := crc32c body
  let data := body ++ leBytes 4 (if misO then 2 ^ 32 - 1 - crc else crc)
  let s := laneSend s n (setSyms setSOF 0 (n % 8) ++ data.map Sym.data ++ setSyms setEOF 0 0)
  if misB || misO then
    let s := raise s fnCRD 15 p n
    if block then s else blockRelease s
  else s

/-- The gate guard's check of a port's choices (R261). -/
def vencCheck (p : Nat) (block : Bool) (s : State) : State :=
  let fb := armFb (imgOf s) p
  let bad := (mappedLanes s p).flatMap (fun n =>
    ((frameChoices s p n).zipIdx.filter (fun x => badChoice fb x.1)).map (fun x => (laneOf s n).first + x.2))
  let s := bad.foldl (fun s i =>
    raise (regSet (regInc s 0xF0050 31 0) 0xF0054 (at_ p 9 ||| at_ i 0)) fnGGD 12 p i) s
  if bad.isEmpty || block then s else blockRelease s

/-- The frames of one port leave: on every ACTIVE lane with a slice; BLOCK = 1 where every submodule of the port is in BLOCK. -/
def portFrames (idx : Nat) (build offs : List (Fin 48)) (s : State) (p : Nat) : State :=
  let lanes := (mappedLanes s p).filter (fun n => (laneOf s n).state = 7)
  let block := mustBlock s p || (mappedLanes s p).all (fun n => (frameChoices s p n).all (fun c => choiceBits (armFb (imgOf s) p) c = 0))
  let s := lanes.foldl (laneFrame p idx block build offs) (vencCheck p block s)
  updPort s p (fun x => { x with carry := !block && !lanes.isEmpty })

/-- A port in every tick: what waits for it to carry BLOCK, lanes to be taken out of service and new maps, and its delay budget (R211, R212,
R215). -/
def portAfter (s : State) (p : Nat) : State :=
  portJudge (if (portOf s p).carry then s
    else (portLanes p).foldl (fun s n => if (laneOf s n).offReq then laneOff s n else s) s) p

/-- The pattern of one tick on a lane in PRBS: as many groups as the tick has characters (R200, R237). -/
def prbsSend (s : State) (n : Nat) : State :=
  match (laneOf s n).prbs with
  | none => s
  | some p =>
    let x := prbsGroups (tickNs s * 1000 / charPs (laneOf s n).gen) p.tx
    updLane (send s (.lane n [] x.1)) n (fun l => { l with prbs := some { p with tx := x.2 } })

/-- The two FIL that every lane which transmits sends in a tick (R204), or its pattern (R237). -/
def laneFil (s : State) (n : Nat) : State :=
  if rxLit (laneOf s n) then setSend (setSend s n setFIL 0xB5 0xB5) n setFIL 0xB5 0xB5 else prbsSend s n

/-- The frames that leave at the boundary of index idx, and the fillers behind them. -/
def crdFrames (s : State) (idx : Nat) (build offs : List (Fin 48)) : State :=
  (List.range 50).foldl laneFil ((List.range 6).foldl (portFrames idx build offs) s)

/-- The delays in force move toward D_f by at most 100 ps per tick (R210). -/
def crdDelays (s : State) : State :=
  { s with crd := { s.crd with lanes := s.crd.lanes.map (fun l =>
      if l.state = 7 then
        let g := grid100 l.df 16
        { l with dl := if g > l.dl then l.dl + 100 else if g < l.dl then l.dl - 100 else l.dl }
      else l) } }

/-- An acknowledgement that no packet has carried leaves as a packet of its own, before MGT_RETRY_INT / 2 has passed (R227). -/
def ackTick (s : State) (n : Nat) : State :=
  match (laneOf s n).ackWait with
  | none => s
  | some k =>
    if 2 * (k + 2) * tickNs s > pNat (imgOf s) 0x090D then mgtAck s n false
    else updLane s n (fun l => { l with ackWait := some (k + 1) })

/-- The links at the end of a boundary: the delays in force, the ports judged by them, and acknowledgements that are due. -/
def crdAfter (s : State) : State := (List.range 50).foldl ackTick ((List.range 6).foldl portAfter (crdDelays s))

/-! ### Management channel commands (R226 to R228) -/

/-- Request data as the host wrote it. -/
def mgtData (s : State) (len : Nat) : List Byte :=
  ((List.range 13).flatMap (fun w => leBytes 4 (regGet s (0xD0810 + 4 * w)).toNat)).take len

/-- MGT_REQUEST: a write of CRD_MGT_CTL (R228). -/
def execMgtRequest (pf : Pf) (key : BitVec 16) (port : Fin 8) (len : Fin 128) (tag : Fin 64) (s : State) :
    Host.Outcome State Fault Refusal :=
  .next (hostPf0 (begin s) pf 0xD0800 (fun s =>
    let stat := fun (st : Nat) => { s with crd := { s.crd with mgtStat := st, mgtTag := tag } }
    let x := portOf s port
    if key ≠ 0x4D47 then stat 6
    else if 6 ≤ port.val ∨ (x.state ≠ 4 ∧ x.state ≠ 5) then stat 5
    else if x.req.isSome then s
    else
      match mgtLane s port with
      | none => stat 5
      | some n =>
        let s := updPort (stat 1) port (fun x => { x with req := some tag })
        mgtPost { s with crd := { s.crd with mgtRetr := 0, mgtFresh := false } } n 4 tag (mgtData s len)))

/-- No packet of a port's request is sent again (R228). -/
def mgtCancel (s : State) (p : Nat) : State := (portLanes p).foldl mgtShed s

/-- MGT_RESPONSE_RX: the outstanding request of the port ends DONE (R228). -/
def execMgtResponseRx (port : Fin 6) (tag : BitVec 16) (data : PacketHead × List Byte) (s : State) : Host.Outcome State Fault Refusal :=
  let s := begin s
  .next (match mgtLane s port with
    | none => s
    | some n =>
      if 52 < data.2.length then mgtAck s n true
      else
        let seen := mgtSeen s n data.1.seq
        let s := mgtGot s n data.1.seq data.1.ack
        if !seen && (portOf s port).req = some tag.toNat then reqEnd (mgtCancel s port) port 2 data.2 else s)

/-- MGT_EVENT_RX: acknowledged and written to the event log; a packet received twice is delivered once (R226, R227). -/
def execMgtEventRx (lane : Fin 48) (head : PacketHead) (data : List Byte) (s : State) : Host.Outcome State Fault Refusal :=
  let s := begin s
  let seen := mgtSeen s lane head.seq
  .next (if data.length ≠ 12 then mgtAck s lane true
    else
      let s := mgtGot s lane head.seq head.ack
      if seen then s
      else logNow s fnCRD 0x82 (argAt 0 (lane.val / 8) + argAt 1 (lane.val % 8) + argAt 2 (leAt data 0 2) + argAt 4 (leAt data 2 2)
        + argAt 6 (leAt data 4 6)))

/-- MGT_FOM_RX: the unit's eye margin (R227, R230). -/
def execMgtFomRx (lane : Fin 48) (fom : PacketHead × Byte) (s : State) : Host.Outcome State Fault Refusal :=
  let s := begin s
  let seen := mgtSeen s lane fom.1.seq
  let s := mgtGot s lane fom.1.seq fom.1.ack
  .next (if seen then s else eyeJudge s lane true fom.2.toNat)

/-- MGT_ACK_RX: ACK of the outstanding packet, or NAK, which sends it again (R226). -/
def execMgtAckRx (lane : Fin 50) (ack : Byte) (nak : Bool) (s : State) : Host.Outcome State Fault Refusal :=
  let s := begin s
  .next (match (laneOf s lane).mgt with
    | [] => s
    | p :: _ => if nak then mgtResend s lane else if ack.toNat = p.seq then mgtPop s lane else s)

/-- MGT_RETRY_TIMER (R226). -/
def execMgtRetryTimer (lane : Fin 50) (s : State) : Host.Outcome State Fault Refusal := .next (mgtResend (begin s) lane)

/-- MGT_REQ_TIMEOUT: the request ends TIMEOUT, its retry is cancelled and its count frozen (R228, R379). -/
def execMgtReqTimeout (port : Fin 6) (s : State) : Host.Outcome State Fault Refusal :=
  let s := begin s
  .next (if (portOf s port).req.isSome then
    reqEnd (mgtCancel s port) port 4 []
  else s)

/-- CRD_MGT_RES as it reads. -/
def mgtResWord (s : State) (fresh : Bool) : Word :=
  at_ (min 15 s.crd.mgtRetr) 20 ||| at_ (if fresh then s.crd.mgtTag else s.crd.mgtTagLat) 14 ||| at_ s.crd.mgtLat.length 8
    ||| flagAt fresh 7 ||| at_ s.crd.mgtStat 0

/-- MGT_RES_READ: the first read after a request has ended returns FRESH = 1 and latches the response (R228). -/
def execMgtResRead (pf : Pf) (s : State) : Host.Outcome State Fault Refusal :=
  .next (hostRead (begin s) pf fnCRD (fun s =>
    if s.crd.mgtFresh then
      let s := { s with crd := { s.crd with mgtFresh := false, mgtLat := s.crd.mgtData, mgtTagLat := s.crd.mgtTag } }
      { s with rdata := mgtResWord s true }
    else { s with rdata := mgtResWord s false }))

/-! ### Service pulses (R234) -/

/-- STATUS of the service pulse. -/
def svcRes (s : State) (st : Nat) : State := { s with crd := { s.crd with svcRes := st } }

/-- A submodule's choice is BLOCK from now on. -/
def smBlock (p i : Nat) (r : Rdl) : Rdl :=
  let m := smOf r p i
  if m.choice = 0 then r
  else { r with sms := tabSet Sm.fresh r.sms (smKey p i) { m with choice := 0, age := 0, dwell := 0, changes := satInc 32 m.changes } }

/-- The running service pulse ends with a status; its submodule is in BLOCK in the next frame, whichever tick's choices that carries. -/
def svcEnd (s : State) (st : Nat) : State :=
  match s.crd.svc with
  | none => s
  | some (p, sm, _, _) =>
    let w := 0xC010C + 0x20 * p
    let s := if (smOf s.rdl p sm).choice = 0 then s else regPut s w 31 0 (satNat 32 (regF s w 31 0 + 1))
    let s := { s with rdl := smBlock p sm s.rdl, rdlOld := smBlock p sm s.rdlOld, crd := { s.crd with svc := none, svcRes := st } }
    logNow s fnCRD 0x83 (argAt 0 p + argAt 2 sm + argAt 4 st)

/-- What keeps a PULSE from being accepted, as the STATUS it ends with; 0 where nothing does. -/
def svcRefused (s : State) (key : BitVec 16) (choice port sm : Nat) : Nat :=
  let img := imgOf s
  let isol := tabGet SigW.none s.fab.sink (sigKey 6 2 0)
  let len := (regGet s 0xD0094).toNat % 1024
  if key ≠ 0x5350 then 4
  else if s.sys.mode ≠ .md11 then 5
  else if !s.red.lease then 6
  else if 6 ≤ port || (portOf s port).state ≠ 4 || !isol.v || isol.m = 0 then 7
  else if armSms img port ≤ sm || smReason s.rdl port sm ≠ 0 || (choice = 3 && !armFb img port) then 8
  else if s.rdl.run.isSome || s.crd.svc.isSome then 9
  else if choice = 0 || len = 0 || 1000 < len then 10
  else 0

/-- SVC_PULSE: CRD_SVC_CTL with CMD = 1. -/
def execSvcPulse (pf : Pf) (key : BitVec 16) (choice : Fin 4) (port : Fin 8) (sm : Fin 512) (s : State) :
    Host.Outcome State Fault Refusal :=
  .next (hostPf0 (begin s) pf 0xD0090 (fun s =>
    let r := svcRefused s key choice port sm
    if r ≠ 0 then svcRes s r
    else
      let len := (regGet s 0xD0094).toNat % 1024
      { s with crd := { s.crd with svc := some (port, sm, choice, len), svcRes := 1 } }))

/-- SVC_STOP: CRD_SVC_CTL with CMD = 2. -/
def execSvcStop (pf : Pf) (key : BitVec 16) (s : State) : Host.Outcome State Fault Refusal :=
  .next (hostPf0 (begin s) pf 0xD0090 (fun s => if key ≠ 0x5350 then svcRes s 4 else svcEnd s 3))

/-- SVC_PULSE_END: the pulse has run its length. -/
def execSvcPulseEnd (s : State) : Host.Outcome State Fault Refusal := .next (svcEnd (begin s) 2)

/-- One phase D of a running pulse: its remaining ticks, and its end after the last (R234). -/
def svcTick (s : State) : State :=
  match s.crd.svc with
  | none => s
  | some (p, sm, c, n) =>
    if n = 0 then svcEnd s 2
    else { s with crd := { s.crd with svc := some (p, sm, c, n - 1) } }

/-! ### What a change of mode, of the clocks or of the image does to the links -/

/-- A change of mode (R206, R211, R212, R231, R234). `claim` is whether MD_3 ends through a claim, whose lanes send WAK at HOLDER. -/
def crdMode (s : State) (old new : Mode) (claim : Bool) : State :=
  let s := if old = .md11 then svcEnd s 3 else s
  if new = .md3 then crdSleep s
  else if old = .md3 then (if claim then crdStart (crdRise s) else crdWake s)
  else
    let s := crdStart s
    if old = .md11 ∨ new = .md11 then (List.range 48).foldl lanePrbs s else s

/-- Reset of CRD (R40): every valve port and its lanes OFF; they train as from OFF once it is ready. The partner lanes, which are controlled from
the RED window (R199), run on. -/
def crdReset (s : State) : State :=
  let s := svcEnd ((List.range 6).foldl portDark s) 3
  let c := s.crd
  { s with crd := { c with
      cmdRes := 0, mgtStat := 0, mgtTag := 0, mgtRetr := 0, mgtData := [], mgtFresh := false, mgtLat := [], mgtTagLat := 0, svcRes := 0 } }

end Sys2Proof.Machine
end

