-- ==== Sys2Proof/Machine/FieldIo.lean ====
section
/-!
DEFINITION. Field inputs and outputs, the management port and the live block (chapter Field I/O and management port).
-/
namespace Sys2Proof.Machine

/-! ### Outputs (R442, R443, R446) -/

/-- FIO changed. -/
def fioSet (s : State) (f : Fio → Fio) : State := { s with fio := f s.fio }

/-- Bit k of a number set or cleared. -/
def putBit (v k : Nat) (b : Bool) : Nat := if b then v ||| 2 ^ k else v - (v &&& 2 ^ k)

/-- The image has a FIELD section. -/
def hasField (s : State) : Bool := hasSect (imgOf s) 0x0F

/-- Output n is enabled: by the image in force, or, where MD_0 has taken it away, by the configuration last in force (R443, R458). -/
def outEn (s : State) (n : Nat) : Bool :=
  if s.img.live.isNone then s.fio.dieEn.testBit n else hasField s && (pNat (imgOf s) 0x0F05).testBit n

/-- OUT_SAFE of output n: 0 OFF, 1 ON, 2 HOLD. -/
def outSafe (s : State) (n : Nat) : Nat :=
  if s.img.live.isNone then nth 0 s.fio.dieSafe n else pNatAt (imgOf s) 0x0F07 n

/-- OUT_SRC of an output: 0 host, 1 fabric, 2 N9. -/
def outSrc (s : State) (n : Nat) : Nat := pNatAt (imgOf s) 0x0F06 n

/-- The output that BRK_OUT names; none without a SWING section (R449). -/
def brkOut (s : State) : Option Nat := if hasSect (imgOf s) 0x07 then some (pNat (imgOf s) 0x072F) else none

/-- OUT_SAFE as a level; HOLD keeps the last one (R443). -/
def safeLevel (s : State) (n : Nat) : Bool :=
  match outSafe s n with
  | 1 => true
  | 2 => s.fio.level.testBit n
  | _ => false

/-- The level to which the field die brings a silent output: the OUT_SAFE it holds, OFF for an output that its configuration does not enable (R446). -/
def dieLevel (s : State) (n : Nat) : Bool :=
  s.fio.dieEn.testBit n && (match nth 0 s.fio.dieSafe n with
    | 1 => true
    | 2 => s.fio.level.testBit n
    | _ => false)

/-- The rank of R443 that applies to an output, and the level it gives. A field die without a configuration holds the output OFF, as in the
silence state. Where the logic side lost its power before it could send OUT_SAFE, an output keeps its level until it is silent (R446). -/
def outRank (s : State) (n : Nat) : Nat × Bool :=
  if s.fio.uv then (1, false)
  else if !s.fio.config then (2, false)
  else if s.fio.silent.testBit n then (2, dieLevel s n)
  else if s.fio.cut then (4, s.fio.level.testBit n)
  else if s.saf.lock && (pNat (imgOf s) 0x0605).testBit n then (3, safeLevel s n)
  else if s.sys.mode = .md0 || s.sys.mode = .md1 || !hasField s || s.frst.inReset.testBit 21 || !outEn s n then
    (4, outEn s n && safeLevel s n)
  else
    match outSrc s n with
    | 1 =>
      let w := nth SigW.none s.fio.fab n
      if w.v && s.sys.mode ≠ .md3 then (6, w.m ≠ 0) else (5, safeLevel s n)
    | 2 => (6, s.fio.n9.testBit n)
    | _ => (6, s.fio.host.testBit n)

/-- The configuration of the image in force becomes the one last in force; without an image there is none to take. -/
def dieTake (s : State) (f : Fio) : Fio :=
  if s.img.live.isNone then f else { f with dieEn := bitsOf 16 (outEn s), dieSafe := (List.range 16).map (outSafe s) }

/-- LNK_D carries the configuration in force to a field die that has one (R436). -/
def dieFollow (s : State) : State := if s.fio.link && s.fio.config then fioSet s (dieTake s) else s

/-- The levels that leave are formed again; a BRK_CLOSE pulse that ranks 1 to 4 cut short is not resumed. -/
def fioEval (s0 : State) : State :=
  let s := dieFollow s0
  let rs := (List.range 16).map (outRank s)
  let n9 := match brkOut s with
    | some n => if (nth (6, false) rs n).1 ≤ 4 then putBit s.fio.n9 n false else s.fio.n9
    | none => s.fio.n9
  fioSet s (fun f =>
    { f with level := bitsOf 16 (fun n => (nth (6, false) rs n).2), safe := bitsOf 16 (fun n => decide ((nth (6, false) rs n).1 ≤ 5)), n9 := n9 })

/-- An output that the N9 drives takes a level (R442). -/
def driveN9 (s : State) (n : Nat) (on : Bool) : State :=
  if n < 16 then fioEval (fioSet s (fun f => { f with n9 := putBit f.n9 n on })) else s

/-- The precharge sequence drives its two outputs. -/
def preOutputs (s : State) (chg byp : Bool) : State :=
  driveN9 (driveN9 s (pNat (imgOf s) 0x0118) chg) (pNat (imgOf s) 0x0119) byp

/-- A mask names only outputs whose source is the host (R442). -/
def hostMask (s : State) (mask : Nat) : Bool := (List.range 16).all (fun n => !mask.testBit n || outSrc s n = 0)

/-- The host outputs of a mask take values. -/
def outTake (s : State) (mask value : Nat) : State :=
  fioEval (fioSet s (fun f => { f with host := bitsOf 16 (fun n => if mask.testBit n then value.testBit n else f.host.testBit n) }))

/-- A FIO_OUT action: whether it was carried out. -/
def fioAction (s : State) (v : Word) : Bool × State :=
  if 2 ≤ s.sys.mode.code ∧ hostMask s (field v 31 16) then (true, outTake s (field v 31 16) (field v 15 0)) else (false, raise s fnFIO 6 0 0)

/-- FIO_OUT_WR (R442, R450). -/
def execFioOutWr (pf : Pf) (v : Word) (s : State) : Host.Outcome State Fault Refusal :=
  .next (hostPf0 (begin s) pf 0x150020 (fun s =>
    let res := fun (s : State) (st : Nat) => fioSet s (fun f => { f with outRes := st })
    if s.sys.mode.code < 2 then res (raise s fnFIO 6 0 0) 3
    else if hostMask s (field v 31 16) then res (outTake s (field v 31 16) (field v 15 0)) 1
    else res (raise s fnFIO 6 0 0) 2))

/-- BRK_PULSE_END: the close pulse has lasted VAL µs (R442). -/
def execBrkPulseEnd (s : State) : Host.Outcome State Fault Refusal :=
  let s := begin s
  .next (match brkOut s with
    | some n => driveN9 s n false
    | none => s)

/-! ### Inputs (R438 to R440) -/

/-- The input filters run. -/
def fioRuns (s : State) : Bool :=
  (s.sys.mode = .md2 || decide (4 ≤ s.sys.mode.code)) && !s.frst.inReset.testBit 21 && s.clk.state = 2

/-- Bit i is the VALID of input i (R440). -/
def fioValid (s : State) : Nat :=
  bitsOf 16 (fun i => hasField s && (pNat (imgOf s) 0x0F01).testBit i && s.fio.filled.testBit i && !(s.fio.brk.testBit i && pNatAt (imgOf s) 0x0F04 i = 1)
    && !s.fio.low && s.fio.link && fioRuns s)

/-- Bit i: input i reads BREAK, which only an input with IN_WB does (R439). -/
def fioBreak (s : State) : Nat := bitsOf 16 (fun i => s.fio.brk.testBit i && pNatAt (imgOf s) 0x0F04 i = 1)

/-- The filters start with every counter and every level at 0. -/
def fioStart (s : State) : State :=
  fioSet s (fun f => { f with cnt := List.replicate 16 0, taken := List.replicate 16 0, lvl := 0, filled := 0 })

/-- Input i's counter after an ON or an OFF sample, between 0 and IN_FILT (R438). -/
def countStep (n c : Nat) (on : Bool) : Nat := if on then min n (c + 1) else min n c - 1

/-- One sample of input i reaches its filter (R438): the counter, the level at its two ends, FIO_IN_CNT, and the samples taken (R440). -/
def fioSample (i : Nat) (s : State) (on : Bool) : State :=
  let n := pNatAt (imgOf s) 0x0F03 i
  let c := countStep n (nth 0 s.fio.cnt i) on
  let was := s.fio.lvl.testBit i
  let lvl := if n ≤ c then true else if c = 0 then false else was
  let t := min n (nth 0 s.fio.taken i + 1)
  let s := fioSet s (fun f => { f with
    cnt := setNth f.cnt i c, taken := setNth f.taken i t, lvl := putBit f.lvl i lvl, filled := if n ≤ t then putBit f.filled i true else f.filled })
  if lvl && !was then regInc s (0x150100 + 4 * i) 31 0 else s

/-- The samples of an input, in order. An input in BREAK has none (R439), and the filters take them only while they run. -/
def fioSamples (s : State) (i : Nat) (l : List Bool) : State :=
  if fioRuns s && !(fioBreak s).testBit i then l.foldl (fioSample i) s else s

/-- FIO_INPUT_CHANGE: the samples of an input, true for ON, up to the one that brings its counter to an end. -/
def execFioInputChange (i : Fin 16) (samples : List Bool) (s : State) : Host.Outcome State Fault Refusal :=
  .next (fioSamples (begin s) i samples)

/-- FIO_FILTER_FILLED: the samples of an input up to its IN_FILT-th since FIO started (R440). -/
def execFioFilterFilled (x : Fin 16 × List Bool) (s : State) : Host.Outcome State Fault Refusal :=
  .next (fioSamples (begin s) x.1 x.2)

/-- INPUT_BREAK: 10 ms of low current on an input with IN_WB (R439). -/
def execInputBreak (i : Fin 16) (s : State) : Host.Outcome State Fault Refusal :=
  let s := begin s
  .next (if pNatAt (imgOf s) 0x0F04 i = 1 && !s.fio.brk.testBit i then
    raise (fioSet s (fun f => { f with brk := putBit f.brk i true })) fnFIO 3 i 0
  else s)

/-- INPUT_BREAK_END (R439). -/
def execInputBreakEnd (i : Fin 16) (s : State) : Host.Outcome State Fault Refusal :=
  .next (fioSet (begin s) (fun f => { f with brk := putBit f.brk i false }))

/-! ### Field supply and link (R440, R441, R444 to R446) -/

/-- FIO_STAT.FAULT: the common fault bit. -/
def fioFault (f : Fio) : Bool := f.fault || f.uv

/-- The field die's report changes: each rise of the fault bit and of the supply conditions is raised. -/
def fioReport (s : State) (f : Fio → Fio) : State :=
  let o := s.fio
  let s := fioSet s f
  let n := s.fio
  let s := if n.uv && !o.uv then raise s fnFIO 1 0 0 else s
  let s := if n.low && !o.low then raise s fnFIO 2 0 0 else s
  let s := if fioFault n && !fioFault o then raise s fnFIO 0 0 0 else s
  fioEval s

/-- FIELD_SUPPLY_LOW: the field supply falls below 18 V, or below 15 V. At 0 V the field die, which draws its power from it, has lost its
configuration (DESIGN CHOICE: R446 speaks of a die that has just powered up and gives no voltage). -/
def execFieldSupplyLow (mv : BitVec 16) (s : State) : Host.Outcome State Fault Refusal :=
  .next (fioReport (begin s) (fun f =>
    { f with mv := mv.toNat, uv := f.uv || decide (mv.toNat < 18000), low := decide (mv.toNat < 15000), config := f.config && mv ≠ 0 }))

/-- FIELD_SUPPLY_OK: the field supply rises above 19 V. -/
def execFieldSupplyOk (mv : BitVec 16) (s : State) : Host.Outcome State Fault Refusal :=
  .next (fioReport (begin s) (fun f =>
    { f with mv := mv.toNat, uv := f.uv && decide (mv.toNat ≤ 19000), low := decide (mv.toNat < 15000) }))

/-- FIELD_OUTPUT_FAULT: the comparators' common fault bit sets or clears (R444). -/
def execFieldOutputFault (present : Bool) (s : State) : Host.Outcome State Fault Refusal :=
  .next (fioReport (begin s) (fun f => { f with fault := present }))

/-- FIELD_LINK_SILENT: 100 µs without the link (R440). -/
def execFieldLinkSilent (s : State) : Host.Outcome State Fault Refusal :=
  let s := begin s
  .next (if s.fio.link then raise (fioSet s (fun f => { f with link := false })) fnFIO 5 0 0 else s)

/-- FIELD_SILENCE: outputs whose coupler has been silent for SIL_TIMEOUT go to OUT_SAFE in the field die (R446). -/
def execFieldSilence (mask : BitVec 16) (s : State) : Host.Outcome State Fault Refusal :=
  .next (fioEval (fioSet (begin s) (fun f => { f with silent := f.silent ||| mask.toNat })))

/-- What LNK_D carries: output types, safe states and the silence timeout (R436), in the order in which R436 names them. -/
def linkConfig (s : State) : List Byte :=
  leBytes 2 (bitsOf 16 (outEn s)) ++ (List.range 16).map (fun n => BitVec.ofNat 8 (pNatAt (imgOf s) 0x0F07 n)) ++ leBytes 4 (pNat (imgOf s) 0x0F08)

/-- FIELD_CONFIG_RESEND: a complete configuration ends the silence state at the next keep-alive (R446). Until an image is in force there is
none to send, and only the link returns (DEDUCED). -/
def execFieldConfigResend (s : State) : Host.Outcome State Fault Refusal :=
  let s := begin s
  .next (if s.sys.mode = .md0 then s
    else if s.img.live.isNone then fioSet s (fun f => { f with link := true })
    else
      let s := send s (.field (linkConfig s))
      fioEval (raise (fioSet s (fun f => { dieTake s f with link := true, config := true, silent := 0 })) fnFIO 4 0 0))

/-- FIO as MD_0 finds it (R443, R446, R458): the filters, the stored host values and what the link reports of its own state are lost; the
field die, which has its own supply, keeps its conditions, its configuration and the levels that HOLD needs. -/
def fioMd0 (s : State) : Fio :=
  let f := s.fio
  dieTake s { Fio.reset with
    fault := f.fault, uv := f.uv, low := f.low, mv := f.mv, level := f.level, silent := f.silent, cut := f.cut, config := f.config, dieEn := f.dieEn
    dieSafe := f.dieSafe }

/-- Reset of FIO (R40): outputs to their safe state at once, and the inputs read invalid until their filters refill. -/
def fioReset (s : State) : State := fioEval (fioStart (fioSet s (fun f => { f with outRes := 0 })))

/-! ### Management port and live block (R451 to R453) -/

/-- MON changed. -/
def monSet (s : State) (f : Mon → Mon) : State := { s with mon := f s.mon }

/-- The fields of the live block whose source cannot be read at a refresh keep what they held (R452): those of SYS, RED, SEC and TIM in MD_0,
of SEC also while the outputs are gated, and of FIO in all of these and in MD_3 (DEDUCED: R383 has the windows of the always-on bridge). -/
def liveHeld (s : State) (fn : Nat) : Bool :=
  s.sys.mode = .md0 || (fn = fnSEC && s.clk.state ≠ 2) || (fn = fnFIO && (s.clk.state ≠ 2 || s.sys.mode = .md3))

/-- FLAGS of the live block but for FRESH. -/
def liveFlags (s : State) : Nat :=
  let old := leAt s.mon.live 1 1
  let of_ := fun (fn k : Nat) (b : Bool) => 2 ^ k * b2n (if liveHeld s fn then old.testBit k else b)
  of_ fnSYS 1 s.sys.halt + of_ fnSYS 2 (s.sys.trans.isSome || s.sys.live.isSome) + 8 * b2n s.saf.lock + of_ fnFIO 4 (fioFault s.fio)
    + 32 * b2n (s.clk.state = 2) + of_ fnRED 6 (tokenHeld s) + of_ fnTIM 7 (nth Tb.reset s.tim.tbs s.tim.sys).trace

/-- RED_STAT.STATE code (R345). -/
def redCode (r : RedState) : Nat :=
  match r with
  | .off => 0 | .single => 1 | .standby => 2 | .claiming => 3 | .holder => 4 | .released => 5

/-- The live block at a refresh. -/
def liveBytes (s : State) (m : Measured) (seq : Nat) : List Byte :=
  let w16 := fun (l : List (BitVec 16)) n => (List.range n).flatMap (fun k => leBytes 2 (nth 0 l k).toNat)
  let of_ := fun (fn off n v : Nat) => if liveHeld s fn then sliceBytes s.mon.live off n else leBytes n v
  leBytes 1 seq ++ leBytes 1 (liveFlags s) ++ leBytes 1 s.sys.mode.code ++ of_ fnSYS 3 1 s.sys.prev.code ++ of_ fnRED 4 1 (redCode s.red.state)
    ++ of_ fnSEC 5 1 s.sec.bootRes ++ zeros 2 ++ of_ fnRED 8 4 s.red.epoch ++ leBytes 4 (s.mon.uptime / 1000) ++ w16 m.rails 12 ++ w16 m.amps 4
    ++ leBytes 4 m.power.toNat ++ of_ fnFIO 0x34 2 s.fio.mv ++ zeros 2 ++ w16 m.temps 4 ++ zeros 64

/-- MON_LIVE_REFRESH: every 1 ms. -/
def execMonLiveRefresh (m : Measured) (s : State) : Host.Outcome State Fault Refusal :=
  let s := begin s
  let s := if s.sys.mode = .md0 then s else monSet s (fun x => { x with uptime := x.uptime + 1 })
  let seq := (s.mon.seq + 1) % 256
  .next (monSet s (fun x => { x with seq := seq, live := liveBytes s m seq, fresh := true, freshH := true }))

/-- The block as a latch takes it: FRESH in bit 0 of FLAGS. -/
def latchBlock (live : List Byte) (fresh : Bool) : List Byte :=
  live.take 1 ++ [(nth 0 live 1) ||| (if fresh then 1 else 0)] ++ live.drop 2

/-- A byte of the management port's map; addresses without content read 0xFF. -/
def mgtByte (s : State) (a : Nat) : Byte :=
  if a < 0x200 then nth 0 identity a
  else if a < 0x280 then nth 0 s.mon.lat (a - 0x200)
  else 0xFF

/-- The pointer after a byte (R451). -/
def ptrNext (p : Nat) : Nat := if p = 0x3FF then 0 else (p + 1) % 65536

/-- The bytes of a read of n from a pointer. -/
def mgtBytes (s : State) : Nat → Nat → List Byte × Nat
  | 0, p => ([], p)
  | n + 1, p =>
    let (bs, q) := mgtBytes s n (ptrNext p)
    (mgtByte s p :: bs, q)

/-- The port acknowledges: the core supply has been valid, and MON is out of reset. -/
def mgtUp (s : State) : Bool := s.mon.served && !s.frst.inReset.testBit 22

/-- MGT_WRITE_TXN: a pointer; data after it has no effect. `x.2` is whether the transaction goes on, with its stop still to come. -/
def execMgtWriteTxn (ptr : BitVec 16) (x : List Byte × Bool) (s : State) : Host.Outcome State Fault Refusal :=
  let s := begin s
  .next (if mgtUp s then monSet s (fun m => { m with ptr := ptr.toNat, busy := x.2 }) else s)

/-- MGT_READ_TXN: `x.1` bytes from the pointer; a read that starts at 0x0200 latches the block. `x.2` is whether the transaction goes on. -/
def execMgtReadTxn (x : Nat × Bool) (s : State) : Host.Outcome State Fault Refusal :=
  let s := begin s
  .next (if mgtUp s then
    let s := if s.mon.ptr = 0x200 then monSet s (fun m => { m with lat := latchBlock m.live m.fresh, fresh := false }) else s
    let (bs, q) := mgtBytes s x.1 s.mon.ptr
    send (monSet s (fun m => { m with ptr := q, busy := x.2 })) (.i2c bs)
  else s)

/-- MGT_BUS_TIMEOUT (R451). -/
def execMgtBusTimeout (s : State) : Host.Outcome State Fault Refusal :=
  let s := begin s
  .next (if mgtUp s then raise (monSet s (fun x => { x with busy := false })) fnMON 2 0 0 else s)

/-- MON_LIVE_READ: a read of MON_LIVE_w; w = 0 latches the block for the host (R453). -/
def execMonLiveRead (pf : Pf) (w : Fin 32) (s : State) : Host.Outcome State Fault Refusal :=
  .next (hostRead (begin s) pf fnMON (fun s =>
    let s := if w.val = 0 then monSet s (fun x => { x with latH := latchBlock x.live x.freshH, freshH := false }) else s
    { s with rdata := at_ (leAt s.mon.latH (4 * w.val) 4) 0 }))

/-- SUPPLY_WARN: a rail leaves its warning window (R456). -/
def execSupplyWarn (_rail : Fin 12) (s : State) : Host.Outcome State Fault Refusal := .next (raise (begin s) fnMON 0 0 0)

/-- TEMP_WARN: a die exceeds its warning threshold (R467). -/
def execTempWarn (_die : Fin 4) (s : State) : Host.Outcome State Fault Refusal := .next (raise (begin s) fnMON 1 0 0)

/-- Reset of MON (R40, R451): the pointer returns to 0. -/
def monReset (s : State) : State := monSet s (fun x => { x with ptr := 0, busy := false })

end Sys2Proof.Machine
end

