-- ==== Sys2Proof/Machine/Operands.lean ====
section
/-!
DEFINITION. The forms in which a host access names what it acts on: the row of an array of registers that an offset falls in
(R13), the KEY of a keyed command and the numbers in its fields.
-/
namespace Sys2Proof.Machine

/-- Row and offset inside it, of an offset in `n` rows of `stride` bytes from `base`. -/
def inRows (o base stride n : Nat) : Option (Nat × Nat) :=
  if base ≤ o ∧ o < base + stride * n then some ((o - base) / stride, (o - base) % stride) else none

/-- KEY of a keyed command. -/
def keyOf (v : Word) : BitVec 16 := v.extractLsb' 16 16

/-- A field of a written word as an instance number below n. -/
def finF (n : Nat) [NeZero n] (v : Word) (hi lo : Nat) : Fin n := Fin.ofNat n (field v hi lo)

end Sys2Proof.Machine
end

