-- ==== Sys2Proof/Machine/Recorder.lean ====
section
/-!
DEFINITION. The disturbance recorder (chapter Disturbance recorder). Values of samples and thresholds are compared as integers
scaled by 2^159, which holds every mantissa at every exponent exactly.
-/
namespace Sys2Proof.Machine

/-! ### Settings and sets (R295 to R298) -/

/-- The settings in force, or the image's before the first fill. -/
def recImg (s : State) : Image := s.rcd.image.getD (imgOf s)

/-- An analogue channel is recorded. -/
def recAna (img : Image) (i : Nat) : Bool := (pNat img 0x0C04).testBit i && (pNat img 0x0B01).testBit i

/-- A fabric channel has a source. -/
def recFab (img : Image) (j : Nat) : Bool :=
  img.nodes.any (fun r => r.type = 7 && r.sub = 3 && leAt r.spec 0 2 = 0 && leAt r.spec 2 2 = j)

/-- Recorded analogue channels. -/
def recAnas (img : Image) : List Nat := (List.range 32).filter (recAna img)

/-- Recorded fabric channels. -/
def recFabs (img : Image) : List Nat := (List.range 32).filter (recFab img)

/-- S_set (R298). -/
def setSize (img : Image) : Nat := (4 * (recAnas img).length + 8 * (recFabs img).length + 15) / 16 * 16

/-- C_set (R304). -/
def setCount (img : Image) : Nat := (pNat img 0x0C03 * 1024 - 4096) / max 1 (setSize img)

/-- N_slot (R304). -/
def slotCount (img : Image) : Nat := min 256 (pNat img 0x0C02 * 1024 / max 1 (pNat img 0x0C03))

/-- Configured RATE. -/
def recRate (img : Image) : Nat := pNat img 0x0C05

/-- The word of fabric channel j in the tick that ended at the last boundary (R297). -/
def fabWord (s : State) (j : Nat) : SigW := tabGet SigW.none s.fab.sinkOld (sigKey 3 0 j)

/-- Bytes of the set at this instant (R298). -/
def setBytes (s : State) (img : Image) : List Byte :=
  let a := (recAnas img).flatMap (fun i => leBytes 4 (chainOf s i).word.toNat)
  let f := (recFabs img).flatMap (fun j =>
    let w := fabWord s j
    leBytes 4 (ofSigned 32 w.m) ++ leBytes 1 (ofSigned 8 w.e) ++ leBytes 1 (b2n w.v) ++ [0, 0])
  padTo (setSize img) (a ++ f)

/-- Units of 312.5 ns in a tick. -/
def tickUnits (s : State) : Nat := tickNs s * 2 / 625

/-- The instant lies on the grid of a RATE (R296). -/
def onGrid (s : State) (rate : Nat) : Bool :=
  let o := s.rcd.tick
  let t := max 1 (tickUnits s)
  if 2 ^ rate ≤ t then o < t && o % 2 ^ rate = 0 else o = 0 && s.fab.idx % (2 ^ rate / t) = 0

/-- Time value of the set instant, in 2^−16 ns of a time base. -/
def instTime (s : State) (b : Nat) : Nat := (nth Tb.reset s.tim.tbs b).val + s.rcd.tick * 20480000

/-- Time value of the set instant on the recorder's time base. -/
def setTime (s : State) (img : Image) : Nat := instTime s (pNat img 0x0C0C)

/-! ### Values (R299, R300) -/

/-- A word as an integer scaled by 2^159; none where it is no value. -/
def exactVal (w : SigW) : Option Int := if w.v && w.e ≠ -128 then some (w.m * 2 ^ (w.e + 128).toNat) else none

/-- A BFP parameter instance in the same scale. -/
def exactParam (img : Image) (pid u : Nat) : Int := pBfpAt 159 img pid u

/-- The word of a recorded channel as the fabric sees it. -/
def chanWord (s : State) (c : Nat) : SigW :=
  if c < 32 then
    let w := (chainOf s c).word
    let e := match paramRec (imgOf s) 0x0B06 c with | some p => p.exp | none => 0
    ⟨toSigned 24 (field w 31 8) * 256, e, bit w 7⟩
  else fabWord s (c - 32)

/-- A scaled value as a mantissa in Q1.31 and an exponent. -/
def bfpOf (x : Int) : Int × Int :=
  if x = 0 then (0, -64)
  else
    let e := max (-64) ((Nat.log2 x.natAbs : Int) + 1 - 159)
    (clampInt (-2147483648) 2147483647 (alignBy x (-128 - e)), e)

/-- Bytes 8 to 15 of TRIG_MEAS for a value: mantissa and exponent. -/
def bfpMeas (x : Int) : Int := let (m, e) := bfpOf x; ofSigned 32 m + ofSigned 8 e * 2 ^ 32

/-- A time parameter of a unit in whole set periods (R299). -/
def unitSets (img : Image) (pid u : Nat) : Nat := (roundDiv (pNatAt img pid u * 2) (625 * 2 ^ recRate img)).toNat

/-! ### Trigger units (R299 to R301) -/

/-- What one unit sees of a set: the word, its WIN, and whether it fires by its type; with what it remembers. -/
def unitStep (s : State) (img : Image) (u : Nat) (t : TrigUnit) : Bool × TrigUnit :=
  let c := pNatAt img 0x0C11 u
  let w := chanWord s c
  let neg := pNatAt img 0x0C12 u = 1
  let pol := fun (x : Int) => if neg then -x else x
  let a := pol (exactParam img 0x0C13 u)
  let b := pol (exactParam img 0x0C14 u)
  let hy := exactParam img 0x0C15 u
  let x := (exactVal w).map pol
  let win := c < 32 && bit (chainOf s c).word 6
  let type := pNatAt img 0x0C10 u
  let t1 := unitSets img 0x0C16 u
  let base := { t with win := win, valid := w.v }
  match type with
  | 1 => (win && !t.win, base)
  | 2 => (t.valid && !w.v, base)
  | 3 =>
    match x with
    | none => (false, { base with pulse := false })
    | some v =>
      if !t.pulse then (false, if v > a then { base with pulse := true, run := 0 } else base)
      else if v < a - hy then
        let n := t.run + 1
        let inside := decide (t1 ≤ n) && decide (n ≤ unitSets img 0x0C17 u)
        (inside ≠ (pNatAt img 0x0C18 u = 1),
          { base with pulse := false, meas := roundDiv (n * 625 * 2 ^ recRate img) 2 })
      else (false, { base with run := t.run + 1 })
  | 4 =>
    match x with
    | none => (false, { base with pulse := false })
    | some v =>
      if !t.pulse then (false, if v > a then { base with pulse := true, beyond := decide (v > b), peak := v } else base)
      else if v < a - hy then (!t.beyond, { base with pulse := false, meas := bfpMeas (pol t.peak) })
      else (false, { base with beyond := t.beyond || decide (v > b), peak := max t.peak v })
  | 5 =>
    let side := match x, t.above with
      | some v, some true => some (!decide (v < a - hy))
      | some v, _ => some (decide (v > a))
      | none, o => o
    let cross := t.above.isSome && side ≠ t.above
    let run := if cross then 0 else t.run + 1
    let fire := !cross && side.isSome && !t.fired && decide (run ≥ t1)
    (fire, { base with above := side, run := run, fired := if cross then false else t.fired || fire, meas := pIntAt img 0x0C16 u })
  | 6 =>
    let old := nth none t.hist (t1 - 1)
    let base := { base with hist := (x :: t.hist).take t1 }
    match x, old with
    | some v, some m => (decide (v - m > b), { base with meas := bfpMeas (pol (v - m)) })
    | _, _ => (false, base)
  | _ => (false, base)

/-- Every unit sees the set: the new units and the mask of those whose own condition holds. -/
def unitsStep (s : State) (img : Image) : List TrigUnit × Nat :=
  let rs := (List.range 16).map (fun u => unitStep s img u (nth TrigUnit.fresh s.rcd.units u))
  (rs.map (·.2), bitsOf 16 (fun u => (nth (false, TrigUnit.fresh) rs u).1))

/-- The lowest unit of a mask. -/
def lowUnit (mask : Nat) : Nat := ((List.range 16).find? (fun u => mask.testBit u)).getD 0

/-! ### Slots and states (R302 to R304) -/

/-- The recorder changed. -/
def recSet (s : State) (f : Rec → Rec) : State := { s with rcd := f s.rcd }

/-- Slot k. -/
def slotOf (s : State) (k : Nat) : RSlot := tabGet RSlot.empty s.rcd.slots k

/-- Slot k replaced. -/
def slotPut (s : State) (k : Nat) (r : RSlot) : State := recSet s (fun c => { c with slots := tabSet RSlot.empty c.slots k r })

/-- The entry of a row of R302 marked logged: new state, units and set index, with the set's time on the SYS time base (R415). -/
def recLog (s : State) (st mask : Nat) (idx : Int) : State :=
  logAt s (instTime s s.tim.sys) fnREC 0x80 (argAt 0 st + argAt 2 mask + argAt 4 (ofSigned 32 idx))

/-- φ in CK_PWM cycles (R269): how far the hold grid of the PWM trigger source stands behind that of TICK. -/
def holdPhi (s : State) : Nat :=
  let trg := regGet s 0x110018
  if bit trg 31 then ((-48 - (pNatAt (imgOf s) 0x0A04 (field trg 25 21) : Int) - field trg 19 0) % 400).toNat else 0

/-- t_ACQ of a chain in ns (R282); the group delay of a bank that is not symmetric is open. -/
def acqOf (s : State) (i : Nat) : Nat × State :=
  let w := (chainOf s i).cfg
  let n := cfgStages w
  let lat := (if n ≤ 1 then 700 else if n ≤ 3 then 1325 else 1950) + (if bit w 20 then 625 else 0)
  let hb := (List.range n).foldl (fun a k => a + ((kernel (cfgKern w k)).1.length - 1) / 2 * 2 ^ k * 625) 0
  let phi := holdPhi s
  let cs := (List.range 64).map (shCoef s i (chainOf s i).bank)
  let (sh, s) := if bit w 20 then (if cs = cs.reverse then (315000 * 2 ^ n, s) else fresh s) else (0, s)
  ((roundDiv ((lat + hb) * 16 + phi * 25 + sh) 32).toNat, s)

/-- T_ACQ_i of every chain. -/
def acqAll (s : State) : List Nat × State :=
  (List.range 32).foldl (fun (acc : List Nat × State) i =>
    if chainEn acc.2 i then
      let (v, s) := acqOf acc.2 i
      (acc.1 ++ [v], s)
    else (acc.1 ++ [0], acc.2)) ([], s)

/-- Bytes 0 to 3 of the active image's BODY_HASH as a little-endian word (SEC_IMG_HASH32). -/
def hash32 (s : State) : Nat := (imgOf s).hash.toNat % 2 ^ 32

/-- Unit u watches the same channel in the same way under both settings. -/
def unitSame (old new : Image) (u : Nat) : Bool :=
  [0x0C10, 0x0C11, 0x0C12, 0x0C16, 0x0C17, 0x0C18].all (fun p => pNatAt old p u = pNatAt new p u)
    && [0x0C13, 0x0C14, 0x0C15].all (fun p => exactParam old p u = exactParam new p u) && recRate old = recRate new

/-- Unit u as a fill finds it: under the same settings it goes on, with its pulse and its earlier values; else it has seen nothing (R299). -/
def unitBegin (old new : Image) (u : Nat) (t : TrigUnit) : TrigUnit :=
  if unitSame old new u then { t with run := if t.pulse then t.run else -1, fired := false } else TrigUnit.fresh

/-- First instant of a RATE at or after a place in the tick. -/
def nextInstant (units rate : Nat) : Nat := (units + 2 ^ rate - 1) / 2 ^ rate * 2 ^ rate

/-- A fill starts in a slot: settings, rate and post-trigger length are taken (R302, R304, R305). -/
def recBegin (s : State) (k : Nat) : State :=
  let img := imgOf s
  let old := recImg s
  let (acq, s) := acqAll s
  let room := setCount img - pNat img 0x0C06
  let post := min (pNat img 0x0C07) room
  let clamp := decide (post < pNat img 0x0C07)
  let s := slotPut s k ⟨1, 0, [], []⟩
  let s := recSet s (fun c =>
    { c with state := 2, slot := k, full := false, clamp := clamp, image := some img, rate := recRate img, sets := [], base := 0
             count := 0, evts := [], post := post, left := 0, trigAt := none, mask := 0, trigTime := 0, trigs := [], meas := (0, 0)
             tick := nextInstant c.tick (recRate img)
             flags := if clamp then 4 else 0, extra := 0, drops := 0, gap := 0, force := false, halve := false, rateDue := false, step := false
             acq := acq, hash := hash32 s, units := c.units.zipIdx.map (fun x => unitBegin old img x.2 x.1) })
  if clamp then raise s fnREC 4 0 0 else s

/-- The slot that an entry to FILLING takes (R303). -/
def slotPick (s : State) (img : Image) : Option Nat :=
  let ks := List.range (slotCount img)
  match ks.find? (fun k => (slotOf s k).state = 0) with
  | some k => some k
  | none =>
    if pNat img 0x0C0B = 1 then
      let cl := ks.filter (fun k => (slotOf s k).state = 2)
      cl.find? (fun k => cl.all (fun j => decide ((slotOf s k).num ≤ (slotOf s j).num)))
    else none

/-- Entry to FILLING, or IDLE with FULL where no slot is available (R302, R303); IDLE where a commit has taken the section away. -/
def recFill (s : State) : State :=
  if !hasSect (imgOf s) 0x0C then recSet s (fun c => { c with state := 1 })
  else match slotPick s (imgOf s) with
  | some k => recBegin s k
  | none => raise (recSet s (fun c => { c with state := 1, full := true })) fnREC 8 0 0

/-- A run of dropped sets ends: its GAP entry, where the event table has room, its flag and its event (R306). The entry takes the index and the
time that a set stored at this instant has, also where the record closes without one (DESIGN CHOICE). -/
def recGap (s : State) (img : Image) : State :=
  if s.rcd.gap = 0 then s
  else
    let t := setTime s img
    raise (recSet s (fun c =>
      { c with gap := 0, flags := c.flags ||| 16, evts := if c.evts.length < 31 then c.evts ++ [⟨c.count, 3, 0, c.gap, t⟩] else c.evts })) fnREC 6 0 0

/-- The record in progress moves to CLOSING. -/
def recClosing (s : State) (trunc : Bool) : State :=
  recSet (recGap s (recImg s)) (fun c => { c with state := 5, force := false, flags := if trunc then c.flags ||| 2 else c.flags })

/-! ### Storing a set (R306 to R308) -/

/-- An event table entry beyond START and TRIG, which closes the record where the table is full (R308). -/
def recEntry (s : State) (e : REvt) : State :=
  if s.rcd.evts.length < 31 then recSet s (fun c => { c with evts := c.evts ++ [e] }) else recClosing s true

/-- The TRIG entries of the triggers since the last stored set, with the index and the time of this one (R307). Where the table is full, the trigger
that opened the record is counted in EXTRA; the others have been already (R302, R308). -/
def recTrigs (s : State) (t : Nat) : State :=
  recSet s (fun c =>
    let c := c.trigs.foldl (fun (c : Rec) x =>
      let c := if x.2 then { c with trigTime := t } else c
      if c.evts.length < 31 then { c with evts := c.evts ++ [⟨c.count, 1, x.1, 0, t⟩] }
      else if x.2 then { c with extra := satInc 32 c.extra } else c) c
    { c with trigs := [] })

/-- The bulk store has taken bytes from the staging buffer. -/
def recDrain (s : State) (n : Nat) : State :=
  recSet s (fun c => { c with stage := c.stage - n, high := c.high && decide (49152 ≤ c.stage - n) })

/-- The fill of the staging buffer is judged at a set instant: as it reaches 48 KiB, the stored RATE is to rise, which it does at the first
instant of the new grid (R306). -/
def recHalve (s : State) : State :=
  let c := s.rcd
  let s := if !c.high && decide (49152 ≤ c.stage) then
      (if decide (c.rate < 10) && !c.halve then raise (recSet s (fun c => { c with high := true, halve := true, flags := c.flags ||| 8 })) fnREC 5 0 0
       else recSet s (fun c => { c with high := true }))
    else s
  if s.rcd.halve && onGrid s (s.rcd.rate + 1) then recSet s (fun c => { c with rate := c.rate + 1, halve := false, rateDue := true }) else s

/-- Device address of a record slot: the slots stand one after another from the first byte of the recorder's region on (DEDUCED: R304, R413). -/
def slotAddrOf (img : Image) (k : Nat) : Nat := 0x11000000 + k * (pNat img 0x0C03 * 1024)

/-- Device address of the set that is stored next: after the header, in rotation (DEDUCED: R309 leaves the layout inside a slot open). -/
def setAddrOf (s : State) (img : Image) : Nat :=
  slotAddrOf img s.rcd.slot + 4096 + (s.rcd.count % max 1 (setCount img : Int)).toNat * setSize img

/-- A set is dropped. -/
def recDropSet (s : State) : State :=
  recSet (regInc s 0x13004C 31 0) (fun c => { c with drops := c.drops + 1, gap := c.gap + 1 })

/-- A set on the stored grid enters the staging buffer, or is dropped; one that needs an entry which finds the table full is not stored. A set
that the region registers deny the recorder is dropped too (DESIGN CHOICE: R412 says only that nothing is transferred). -/
def recStore (s : State) (img : Image) (drained : Nat) : State :=
  let size := setSize img
  let s := recHalve (recDrain s drained)
  if !onGrid s s.rcd.rate then s
  else if s.rcd.stage + size > 65536 then recDropSet s
  else if !rgnAllows s 2 (setAddrOf s img) size true then recDropSet (denyAccess s)
  else
    let t := setTime s img
    let s := recTrigs s t
    let c := s.rcd
    let full := decide (c.gap > 0) && decide (31 ≤ c.evts.length)
    let s := recGap s img
    let s := if full then recClosing s true else s
    let s := if c.rateDue then recEntry (recSet s (fun c => { c with rateDue := false })) ⟨c.count, 2, c.rate, 0, t⟩ else s
    let s := if c.step then recEntry (recSet s (fun c => { c with step := false, flags := c.flags ||| 32 })) ⟨c.count, 4, 0, 0, t⟩ else s
    if s.rcd.state = 5 then s
    else
      recSet s (fun c =>
        { c with sets := ⟨setBytes s img, t, c.rate⟩ :: c.sets, count := c.count + 1, stage := c.stage + size
                 left := if c.state = 4 then c.left - 1 else c.left })

/-- Before a trigger only the last PRE sets and their entries are kept (R302, R307). -/
def recTrim (s : State) (pre : Nat) : State :=
  recSet s (fun c =>
    let base := max c.base (c.count - pre)
    { c with sets := c.sets.take pre, base := base, evts := c.evts.filter (fun e => decide (base < e.index)) })

/-- The measurement of the unit that fired first (R310). Where software fired a unit that measures a pulse or a slope there is none to give, and
the value is open. -/
def trigMeas (s : State) (img : Image) (u : Nat) (own : Bool) : Nat × State :=
  let type := pNatAt img 0x0C10 u
  if type = 5 then (pNatAt img 0x0C16 u, s)
  else if type = 3 ∨ type = 4 ∨ type = 6 then
    (if own then (ofSigned 64 (nth TrigUnit.fresh s.rcd.units u).meas, s) else freshBelow s (2 ^ 64))
  else (0, s)

/-- A trigger is taken in ARMED: the trigger set becomes index PRE. `own` is the mask of the units that fired by their own condition; an empty
mask is the forced trigger, whose unit and measurement are open. Its TRIG entry and TRIG_TIME are those of the next stored set, where the set
itself is thinned or dropped (DESIGN CHOICE: R307 has times of stored sets only). -/
def recTrigger (s : State) (img : Image) (mask own : Nat) : State :=
  let t := setTime s img
  let forced := decide (mask = 0)
  let (u, s) := if forced then freshBelow s 16 else (lowUnit mask, s)
  let (meas, s) := if forced then freshBelow s (2 ^ 64) else trigMeas s img u (own.testBit u)
  recSet s (fun c =>
    { c with state := 4, trigAt := some c.count, mask := mask, trigTime := t, meas := (u, meas), left := c.post, force := false
             trigs := [(u, true)], flags := if forced then c.flags ||| 1 else c.flags })

/-- One set instant (R297 to R302). -/
def recInstant (s : State) (drained : Nat) : State :=
  let img := recImg s
  let (units, own) := unitsStep s img
  let mask := own ||| s.rcd.soft % 65536
  let s := recSet s (fun c => { c with units := units })
  let idx := s.rcd.count - s.rcd.base
  let soft0 := fun (s : State) => recSet s (fun c => { c with soft := 0 })
  match s.rcd.state with
  | 2 =>
    let s := if mask ≠ 0 then recLog (raise (regInc s 0x130048 31 16) fnREC 2 0 0) 2 mask idx else s
    let s := recStore (soft0 s) img drained
    let s := recTrim s (pNat img 0x0C06)
    if s.rcd.state = 2 && decide (s.rcd.count - s.rcd.base ≥ pNat img 0x0C06) then recSet s (fun c => { c with state := 3 }) else s
  | 3 =>
    let s :=
      if mask ≠ 0 then recLog (raise (recTrigger s img mask own) fnREC 0 0 0) 4 mask idx
      else if s.rcd.force then raise (recTrigger s img 0 0) fnREC 7 0 0
      else s
    let s := recStore (soft0 s) img drained
    if s.rcd.state = 3 then recTrim s (pNat img 0x0C06)
    else if s.rcd.state = 4 && s.rcd.left = 0 then recClosing s false else s
  | 4 =>
    let s := if mask ≠ 0 then
        recLog (recSet s (fun c => { c with extra := satInc 32 c.extra, trigs := c.trigs ++ [(lowUnit mask, false)] })) 4 mask idx
      else s
    let s := recStore (soft0 s) img drained
    if s.rcd.state = 4 && s.rcd.left = 0 then recClosing s false else s
  | 5 =>
    let s := if mask ≠ 0 then recLog (raise (regInc s 0x130048 15 0) fnREC 3 0 0) 5 mask idx else s
    recDrain (soft0 s) drained
  | 1 =>
    let s := if s.rcd.full && mask ≠ 0 then recLog (regInc s 0x130048 15 0) 1 mask idx else s
    recDrain (soft0 s) drained
  | _ => soft0 s

/-- REC_SET: a set instant, with the bytes that the bulk store took from the staging buffer since the last one. -/
def execRecSet (drained : Nat) (s : State) : Host.Outcome State Fault Refusal :=
  let s := begin s
  let rate := recRate (recImg s)
  let on := fun (s : State) => recSet s (fun c => { c with tick := c.tick + 2 ^ rate })
  .next (if !clocked s then s
    else if s.rcd.state = 0 then on (recSet s (fun c => { c with soft := 0 }))
    else on (if onGrid s rate then recInstant s drained else s))

/-! ### Closing (R309, R310) -/

/-- The four values of MEAS_c over the stored sets: MIN, MAX, MEAN and the AUX word of exponent, format and invalid count. -/
def measOf (img : Image) (sets : List RSet) (c : Nat) : List Nat :=
  let anas := recAnas img
  let fabs := recFabs img
  let word := fun (r : RSet) (off : Nat) => leAt r.bytes off 4
  if c < 32 then
    match anas.findIdx? (· = c) with
    | none => [0, 0, 0, 2 * 2 ^ 8]
    | some k =>
      let ws := sets.map (fun r => word r (4 * k))
      let vs := (ws.filter (fun w => w.testBit 7)).map (fun w => toSigned 24 (w / 256))
      let bad := satNat 16 (ws.filter (fun w => !w.testBit 7)).length
      if vs.isEmpty then [0, 0, 0, 2 * 2 ^ 8 + bad * 2 ^ 16]
      else
        [ofSigned 32 (vs.foldl min (vs.headD 0)), ofSigned 32 (vs.foldl max (vs.headD 0)),
          ofSigned 32 (roundDiv (vs.foldl (· + ·) 0) vs.length), bad * 2 ^ 16]
  else
    match fabs.findIdx? (· = c - 32) with
    | none => [0, 0, 0, 2 * 2 ^ 8]
    | some k =>
      let off := 4 * anas.length + 8 * k
      let ws := sets.map (fun r => (toSigned 32 (word r off), toSigned 8 (leAt r.bytes (off + 4) 1), (leAt r.bytes (off + 5) 1).testBit 0))
      let vs := ws.filter (fun w => w.2.2 && w.2.1 ≠ -128)
      let bad := satNat 16 (ws.filter (fun w => !w.2.2)).length
      match vs with
      | [] => [0, 0, 0, 2 * 2 ^ 8 + bad * 2 ^ 16]
      | v0 :: _ =>
        let e := vs.foldl (fun a w => max a w.2.1) v0.2.1
        let xs := vs.map (fun w => alignBy w.1 (w.2.1 - e))
        let sum := vs.foldl (fun (a : Int) w => a + w.1 * 2 ^ (w.2.1 + 128).toNat) 0
        [ofSigned 32 (xs.foldl min (xs.headD 0)), ofSigned 32 (xs.foldl max (xs.headD 0)),
          ofSigned 32 (roundDiv sum (xs.length * 2 ^ (e + 128).toNat)), ofSigned 8 e + 1 * 2 ^ 8 + bad * 2 ^ 16]

/-- Bytes of an event table entry. -/
def evtBytes (base : Int) (e : REvt) : List Byte :=
  leBytes 4 (ofSigned 32 (e.index - base)) ++ leBytes 1 e.kind ++ leBytes 1 e.arg ++ [0, 0] ++ leBytes 4 e.drop ++ leBytes 12 (time96 e.time)

/-- The header of the record in progress (R309); the trigger index of a record truncated before its trigger is open. -/
def recHeader (s : State) (num : Nat) : List Byte × State :=
  let c := s.rcd
  let img := recImg s
  let sets := c.sets.reverse
  let first := sets.headD ⟨[], 0, c.rate⟩
  let (trig, s) := match c.trigAt with
    | some i => ((i - c.base).toNat, s)
    | none => freshBelow s (2 ^ 32)
  let evts := ⟨c.base, 0, first.rate, 0, first.time⟩ :: c.evts
  let mask := bitsOf 32 (recAna img) + bitsOf 32 (recFab img) * 2 ^ 32
  let scale := fun i => match paramRec img 0x0B06 i with
    | some p => leBytes 4 (ofSigned 32 (bfpMant p)) ++ leBytes 1 (ofSigned 8 p.exp) ++ zeros 3
    | none => zeros 8
  let body := ascii "NLRC" ++ leBytes 2 1 ++ leBytes 2 c.flags ++ leBytes 4 num ++ leBytes 1 first.rate ++ leBytes 1 (pNat img 0x0C0C)
    ++ zeros 2 ++ leBytes 8 mask ++ leBytes 4 (setSize img) ++ leBytes 4 sets.length ++ leBytes 4 trig ++ leBytes 2 c.mask
    ++ leBytes 2 evts.length ++ leBytes 12 (time96 c.trigTime) ++ leBytes 4 c.hash ++ leBytes 4 c.extra ++ leBytes 4 c.drops
    ++ c.acq.flatMap (leBytes 4) ++ (List.range 32).flatMap scale ++ padTo 768 (evts.flatMap (evtBytes c.base))
    ++ (List.range 64).flatMap (fun k => (measOf img sets k).zipIdx.flatMap (fun x => leBytes 4 x.1))
    ++ leBytes 4 c.meas.1 ++ zeros 4 ++ leBytes 8 c.meas.2 ++ zeros 1836
  (body ++ leBytes 4 (crc32c body), s)

/-- A record closes: its slot is CLOSED, and the recorder re-arms or goes IDLE (R302). Where the region registers deny the header its place, it is
not written, and the record stays in CLOSING. -/
def recClose (s : State) : State :=
  if s.rcd.state ≠ 5 || !clocked s then s
  else if !rgnAllows s 2 (slotAddrOf (recImg s) s.rcd.slot) 4096 true then denyAccess s
  else
    let num := s.rcd.num + 1
    let (h, s) := recHeader s num
    let img := recImg s
    let trunc := s.rcd.flags.testBit 1
    let s := slotPut s s.rcd.slot ⟨2, num, h, s.rcd.sets.reverse.flatMap (·.bytes)⟩
    let s := raise (recSet s (fun c => { c with num := num, state := 1, sets := [], evts := [] })) fnREC 1 0 0
    let s := if trunc then raise s fnREC 10 0 0 else s
    if pNat img 0x0C08 = 1 then recFill s
    else if (slotPick s (imgOf s)).isNone then raise (recSet s (fun c => { c with full := true })) fnREC 8 0 0 else s

/-- REC_CLOSE_DONE. -/
def execRecCloseDone (s : State) : Host.Outcome State Fault Refusal := .next (recClose (begin s))

/-- The modes in which the recorder leaves OFF. -/
def recMode (m : Mode) : Bool := m = .md2 || decide (4 ≤ m.code)

/-- REC_START: the bulk store is ready after the entry to a running mode (R302). -/
def execRecStart (s : State) : Host.Outcome State Fault Refusal :=
  let s := begin s
  .next (if s.rcd.state = 0 && recMode s.sys.mode && hasSect (imgOf s) 0x0C && s.mem.blkReady && s.clk.state = 2 then
    (if pNat (imgOf s) 0x0C01 = 1 then recFill s else recSet s (fun c => { c with state := 1 }))
  else s)

/-- REC_AUTO_TIMEOUT: AUTO_TIMEOUT has passed in ARMED (R302). -/
def execRecAutoTimeout (s : State) : Host.Outcome State Fault Refusal :=
  let s := begin s
  .next (if s.rcd.state = 3 && pNat (recImg s) 0x0C09 = 1 then recSet s (fun c => { c with force := true }) else s)

/-! ### Host commands (R302, R311, R312, R316) -/

/-- STATUS of the last REC_CTL. -/
def recRes (s : State) (st : Nat) : State := recSet s (fun c => { c with ctlRes := st })

/-- A REC_CTL command of PF0 with its key and mode checks. -/
def recCtl (s : State) (pf : Pf) (key : BitVec 16) (f : State → State) : State :=
  hostPf0 (begin s) pf 0x130020 (fun s =>
    if key ≠ 0x5243 then recRes s 2
    else if s.rcd.state = 0 || !hasSect (imgOf s) 0x0C then recRes s 3
    else f s)

/-- REC_ARM. -/
def execRecArm (pf : Pf) (key : BitVec 16) (s : State) : Host.Outcome State Fault Refusal :=
  .next (recCtl s pf key (fun s => if s.rcd.state ≠ 1 || !s.mem.blkReady then recRes s 4 else recRes (recFill s) 1))

/-- STOP in FILLING, ARMED or POST. -/
def recStop (s : State) : State :=
  if s.rcd.state = 2 ∨ s.rcd.state = 3 then
    recSet (slotPut s s.rcd.slot RSlot.empty) (fun c => { c with state := 1, sets := [], evts := [] })
  else if s.rcd.state = 4 then recClosing s true
  else s

/-- REC_STOP. -/
def execRecStop (pf : Pf) (key : BitVec 16) (s : State) : Host.Outcome State Fault Refusal :=
  .next (recCtl s pf key (fun s => if s.rcd.state = 1 ∨ s.rcd.state = 5 then recRes s 4 else recRes (recStop s) 1))

/-- A software trigger names a unit (R301); false where the unit is OFF. -/
def softTrig (s : State) (u : Nat) : Bool × State :=
  if 16 ≤ u ∨ pNatAt (recImg s) 0x0C10 u = 0 then (false, s)
  else (true, recSet s (fun c => { c with soft := c.soft ||| 2 ^ u }))

/-- REC_SWTRIG. -/
def execRecSwtrig (pf : Pf) (key : BitVec 16) (unit : Fin 16) (s : State) : Host.Outcome State Fault Refusal :=
  .next (recCtl s pf key (fun s => let (ok, s) := softTrig s unit; recRes s (if ok then 1 else 5)))

/-- STATUS and SLOT of REC_RD_STAT. -/
def rdRes (s : State) (k st : Nat) : State := recSet s (fun c => { c with rdSlot := k, rdStat := st })

/-- The slot that is being read out. -/
def rdOf (s : State) : Option Nat := (s.rcd.slots.find? (fun e => e.2.state = 3)).map (·.1)

/-- A slot is being read out. -/
def rdBusy (s : State) : Bool := (rdOf s).isSome

/-- Length of a slot's record in bytes. -/
def recLen (r : RSlot) : Nat := 4096 + r.sets.length

/-- REC_READ, from either function. The whole copy is checked under the recorder's regions at its start (R412); a denied one ends REF_ACCESS. -/
def execRecRead (pf : Pf) (key : BitVec 16) (slot : Fin 256) (s : State) : Host.Outcome State Fault Refusal :=
  .next (hostAccess (begin s) pf fnREC (fun s =>
    let r := slotOf s slot
    if key ≠ 0x5244 then rdRes s slot 3
    else if rdBusy s then rdRes s slot 5
    else if r.state = 0 then rdRes s slot 4
    else if r.state = 1 then rdRes s slot 5
    else if !rgnAllows s 2 (slotAddrOf (recImg s) slot) (recLen r) false then rdRes (denyAccess s) slot 8
    else recSet (rdRes (slotPut s slot { r with state := 3 }) slot 1) (fun c => { c with rdLen := recLen r, rdPf := pf })))

/-- The copy of a record ends, with its bytes in host memory where it succeeded; bytes with an error are copied as read (R417). -/
def readDone (s : State) (st : Nat) : State :=
  match rdOf s with
  | none => s
  | some k =>
    let r := slotOf s k
    let s := rdRes (slotPut s k { r with state := 2 }) k st
    if st = 2 then
      let (bs, _, s) := blkRead s (slotAddrOf (recImg s) k) (r.header ++ r.sets)
      raise (send s (.dma (BitVec.ofNat 64 (reg64 s 0x130100)) bs)) fnREC 9 0 0
    else s

/-- REC_READ_DONE: the copy is complete, or the host's memory could not be written (REF_DMA). -/
def execRecReadDone (ok : Bool) (s : State) : Host.Outcome State Fault Refusal :=
  let s := begin s
  .next (if clocked s then readDone s (if ok then 2 else 6) else s)

/-- REC_ERASE. -/
def execRecErase (pf : Pf) (key : BitVec 16) (slot : Fin 256) (s : State) : Host.Outcome State Fault Refusal :=
  .next (hostAccess (begin s) pf fnREC (fun s =>
    let r := slotOf s slot
    let res := fun (s : State) (st : Nat) => rdRes s slot st
    if key ≠ 0x5244 then res s 3
    else if pf = .pf1 then res s 8
    else if r.state = 0 then res s 4
    else if r.state ≠ 2 then res s 5
    else res (slotPut s slot RSlot.empty) 2))

/-- Every CLOSED slot is emptied. -/
def slotsErase : Tab RSlot → Tab RSlot
  | [] => []
  | (k, r) :: t => if r.state = 2 then slotsErase t else (k, r) :: slotsErase t

/-- REC_ERASE_ALL. -/
def execRecEraseAll (pf : Pf) (key : BitVec 16) (slot : Fin 256) (s : State) : Host.Outcome State Fault Refusal :=
  .next (hostAccess (begin s) pf fnREC (fun s =>
    let res := fun (s : State) (st : Nat) => rdRes s slot st
    if key ≠ 0x5244 then res s 3
    else if pf = .pf1 then res s 8
    else res (recSet s (fun c => { c with slots := slotsErase c.slots })) 2))

/-- REC_MEAS_FETCH: a write of REC_MEAS_SEL arms a fetch (R312). -/
def execRecMeasFetch (pf : Pf) (v : Word) (s : State) : Host.Outcome State Fault Refusal :=
  .next (hostAccess (begin s) pf fnREC (fun s =>
    recSet (regSet s 0x130200 (v &&& 0xFF3F)) (fun c => { c with fetch := some (field v 15 8, field v 5 0), fFresh := false })))

/-- REC_MEAS_FETCH_DONE. -/
def execRecMeasFetchDone (s : State) : Host.Outcome State Fault Refusal :=
  let s := begin s
  .next (match s.rcd.fetch with
    | none => s
    | some (k, ch) =>
      if !clocked s then s
      else if !rgnAllows s 2 (slotAddrOf (recImg s) k + 0x4C0 + 16 * ch) 16 false then recSet (denyAccess s) (fun c => { c with fetch := none })
      else
      let r := slotOf s k
      let w := fun o => leAt r.header (0x4C0 + 16 * ch + o) 4
      let aux := w 12
      let vals := [w 0, w 4, w 8, aux]
      recSet s (fun c =>
        { c with fetch := none, fFresh := true, fSeq := (c.fSeq + 1) % 16, fStat := if r.state = 2 then 1 else 2
                 fVals := if r.state = 2 then vals else c.fVals }))

/-- REC_MEAS_STAT_READ (R312). -/
def execRecMeasStatRead (pf : Pf) (s : State) : Host.Outcome State Fault Refusal :=
  .next (hostRead (begin s) pf fnREC (fun s =>
    let fr := s.rcd.fFresh
    let s := if fr then recSet s (fun c => { c with fFresh := false, fLat := c.fVals, fSeqLat := c.fSeq }) else s
    { s with rdata := flagAt fr 8 ||| at_ s.rcd.fSeqLat 4 ||| at_ s.rcd.fStat 0 }))

/-! ### What the rest of the module does to the recorder -/

/-- Entry to MD_0, MD_1 or MD_3: every record is lost (R302). -/
def recOff (s : State) : State :=
  let n := s.rcd.num
  { s with rcd := { Rec.reset with num := n } }

/-- Reset of REC (R40, R302). -/
def recReset (s : State) : State :=
  let s := readDone s 7
  let s := recSet s (fun c => { c with fetch := none, fStat := 0, fFresh := false, ctlRes := 0, soft := 0, stage := 0, force := false
                                       units := List.replicate 16 TrigUnit.fresh })
  if s.rcd.state = 2 ∨ s.rcd.state = 3 then recBegin s s.rcd.slot
  else if s.rcd.state = 4 then recClosing s true else s

/-- Reset of BLK: IDLE, and every record lost (R302). -/
def recBlkReset (s : State) : State :=
  let s := match rdOf s with | some k => rdRes s k 7 | none => s
  if s.rcd.state = 0 then s
  else recSet s (fun c => { c with state := 1, full := false, slots := [], sets := [], evts := [], stage := 0, force := false, fetch := none })

end Sys2Proof.Machine
end

