-- ==== Sys2Proof/Machine/Time.lean ====
section
/-!
DEFINITION. Time bases, precision-time trackers and their servos (chapter Clock synthesis and station time, R322 to R334). Times and
offsets are in 2^−16 ns; rates in units of 2^−42.
-/
namespace Sys2Proof.Machine

/-! ### Access -/

/-- Time base b. -/
def tbOf (s : State) (b : Nat) : Tb := nth Tb.reset s.tim.tbs b

/-- Time base b changed. -/
def updTb (s : State) (b : Nat) (f : Tb → Tb) : State := { s with tim := { s.tim with tbs := updNth s.tim.tbs b f } }

/-- Tracker d. -/
def domOf (s : State) (d : Nat) : Dom := nth Dom.reset s.tim.doms d

/-- Tracker d changed. -/
def updDom (s : State) (d : Nat) (f : Dom → Dom) : State := { s with tim := { s.tim with doms := updNth s.tim.doms d f } }

/-- BAR0 offset of TIM_TB_CNT_b. -/
def tbCntA (b : Nat) : Nat := 0x20100 + 0x40 * b + 0x1C

/-- LOCK_TH in 2^−16 ns. -/
def lockTh (s : State) : Int := (pNat (imgOf s) 0x0D0A : Int) * 65536

/-- STEP_LIMIT of a time base in 2^−16 ns. -/
def stepLimit (s : State) (b : Nat) : Int := (pNatAt (imgOf s) 0x0D04 b : Int) * 65536

/-- TB_SRC in force: in MD_3 every PTP source follows the partner (R331). -/
def tbSrc (s : State) (b : Nat) : Nat :=
  let t := pNatAt (imgOf s) 0x0D02 b
  if t = 1 && s.sys.mode = .md3 then 2 else t

/-- The time value of a 96-bit word in 2^−16 ns (R11). -/
def ofTime96 (w : Nat) : Nat := (w / 2 ^ 48 * 1000000000 + w / 2 ^ 16 % 2 ^ 32) * 65536 + w % 65536

/-! ### Sources (R327, R328, R331) -/

/-- The partner reports the time base traceable and is heard. -/
def partnerTrace (s : State) (b : Nat) : Bool := s.red.hbHere && s.tim.ptrace.testBit b

/-- The source of a time base is LOCKED. -/
def srcLocked (s : State) (b : Nat) : Bool :=
  match tbSrc s b with
  | 1 => (domOf s (tbOf s b).dom).state = 3
  | 2 => s.red.hbHere && (nth none s.tim.pofs b).isSome
  | _ => false

/-- The source's estimate of the time. -/
def srcEst (s : State) (b : Nat) : Int :=
  match tbSrc s b with
  | 1 => s.tim.loc + (domOf s (tbOf s b).dom).o
  | 2 => s.tim.loc + (nth none s.tim.pofs b).getD 0
  | _ => (tbOf s b).val

/-- The source's rate; the partner's clock is taken as the local one, whose rate the transfer does not give. -/
def srcRate (s : State) (b : Nat) : Int := if tbSrc s b = 1 then (domOf s (tbOf s b).dom).r else 0

/-! ### Trackers (R324 to R326) -/

/-- The tracker is enabled and one of its ports has link. -/
def domMay (s : State) (d : Nat) : Bool :=
  pNatAt (imgOf s) 0x0D06 d = 1 && (s.sys.mode = .md2 || decide (4 ≤ s.sys.mode.code) || s.sys.mode = .md1)
    && [0, 1].any (fun p => (pNatAt (imgOf s) 0x0D08 d).testBit p && nth false s.tim.link p)

/-- A tracker changes state, with its entry and the events LOCKED and LOST (R326). -/
def domGo (s : State) (d new : Nat) : State :=
  let old := (domOf s d).state
  if old = new then s
  else
    let s := updDom s d (fun x => { x with state := new, good := 0, bad := 0 })
    let s := logNow s fnTIM 0x80 (argAt 0 d + argAt 1 new + argAt 2 (domOf s d).port)
    let s := if new = 3 then raise s fnTIM 1 d 0 else s
    if old = 3 then raise s fnTIM 0 d 0 else s

/-- A tracker goes to DISABLED. -/
def domOff (s : State) (d : Nat) : State :=
  updDom (domGo s d 0) d (fun x => { x with heard := [], sync := none, seeded := false })

/-- The trackers follow DOM_EN, the links and the mode. -/
def domsEval (s : State) : State :=
  [0, 1].foldl (fun s d =>
    if pNatAt (imgOf s) 0x0D06 d ≠ 1 || s.sys.mode = .md3 || s.sys.mode = .md0 then (if (domOf s d).state = 0 then s else domOff s d)
    else if (domOf s d).state = 0 && domMay s d then domGo s d 1 else s) s

/-- What the default algorithm of IEEE 1588-2019 compares of two masters with different grandmasters. -/
def masterKey (m : Master) : List Nat := [m.prio1, m.cls, m.acc, m.var, m.prio2, m.gm]

/-- What it compares where both report one grandmaster, and the port that heard each. -/
def pathKey (x : Nat × Master) : List Nat := [x.2.steps, x.2.src, x.1]

/-- The first list is smaller. -/
def lexLt : List Nat → List Nat → Bool
  | a :: as_, b :: bs => if a < b then true else if b < a then false else lexLt as_ bs
  | _, _ => false

/-- One master, as a port hears it, is better than another. -/
def better (a b : Nat × Master) : Bool := if a.2.gm = b.2.gm then lexLt (pathKey a) (pathKey b) else lexLt (masterKey a.2) (masterKey b.2)

/-- The best of a list of masters. -/
def bestOf : List (Nat × Master) → Option (Nat × Master)
  | [] => none
  | x :: l => match bestOf l with
    | some y => some (if better y x then y else x)
    | none => some x

/-- The best master heard on a port with link. -/
def bestMaster (s : State) (d : Nat) : Option (Nat × Master) :=
  bestOf ((domOf s d).heard.filter (fun x => nth false s.tim.link x.1))

/-- A port hears a master, in place of what it last heard from the same sender. -/
def hear (l : List (Nat × Master)) (p : Nat) (m : Master) : List (Nat × Master) :=
  (p, m) :: l.filter (fun x => x.1 ≠ p || x.2.src ≠ m.src)

/-- The algorithm runs over the masters heard, and what it selects acts on the tracker (R324, R326). -/
def domSelect (s : State) (d : Nat) : State :=
  match bestMaster s d with
  | none => s
  | some (p, m) =>
    let x := domOf s d
    let changed := x.gm ≠ m.gm
    let s := updDom s d (fun x => { x with port := p, src := m.src, gm := m.gm, cls := m.cls, utc := m.utc })
    if x.state = 1 then domGo (updDom s d (fun x => { x with seeded := false })) d 2
    else if x.state = 4 || (x.state = 3 && changed) then
      let s := if changed then raise s fnTIM 9 d 0 else s
      domGo (updDom s d (fun x => { x with seeded := false })) d 2
    else s

/-- ANNOUNCE_RX (R324). -/
def execAnnounceRx (dom port : Fin 2) (a : Announce) (s : State) : Host.Outcome State Fault Refusal :=
  let s := begin s
  .next (
    if (domOf s dom).state = 0 || !(pNatAt (imgOf s) 0x0D08 dom).testBit port || !nth false s.tim.link port then s
    else
      let m : Master := ⟨a.prio1.toNat, a.cls.toNat, a.acc.toNat, a.var.toNat, a.prio2.toNat, a.gm.toNat, a.steps.toNat, a.src.toNat,
        toSigned 16 a.utc.toNat⟩
      domSelect (updDom s dom (fun x => { x with heard := hear x.heard port m })) dom)

/-- ANNOUNCE_TIMEOUT: no Announce within the timeout on a port; with none on any port a LOCKED tracker goes to HOLDOVER, and another port's
master is selected as any other (R326). -/
def execAnnounceTimeout (dom port : Fin 2) (s : State) : Host.Outcome State Fault Refusal :=
  let s := begin s
  let s := updDom s dom (fun x => { x with heard := x.heard.filter (fun y => y.1 ≠ port.val) })
  .next (if (domOf s dom).state = 0 then s
    else if (bestMaster s dom).isSome then domSelect s dom
    else if (domOf s dom).state = 3 then domGo s dom 4 else s)

/-- A complete Sync sample: its offset from the local count (R325, R326). -/
def syncSample (s : State) (d : Nat) (o : Int) : State :=
  let x := domOf s d
  if x.state = 2 && !x.seeded then
    updDom s d (fun x => { x with o := o, seeded := true, resid := 0, good := 1, bad := 0 })
  else
    let res := o - x.o
    let (dO, dr) := Config.trackerLoop (pBfp 40 (imgOf s) 0x0D0B) (decide (x.state = 3)) res
    let good := if decide (res.natAbs ≤ lockTh s) then x.good + 1 else 0
    let bad := if decide ((res.natAbs : Int) > 4 * lockTh s) then x.bad + 1 else 0
    let s := updDom s d (fun x => { x with resid := res, good := good, bad := bad, o := x.o + dO, r := x.r + dr })
    if x.state = 2 && good ≥ 8 then domGo s d 3
    else if x.state = 3 && bad ≥ 3 then domGo s d 4 else s

/-- SYNC_MSG_RX: one-step and two-step Sync, and the Follow_Up of the latter (R324, R325). -/
def execSyncMsgRx (dom port : Fin 2) (m : SyncMsg) (s : State) : Host.Outcome State Fault Refusal :=
  let s := begin s
  let x := domOf s dom
  let mine := (x.state = 2 || x.state = 3) && x.port = port.val && x.src = m.src.toNat && nth false s.tim.link port
  let pd := nth 0 x.pd port
  .next (if !mine then s
    else
      match m.kind with
      | .oneStep => syncSample s dom ((ofTime96 m.origin.toNat : Int) + m.corr + pd - m.arrival)
      | .twoStep => updDom s dom (fun x => { x with sync := some (m.seq.toNat, m.arrival, m.corr) })
      | .followUp =>
        match x.sync with
        | some (q, arr, c) =>
          if q = m.seq.toNat then
            syncSample (updDom s dom (fun x => { x with sync := none })) dom ((ofTime96 m.origin.toNat : Int) + m.corr + c + pd - arr)
          else s
        | none => s)

/-! ### Peer delay (R324, R325) -/

/-- MAC address of a port (R334). -/
def macOf (port : Nat) : List Byte :=
  beBytes 6 (beNat (sliceBytes identity 0x18 6) + port)

/-- The clock and port identity of a port: its MAC address as an EUI-64, and the port number. -/
def portIdent (port : Nat) : List Byte :=
  let m := macOf 0
  m.take 3 ++ [0xFF, 0xFE] ++ m.drop 3 ++ beBytes 2 (port + 1)

/-- An untagged precision-time frame to the peer-delay address: message type, domain, correction, sequence, control and body. -/
def ptpFrame (port type dom : Nat) (corr : Int) (seq : Nat) (body : List Byte) : List Byte :=
  [0x01, 0x80, 0xC2, 0x00, 0x00, 0x0E] ++ macOf port ++ [0x88, 0xF7] ++ leBytes 1 type ++ [0x02] ++ beBytes 2 54 ++ leBytes 1 dom
    ++ zeros 3 ++ beBytes 8 (ofSigned 64 corr) ++ zeros 4 ++ portIdent port ++ beBytes 2 seq ++ [0x05, 0x7F] ++ body

/-- ETH runs and the port has link. -/
def ethUp (s : State) (port : Nat) : Bool := nth false s.tim.link port && s.sys.mode ≠ .md3 && s.sys.mode ≠ .md0 && s.clk.state = 2

/-- PDELAY_REQ_TIMER: a Pdelay_Req leaves. -/
def execPdelayReqTimer (port : Fin 2) (s : State) : Host.Outcome State Fault Refusal :=
  let s := begin s
  .next (if ethUp s port then
    let q := (nth 0 s.tim.pdSeq port + 1) % 65536
    let s := { s with tim := { s.tim with pdSeq := setNth s.tim.pdSeq port q } }
    send s (.eth port (ptpFrame port 2 (pNatAt (imgOf s) 0x0D07 0) 0 q (zeros 20)))
  else s)

/-- PDELAY_REQ_RX: sequence, requesting port, correctionField and turnaround in 2^−16 ns; answered with a one-step response (R325). -/
def execPdelayReqRx (port : Fin 2) (dom : Byte) (seq : BitVec 16) (src : BitVec 80) (corr : Int) (turn : Nat) (s : State) :
    Host.Outcome State Fault Refusal :=
  let s := begin s
  .next (if ethUp s port then
    send s (.eth port (ptpFrame port 3 dom.toNat (corr + turn) seq.toNat (zeros 10 ++ beBytes 10 src.toNat)))
  else s)

/-- PDELAY_RESP_RX: the port's mean link delay from the round trip and the turnaround, in 2^−16 ns (R324). -/
def execPdelayRespRx (port : Fin 2) (rtt turn : Nat) (s : State) : Host.Outcome State Fault Refusal :=
  let s := begin s
  let d := roundDiv ((rtt : Int) - turn) 2
  .next (if ethUp s port then [0, 1].foldl (fun s k => updDom s k (fun x => { x with pd := setNth x.pd port d })) s else s)

/-- ETH_LINK_CHANGE: a tracker on the port that loses link moves to the other port where that has link and a master (R334); another grandmaster
there acts as R326 has it. -/
def execEthLinkChange (port : Fin 2) (up : Bool) (s : State) : Host.Outcome State Fault Refusal :=
  let s := begin s
  let up := up && decide (pNatAt (imgOf s) 0x0D0E port ≠ 0)
  let s := { s with tim := { s.tim with link := setNth s.tim.link port up } }
  let move := fun (s : State) (d : Nat) =>
    if !up && (domOf s d).port = port.val && (domOf s d).state ≠ 0 then domSelect s d else s
  .next (domsEval ([0, 1].foldl move s))

/-! ### Servo (R327 to R330) -/

/-- 2π as a fraction over 10^30. -/
def twoPi : Nat := 6283185307179586476925286766559

/-- e / τ as a rate in units of 2^−42, rounded (R329, R20). -/
def errRate (s : State) (e : Int) : Int :=
  roundDiv (e * pBfp 40 (imgOf s) 0x0D0B * twoPi * 2 ^ 42) (65536 * 1000000000 * 2 ^ 40 * 10 ^ 30)

/-- SLEW_LIMIT as a rate. -/
def slewRate (s : State) (b : Nat) : Int := roundDiv (pNatAt (imgOf s) 0x0D03 b * 2 ^ 42) 1000000000

/-- ρ_b within its range (R322). -/
def clampRho (x : Int) : Int := clampInt (-2147483648) 2147483647 x

/-- The number of the SYS time base. -/
def sysTb (s : State) : Nat := s.tim.sys

/-- Entry in the log for a step command's outcome (R332): command 1 STEP_REL, 2 ALIGN, 3 TB_STEP. -/
def stepLog (s : State) (b cmd out : Nat) (ns : Int) : State :=
  logNow s fnTIM 0x81 (argAt 0 b + argAt 1 cmd + argAt 2 out + argAt 4 (ofSigned 64 ns))

/-- The SYS time base has stepped: the chains restart, and a record gains a STEP entry (R270, R307, R333). -/
def sysMoved (s : State) : State := adcRestart { s with rcd := { s.rcd with step := true } }

/-- The values of a time base: 48 bits of seconds, in 2^−16 ns (R11). -/
def tbSpan : Int := 2 ^ 48 * 1000000000 * 65536

/-- A time base steps by d. -/
def tbStep (s : State) (b : Nat) (d : Int) : State :=
  let s := updTb s b (fun t => { t with val := (((t.val : Int) + d) % tbSpan).toNat })
  let s := regInc s (tbCntA b) 31 16
  let s := raise s fnTIM 5 b 0
  let s := if b = sysTb s then sysMoved s else s
  if pNat (recTbImg s) 0x0C0C = b then { s with rcd := { s.rcd with step := true } } else s
where
  /-- The settings the recorder runs under. -/
  recTbImg (s : State) : Image := s.rcd.image.getD (imgOf s)

/-- A mode in which the SYS time base may step by itself (R329). -/
def modeSteps (s : State) : Mode → Bool
  | .md2 | .md3 => true
  | .md11 => !switching s
  | _ => false

/-- Whether an automatic step is permitted at a boundary (R329, R330): the mode in force as the boundary came permits it, and the mode that
the boundary voted does too (DEDUCED: the example of the chapter has the vote for MD_2 at one boundary and the step at the next). -/
def mayStep (s : State) (old : Mode) (b : Nat) : Bool :=
  if b ≠ sysTb s then true
  else if (tbOf s b).never then !switching s
  else modeSteps s old && modeSteps s s.sys.mode

/-- The domain that a PTP time base follows is chosen (R327). The new target is reached by slewing, and AUTO keeps away from a domain that is
more than STEP_LIMIT off. DESIGN CHOICE: a time base whose source has not been LOCKED since MD_0 has no domain yet to leave, and neither holds
for it. -/
def domFollow (s : State) (b : Nat) : State :=
  let sel := regF s 0x20030 1 0
  let cur := (tbOf s b).dom
  let follow := fun (s : State) (d : Nat) => 
    if d = cur then s else raise (updTb s b (fun t => { t with dom := d, slewTo := t.led })) fnTIM 7 b 0
  if sel = 1 then follow s 0
  else if sel = 2 then follow s 1
  else if (domOf s cur).state = 3 then updTb s b (fun t => { t with differs := false })
  else
    let o := 1 - cur
    if (domOf s o).state ≠ 3 then s
    else if (tbOf s b).led && decide (((s.tim.loc : Int) + (domOf s o).o - (tbOf s b).val).natAbs > stepLimit s b) then
      (if (tbOf s b).differs then s else raise (updTb s b (fun t => { t with differs := true })) fnTIM 8 b 0)
    else follow s o

/-- Traceability of a time base changes (R328). -/
def setTrace (s : State) (b : Nat) (on : Bool) : State :=
  if (tbOf s b).trace = on then s
  else
    let s := updTb s b (fun t => { t with trace := on, never := t.never && !on })
    raise s fnTIM (if on then 4 else 3) b 0

/-- The servo of one time base at a tick boundary, which came in mode `old` (R328 to R330). -/
def tbServo (s : State) (old : Mode) (b : Nat) : State :=
  let s := if tbSrc s b = 1 then domFollow s b else s
  let t := tbOf s b
  if tbSrc s b = 0 then
    setTrace (updTb s b (fun t => { t with rho := 0, err := 0, hold := false, slew := false, pendSt := false, was := false })) b false
  else if srcLocked s b then
    let e := srcEst s b - t.val
    let r := srcRate s b
    let big := decide ((e.natAbs : Int) > stepLimit s b)
    let s := updTb s b (fun t => { t with err := e, rsrc := r, hold := false, was := true, led := true, slewTo := t.slewTo && big })
    let s := if big && !t.was then raise (regInc s (tbCntA b) 15 0) fnTIM 6 b 0 else s
    let first := b = sysTb s && t.never && !t.slewTo
    let trace := decide ((e.natAbs : Int) ≤ lockTh s) && !s.clk.rosc && (tbSrc s b ≠ 2 || partnerTrace s b)
    let s := setTrace s b trace
    if first then
      if switching s then updTb s b (fun t => { t with pendSt := true, slew := false })
      else tbStep (updTb s b (fun t => { t with rho := clampRho r, pendSt := false, slew := false })) b e
    else if big && mayStep s old b && !t.slewTo then tbStep (updTb s b (fun t => { t with rho := clampRho r, slew := false, pendSt := false })) b e
    else
      let lim := slewRate s b
      let x := errRate s e
      updTb s b (fun t => { t with rho := clampRho (r + clampInt (-lim) lim x), slew := decide (x.natAbs ≥ lim.natAbs), pendSt := false })
  else
    let entered := t.was && !t.hold
    let s := updTb s b (fun t => { t with rho := clampRho t.rsrc, hold := t.hold || t.was, was := false, slew := false, pendSt := false })
    let s := if entered then raise s fnTIM 2 b 0 else s
    if s.clk.rosc then setTrace s b false else s

/-- A pending step command takes effect at the boundary, and the servo waits for the next one (R332, R333). -/
def tbCommand (s : State) (b : Nat) (c : StepCmd) : State :=
  let s := updTb s b (fun t => { t with cmd := none })
  let res := fun (s : State) (st : Nat) => { s with tim := { s.tim with stepRes := st } }
  if c.align then
    if srcLocked s b then
      let e := srcEst s b - (tbOf s b).val
      stepLog (res (tbStep s b e) 2) b 2 2 (roundDiv e 65536)
    else stepLog (res s 6) b 2 6 0
  else stepLog (res (tbStep s b (c.ns * 65536)) 2) b 1 2 c.ns

/-- Every time base at a tick boundary, which came in mode `old`: an explicit step, a TB_STEP entry's among them, keeps the servo waiting for the
next boundary (R333). -/
def timBoundary (s : State) (old : Mode) : State :=
  (List.range 4).foldl (fun s b =>
    match (tbOf s b).cmd with
    | some c => tbCommand s b c
    | none => if (tbOf s b).stepped then updTb s b (fun t => { t with stepped := false }) else tbServo s old b) s

/-- Time passes: the SYS time base moves by d and every other count by what its rate makes of the same interval (R322). -/
def timAdvance (s : State) (d : Nat) : State :=
  let rs := (tbOf s (sysTb s)).rho
  let den := (2 ^ 42 + rs).toNat
  let dl : Nat := (roundDiv (d * 2 ^ 42) (max 1 den)).toNat
  let adv := fun (b : Nat) (t : Tb) =>
    if b = sysTb s then { t with val := t.val + d }
    else { t with val := t.val + (roundDiv (d * (2 ^ 42 + t.rho)) (max 1 den)).toNat }
  let doms := s.tim.doms.map (fun x => if x.state ≥ 2 then { x with o := x.o + roundDiv (dl * x.r) (2 ^ 42) } else x)
  { s with tim := { s.tim with tbs := (s.tim.tbs.zipIdx.map (fun x => adv x.2 x.1)), loc := s.tim.loc + dl, doms := doms } }

/-- HOLDOVER_LIMIT: HO_LIMIT in holdover has passed (R328). -/
def execHoldoverLimit (tb : Fin 4) (s : State) : Host.Outcome State Fault Refusal :=
  let s := begin s
  .next (if (tbOf s tb).hold then setTrace s tb false else s)

/-! ### Host commands (R327, R332, R337) -/

/-- A step of the SYS time base, in 2^−16 ns, that the table of R332 refuses while the unit is switching. -/
def stepRange (s : State) (b : Nat) (d : Int) : Bool :=
  b = sysTb s && switching s && (decide (d ≤ 0) || decide (d > 8192 * tickNs s * 65536))

/-- STATUS of the last step command. -/
def stepRes (s : State) (st : Nat) : State := { s with tim := { s.tim with stepRes := st } }

/-- A host step command is decided: refused, or pending until the next boundary in place of an earlier one (R332). -/
def stepCmd (s : State) (pf : Pf) (key : BitVec 16) (b cmd : Nat) : State :=
  hostPf0 (begin s) pf 0x20020 (fun s =>
    let ns := toSigned 64 (reg64 s 0x20028)
    let refuse := fun (st : Nat) => stepLog (stepRes s st) b cmd st 0
    if key ≠ 0x5453 then refuse 3
    else if s.sys.mode.code < 2 then refuse 4
    else if cmd = 1 && srcLocked s b then refuse 5
    else if cmd = 2 && !srcLocked s b then refuse 6
    else if stepRange s b (if cmd = 1 then ns * 65536 else srcEst s b - (tbOf s b).val) then refuse 7
    else
      let s := match (tbOf s b).cmd with
        | some c => stepLog s b (if c.align then 2 else 1) 8 0
        | none => s
      stepRes (updTb s b (fun t => { t with cmd := some ⟨cmd = 2, ns⟩ })) 1)

/-- STEP_REL. -/
def execStepRel (pf : Pf) (key : BitVec 16) (tb : Fin 4) (s : State) : Host.Outcome State Fault Refusal :=
  .next (stepCmd s pf key tb 1)

/-- ALIGN. -/
def execAlign (pf : Pf) (key : BitVec 16) (tb : Fin 4) (s : State) : Host.Outcome State Fault Refusal :=
  .next (stepCmd s pf key tb 2)

/-- A TB_STEP entry at the boundary at which it is processed: whether it was carried out (R64, R332). A host command that it
replaces reads as its status. -/
def tbStepEntry (s : State) (b : Nat) (ns : Int) : Bool × State :=
  if s.sys.mode.code < 2 then (false, stepLog s b 3 4 0)
  else if srcLocked s b then (false, stepLog s b 3 5 0)
  else if stepRange s b (ns * 65536) then (false, stepLog s b 3 7 0)
  else
    let s := match (tbOf s b).cmd with
      | some c => stepLog (stepRes (updTb s b (fun t => { t with cmd := none })) 2) b (if c.align then 2 else 1) 8 0
      | none => s
    (true, stepLog (updTb (tbStep s b (ns * 65536)) b (fun t => { t with stepped := true })) b 3 2 ns)

/-- DOMSEL_WRITE: a write of TIM_DOMSEL; the code that the register does not list is not taken. -/
def execDomselWrite (pf : Pf) (v : Word) (s : State) : Host.Outcome State Fault Refusal :=
  .next (hostPf0 (begin s) pf 0x20030 (fun s =>
    if field v 1 0 = 3 then s
    else
      let s := regSet s 0x20030 (v &&& 3)
      (List.range 4).foldl (fun s b => if tbSrc s b = 1 ∧ field v 1 0 ≠ 0 then domFollow s b else s) s))

/-- The value of a time base at a host access: at a place in the running tick that the command does not name. -/
def tbNow (s : State) (b : Nat) : Nat × State :=
  let (d, s) := freshBelow s (tickNs s * 65536)
  ((tbOf s b).val + d, s)

/-- TB_FRAC_READ: TIM_TB_FRAC_b latches the other three words (R337). -/
def execTbFracRead (pf : Pf) (tb : Fin 4) (s : State) : Host.Outcome State Fault Refusal :=
  .next (hostRead (begin s) pf fnTIM (fun s =>
    let (v, s) := tbNow s tb
    { updTb s tb (fun t => { t with lat := v }) with rdata := at_ (v % 65536) 0 }))

/-! ### Resets and modes -/

/-- Reset of TIM (R40): servo and trackers cleared; time bases keep counting and report untraceable. -/
def timReset (s : State) : State :=
  let s := (List.range 4).foldl (fun s b =>
    updTb (setTrace s b false) b (fun t =>
      { Tb.reset with val := t.val, trace := t.trace, never := t.never, dom := t.dom, lat := t.lat })) s
  let s := [0, 1].foldl (fun s d => let pd := (domOf s d).pd; updDom (domOff s d) d (fun _ => { Dom.reset with pd := pd })) s
  let s := regSet s 0x20030 (at_ (pNat (imgOf s) 0x0D09) 0)
  domsEval { s with tim := { s.tim with stepRes := 0, pofs := [none, none, none, none], ptrace := 0 } }

/-- Both Ethernet links drop. -/
def ethDrop (s : State) : State := { s with tim := { s.tim with link := [false, false] } }

/-- Reset of ETH (R40): both links drop, and the trackers go to DISABLED (R326). -/
def ethReset (s : State) : State := [0, 1].foldl domOff (ethDrop s)

/-- The TIME section of an image comes into force; another SYS time base counts as a step of it (R323). -/
def timLoad (s : State) : State :=
  let s := regSet s 0x20030 (at_ (pNat (imgOf s) 0x0D09) 0)
  let new := pNat (imgOf s) 0x0D01
  let s := if new = sysTb s then s else sysMoved s
  domsEval { s with tim := { s.tim with sys := new } }

end Sys2Proof.Machine
end

