-- ==== Sys2Proof/Machine/RedOps.lean ====
section
/-!
DEFINITION. What redundancy does for the rest of the module (chapter Active and banked standby): health, the token, claim and
release, the lease, heartbeats, and snapshots with their content.
-/
namespace Sys2Proof.Machine

/-- RED with some of its fields changed. -/
def redSet (s : State) (f : Red → Red) : State := { s with red := f s.red }

/-! ### Parameters and conditions -/

/-- A parameter of the REDUND section. -/
def rpar (s : State) (pid : Nat) : Nat := pNat (imgOf s) pid

/-- A time in ns as a difference of the local count. -/
def locNs (ns : Nat) : Nat := ns * 65536

/-- RED is out of reset. -/
def redUp (s : State) : Bool := !s.frst.inReset.testBit fnRED

/-- The unit is healthy (R340). A safe stop counts as pending from the demand until MD_10 is left (DEDUCED from R372: a unit that claims then
returns to STANDBY). -/
def healthy (s : State) : Bool :=
  !s.sys.halt && s.clk.state = 2 && redUp s && !s.red.tknFault && s.peat.epochOk && !s.saf.lock && s.sys.mode ≠ .md10
    && !s.sys.causes.any (fun c => c.row = .blockRelease || c.row = .safe)

/-- The unit is the preferred one (R338). -/
def preferred (s : State) : Bool := pairUnit s && decide (b2n s.red.unitSel = rpar s 0x0E02)

/-- TKN_O toggles (R341): while CLAIMING or HOLDER, but not in MD_0 nor on a loss of the clocks. -/
def tknOut (s : State) : Bool :=
  (s.red.state = .claiming || s.red.state = .holder) && s.sys.mode ≠ .md0 && s.clk.state = 2 && redUp s

/-- The partner port is up (R342). -/
def ppUp (s : State) : Bool := [48, 49].any (fun n => (laneOf s n).state = 7)

/-- STATE of the partner as its present heartbeat shows it. -/
def partnerShows (s : State) (st : Nat) : Bool := s.red.hbHere && s.red.pstate = st

/-- TKN_MISMATCH holds (R344). -/
def tknMismatch (s : State) : Bool := pairUnit s && !s.red.tknIn && (partnerShows s 3 || partnerShows s 4)

/-- PP_LOSS holds (R344). -/
def ppLoss (s : State) : Bool := pairUnit s && !s.red.hbHere && s.red.tknIn

/-- A disagreement raises its flag when it begins (R344). -/
def redWatch (s0 s : State) : State :=
  let s := if !tknMismatch s0 && tknMismatch s then raise s fnRED 3 0 0 else s
  if !ppLoss s0 && ppLoss s then raise s fnRED 4 0 0 else s

/-! ### Snapshots (R350, R353, R356) -/

/-! ### The plane copy (R352, R355, R411) -/

/-- The sections of which the plane copy holds the records: all but SYMBOLS and STRINGS. -/
def planeSects (img : Image) : List SectRec := img.sects.filter (fun t => t.type ≠ 4 && t.type ≠ 5)

/-- Bytes of the plane copy with its CRC. -/
def planeCopyLen (s : State) : Nat := ((planeSects (imgOf s)).map (·.length)).foldl (· + ·) 4

/-- The bytes of a plane copy carry their CRC-32C. -/
def planeOk (bs : List Byte) : Bool := leAt bs (bs.length - 4) 4 = crc32c (bs.take (bs.length - 4))

/-- The plane copy in rick 14 is current (R353, R411). -/
def copyNow (s : State) : Bool := s.red.copyOk && planeOk (devRead s 0xE00000 (planeCopyLen s))

/-- A slot's bytes with its sections as a plane copy holds them. -/
def planePatch (bytes : List Byte) : List SectRec → List Byte → List Byte
  | [], _ => bytes
  | t :: ts, c => planePatch (bytes.take t.offset ++ c.take t.length ++ bytes.drop (t.offset + t.length)) ts (c.drop t.length)

/-- FAB reads the plane copy, where it is current: its bytes, or none where the read ends with an error or the CRC fails. -/
def planeRead (s : State) : Option (List Byte) × State :=
  if !s.red.copyOk then (none, s)
  else
    let (r, s) := rickRead s 6 0xE00000 (planeCopyLen s)
    match r with
    | .inr bs => if planeOk bs then (some bs, s) else (none, redSet s (fun r => { r with copyOk := false }))
    | .inl _ => (none, redSet s (fun r => { r with copyOk := false }))

/-! ### The age and use of a snapshot -/

/-- The latest complete snapshot is usable for a restore (R353). -/
def snapUsable (s : State) : Bool :=
  match s.red.snap with
  | none => false
  | some n =>
    decide (n.age ≤ rpar s 0x0E05) && leAt n.bytes 0x01C 4 = hash32 s && copyNow s
      && decide (4 ≤ leAt n.bytes 0x006 1) && decide (leAt n.bytes 0x006 1 ≤ 9)

/-- The preferred unit is synchronised (R356). -/
def synced (s : State) : Bool :=
  preferred s && s.sys.mode = .md3 && healthy s && partnerShows s 4 && snapUsable s && (tbOf s (sysTb s)).trace

/-- C_a of an arm as RDL_ID_C_a holds it. -/
def armCWord (s : State) (a : Nat) : Nat :=
  let x := armOf s.rdl a
  x.cCount * 2 ^ 20 + (clampInt 0 1048575 (roundShift x.cVal Config.engineFrac)).toNat

/-- XFORM nodes of subtype 4, lowest NODE_ID first. -/
def xfNodes (img : Image) : List NodeRec :=
  ((img.nodes.filter (fun r => r.type = 5 && r.sub = 4)).foldl (fun acc r =>
    acc.takeWhile (fun x => x.id < r.id) ++ [r] ++ acc.dropWhile (fun x => x.id < r.id)) []).take 32

/-- XF_e of one node. -/
def xfEntry (s : State) (r : NodeRec) : List Byte :=
  let c := tabGet Cell.fresh s.fab.cells r.id
  leBytes 2 r.id ++ leBytes 1 (ofSigned 8 (stageOf r c)) ++ [0] ++ (List.range 4).flatMap (fun k => leBytes 4 (ofSigned 32 (nth 0 c.hist k))) ++ zeros 4

/-- SYS_SA_CTL_i as it reads: ARM follows the entry. -/
def saCtl (e : SaEntry) : Word := (e.ctl &&& 0xFFFFF0F2) ||| flagAt e.armed 0

/-- SA_i of one host entry. -/
def saBytes (e : SaEntry) : List Byte :=
  [e.ns, e.secl, e.sech, saCtl e, e.arg, e.val].flatMap (fun w => leBytes 4 w.toNat)

/-- The snapshot of the present tick (R350). -/
def snapshotBytes (s : State) (seq : Nat) (final : Bool) : List Byte :=
  let q := Config.engineFrac
  let img := imgOf s
  let m := s.swg.mach
  let w4 := if q ≤ 28 then m.w * 2 ^ (28 - q) else roundShift m.w (q - 28)
  let nib := fun k => smReason s.rdl (k / 512) (k % 512)
  let xf := (xfNodes img).flatMap (xfEntry s)
  let body := ascii "NLSN" ++ leBytes 2 1 ++ leBytes 1 s.sys.mode.code ++ leBytes 1 (b2n s.red.unitSel + 2 * b2n final) ++ leBytes 4 s.red.epoch
    ++ leBytes 4 seq ++ leBytes 12 (time96 (s.sys.bound * 65536)) ++ leBytes 4 (hash32 s) ++ leBytes 8 m.theta ++ leBytes 4 (ofSigned 32 w4)
    ++ leBytes 4 s.swg.state ++ (List.range 6).flatMap (fun a => leBytes 4 (armCWord s a)) ++ zeros 8
    ++ (List.range 1536).map (fun k => BitVec.ofNat 8 (nib (2 * k) + 16 * nib (2 * k + 1)))
    ++ xf ++ (List.replicate (32 - xf.length / 24) ([0xFF, 0xFF] ++ zeros 22)).flatten
    ++ (s.sa.take 60).flatMap saBytes ++ zeros 268
  body ++ leBytes 4 (crc32c body)

/-- A snapshot whose CRC and MAGIC are correct. -/
def snapshotOk (bs : List Byte) : Bool :=
  bs.length = 4096 && bs.take 4 = ascii "NLSN" && leAt bs 0xFFC 4 = crc32c (bs.take 0xFFC)

/-- A snapshot goes to the next slot of the persistent ring (R351). -/
def ringWrite (s : State) (bs : List Byte) : State :=
  { s with peat := peatJob { s.peat with ringNext := (s.peat.ringNext + 1) % 4096 } ⟨.snapshot, s.peat.ringNext, 0, 64, bs⟩ }

/-- The newest slot of the ring with a correct CRC (R351). -/
def ringNewest (s : State) : Option Nat :=
  ((List.range 4096).map (fun k => (s.peat.ringNext + 4095 - k) % 4096)).find? (fun k => snapshotOk (tabGet [] s.peat.ring k))

/-- A capture: the snapshot that was streamed is abandoned where chunks of it are still to go (R349). -/
def snapCapture (s : State) (final : Bool) : State :=
  let s := match s.red.stream with
    | some t => if t.chunk < 16 || t.nakd ≠ 0 || t.lost then raise (regInc s 0xE004C 31 16) fnRED 5 0 0 else s
    | none => s
  let seq := (s.red.snapSeq + 1) % 2 ^ 32
  redSet s (fun r => { r with snapSeq := seq, stream := some ⟨seq, snapshotBytes s seq final, 0, final, 0, List.replicate 16 0, false⟩ })

/-- The angle of a snapshot advanced over an age in ns (R151): θ + f_b × ω × age, as a 64-bit fraction of a turn. -/
def advanceTheta (s : State) (bs : List Byte) (ageNs : Nat) : Nat :=
  let d := roundDiv (toSigned 32 (leAt bs 0x028 4) * (pNat (imgOf s) 0x0104 * ageNs * 2 ^ 36 : Nat)) 1000000000
  (((leAt bs 0x020 8 : Int) + d) % (2 ^ 64 : Nat)).toNat

/-- A time value (R11) in ns. -/
def ns96 (t : Nat) : Nat := t / 2 ^ 48 * 1000000000 + t / 65536 % 2 ^ 32

/-- The angle from which a soft-start of the swing engine on a dead bus begins (R151). -/
def seedTheta (s : State) : Nat :=
  match s.red.snap with
  | some n => advanceTheta s n.bytes n.age
  | none =>
    match ringNewest s with
    | some k =>
      let bs := tabGet [] s.peat.ring k
      if (tbOf s (sysTb s)).trace then advanceTheta s bs (s.sys.bound - ns96 (leAt bs 0x010 12)) else 0
    | none => 0

/-- A soft-start of the swing engine is asked for (R151); the trackers seed their angles again at their first valid sample (R150). -/
def swgWait (s : State) (eZero : Bool) : State :=
  { s with swg := { s.swg with
      cond := { s.swg.cond with wait := true, eZero := eZero, seedTh := seedTheta s, seedW := none }
      bus := { s.swg.bus with seeded := false }, grd := { s.swg.grd with seeded := false } } }

/-- A soft-start that is still pending takes the angle of the snapshot advanced to the present boundary (R151). -/
def swgSeed (s : State) : State :=
  if s.swg.cond.wait then { s with swg := { s.swg with cond := { s.swg.cond with seedTh := seedTheta s } } } else s

/-! ### Partner frames (R342, R343, R349) -/

/-- A frame to the partner, on both lanes, as far as they are ACTIVE. -/
def partnerSend (s : State) (payload : List Byte) : State :=
  let data := payload ++ leBytes 4 (crc32c payload)
  [48, 49].foldl (fun s n =>
    if (laneOf s n).state = 7 then laneSend s n (setSyms setSOF 2 (n % 8) ++ data.map Sym.data ++ setSyms setEOF 0 0) else s) s

/-- SNAP_SEQ and NAK of the heartbeat: a holder names the snapshot it streams, a standby the last it completed and the chunks of the
next that arrived invalid. -/
def hbSnap (s : State) : Nat × Nat :=
  if s.red.state = .holder || s.red.state = .released then (match s.red.stream with | some t => t.seq | none => 0, 0)
  else
    let last := match s.red.snap with | some n => n.seq | none => 0
    (last, if s.red.rxSeq = (last + 1) % 2 ^ 32 then s.red.nak else 0)

/-- The heartbeat frame (R343). -/
def heartbeatBytes (s : State) : List Byte :=
  let r := s.red
  let fl := b2n r.unitSel + 2 * b2n (healthy s) + 4 * b2n r.lease + 8 * b2n (synced s) + 16 * b2n r.hbkReq + 32 * b2n (snapUsable s)
  let (sq, nak) := hbSnap s
  leBytes 1 1 ++ leBytes 1 (redCode r.state) ++ leBytes 2 r.hbSeq ++ leBytes 4 r.epoch ++ leBytes 1 s.sys.mode.code ++ leBytes 1 fl
    ++ leBytes 1 r.relCause ++ leBytes 1 (bitsOf 4 (fun b => (tbOf s b).trace)) ++ leBytes 4 (hash32 s) ++ leBytes 4 sq
    ++ leBytes 2 nak ++ zeros 2 ++ (List.range 4).flatMap (fun b => leBytes 12 (time96 (tbOf s b).val))

/-- The slot report (R97): the inactive slot, whether it is staged, and whether the unit is banked. -/
def slotReportBytes (s : State) : List Byte :=
  let k := 1 - s.sec.active
  let sl := nth ImgSlot.empty s.peat.slots k
  let staged := s.img.state = 2 && s.img.stSlot = k
  leBytes 1 3 ++ leBytes 1 (b2n sl.valid + 2 * b2n staged + 4 * b2n (s.sys.mode = .md3)) ++ zeros 2 ++ sliceBytes sl.bytes 0x40 48

/-- A heartbeat leaves, with the slot report that waits for it. -/
def heartbeatSend (s : State) : State :=
  if !pairUnit s || !redUp s || s.red.state = .off then s
  else
    let s1 := partnerSend s (heartbeatBytes s)
    let s2 := if s.red.repDue then partnerSend s1 (slotReportBytes s) else s1
    redSet s2 (fun r => { r with hbSeq := (r.hbSeq + 1) % 65536, repDue := false })

/-- A slot or the staging changed: a slot report goes with the next heartbeat (R97). -/
def slotChanged (s : State) : State := redSet s (fun r => { r with repDue := true })

/-- One chunk of the streamed snapshot leaves. -/
def chunkSend (s : State) (t : Stream) (c : Nat) : State :=
  partnerSend s (leBytes 1 2 ++ leBytes 1 c ++ zeros 2 ++ leBytes 4 t.seq ++ sliceBytes t.bytes (256 * c) 256)

/-- The next chunk of the streamed snapshot leaves, one per tick; without an ACTIVE partner lane it is not delivered. -/
def streamTick (s : State) : State :=
  match s.red.stream with
  | none => s
  | some t =>
    if t.chunk < 16 then redSet (chunkSend s t t.chunk) (fun r => { r with stream := some { t with chunk := t.chunk + 1, lost := t.lost || !ppUp s } }) else s

/-! ### State changes (R345 to R348) -/

/-- A claim of a banked unit powers up its control domains, reads its planes from the plane copy and restarts ADC and FLT (R345). The planes are in
use from the vote that ends MD_3 on; a copy that does not read back leaves no snapshot usable (R355). -/
def claimUp (s : State) : State :=
  if s.sys.mode = .md3 then adcStart (fltLoad (redSet (planeRead s).2 (fun r => { r with pwr := true }))) else s

/-- The control domains that a claim powered up are powered down again (R345). -/
def claimDown (s : State) : State :=
  if s.red.pwr && s.sys.mode = .md3 then
    let s := fltReset (adcReset (redSet s (fun r => { r with pwr := false })))
    { s with regs := [fnADC, fnFLT].foldl (fun t fn => regsFrst fn (fun _ => false) t) s.regs }
  else s

/-- A change of RED state, with its entry. -/
def redGo (s : State) (new : RedState) : State :=
  let old := s.red.state
  let drives := new = .claiming || new = .holder
  let s := if drives then s else claimDown s
  logNow (redSet s (fun r => { r with state := new, tknFault := r.tknFault && drives })) fnRED 0x80
    (argAt 0 (redCode old) + argAt 1 (redCode new) + argAt 4 s.red.epoch + argAt 8 s.red.epochP)

/-- The epoch of a new claim (R346); none where it is at its end. -/
def nextEpoch (s : State) : Option Nat :=
  let m := (s.crd.ports.map (·.epoch)).foldl max (max (max s.red.epoch s.peat.epoch) s.red.epochP)
  if 0xFFFFFFFF ≤ m then none else some (m + 1)

/-- An epoch is written to its line of the peat store. -/
def epochStore (s : State) (e : Nat) : State := peatWrite s [.epoch] (fun p => { p with epoch := e })

/-- The unit's epoch advances as a claim advances it (R333). -/
def epochAdvance (s : State) : State :=
  match nextEpoch s with
  | none => raise s fnRED 14 0 0
  | some e => redSet (epochStore s e) (fun r => { r with epoch := e })

/-- The unit holds no lease from now on, which ends a service pulse and takes a direct-drive port under the token to OFF
(R234, R251). -/
def leaseDrop (s : State) : State := portSettle (svcEnd (redSet s (fun r => { r with lease := false })) 3)

/-- The lease is renewed (R347). -/
def leaseRenew (s : State) : State := redSet s (fun r => { r with lease := true, leaseAt := s.tim.loc })

/-- The lease may be renewed at a heartbeat instant (R347). -/
def leaseMay (s : State) : Bool :=
  tokenHeld s && healthy s && !s.sys.blockNext
    && (s.red.state = .single || (!s.red.tknIn && !(partnerShows s 4 && decide (s.red.epoch < s.red.epochP))))

/-- A claim is refused at the end of the epochs, or begins (R345, R346). `at_` is the local count at which its condition began. -/
def claimStart (s : State) (at_ : Nat) : Bool × State :=
  match nextEpoch s with
  | none => (false, raise s fnRED 14 0 0)
  | some e => (true, redGo (claimUp (redSet (epochStore s e) (fun r => { r with eNew := e, claimAt := at_, takeOpen := true }))) .claiming)

/-- A claim ends in STANDBY (R345): it keeps the increment, so the next one is higher. -/
def claimYield (s : State) : State :=
  raise (redGo (redSet s (fun r => { r with epoch := r.eNew, takeOpen := false })) .standby) fnRED 6 0 0

/-- The token is released (R348 step 2): TKN_O stops, the lease is cancelled and, in a pair, an extra heartbeat leaves. -/
def releaseNow (s : State) (cause : Nat) : State :=
  let s := leaseDrop s
  if !tokenHeld s then s
  else
    let single := s.red.state = .single
    let s := redSet s (fun r => { r with tok := false, relCause := cause, takeOpen := false })
    let s := if single then s else redGo s .released
    let s := raise (regInc s 0xE0048 15 0) fnRED 1 0 0
    if single then s else heartbeatSend s

/-- A single unit takes the token at an entry to MD_2 (R339). -/
def singleTake (s : State) : State :=
  if s.red.state ≠ .single || s.red.tok || !healthy s then s
  else
    match nextEpoch s with
    | none => raise s fnRED 14 0 0
    | some e =>
      leaseRenew (redSet (epochStore s e) (fun r => { r with epoch := e, tok := true, claimAt := s.tim.loc }))

/-- A unit whose state follows PAIR starts (R339, R345). -/
def redStart (s : State) : State :=
  if s.red.state = .off && redUp s then
    redSet (redGo s (if pairUnit s then .standby else .single)) (fun r => { r with gone := s.tim.loc })
  else s

/-- What a holder that may no longer hold does: an own fault, or a partner that holds with a higher epoch (R340, R345). -/
def holderJudge (s : State) : State :=
  if !tokenHeld s || s.sys.blockNext then s
  else if s.red.state = .holder && partnerShows s 4 && decide (s.red.epoch < s.red.epochP) then
    blockRelease (raise s fnRED 9 0 0)
  else if !healthy s then blockRelease s
  else s

/-- The changes that the unit's present observations call for (R345). -/
def redJudge (s : State) : State :=
  if !redUp s then s
  else
    match s.red.state with
    | .standby =>
      if s.sys.mode = .md3 && partnerShows s 5 && !s.red.tknIn then
        let (u, s) := freshBelow s (locNs (tickNs s))
        judgeClaim (claimStart s (s.tim.loc + u)).2
      else s
    | .claiming => judgeClaim s
    | .holder => holderJudge s
    | .single => holderJudge s
    | .released => if partnerShows s 4 then redSet (redGo s .standby) (fun r => { r with gone := if r.hbHere then r.gone else s.tim.loc }) else s
    | .off => s
where
  /-- A claim in progress yields where R345 says so. -/
  judgeClaim (s : State) : State :=
    if s.red.state = .claiming && ((s.red.tknIn && !preferred s) || partnerShows s 3 || partnerShows s 4 || !healthy s) then claimYield s
    else s

/-- The observations changed: the flags of R344, the changes of R345 and the handback request of R356. -/
def redEval (s0 s : State) : State :=
  let s := redJudge (redWatch s0 s)
  if s.red.hbkReq && !synced s then redSet s (fun r => { r with hbkReq := false }) else s

end Sys2Proof.Machine
end

