-- ==== Sys2Proof/Machine/Redundancy.lean ====
section
/-!
DEFINITION. The commands of redundancy (chapter Active and banked standby): partner frames, token line, claims, handback and the
two standby stores.
-/
namespace Sys2Proof.Machine

/-! ### Standby stores (R350, R352) -/

/-- RED writes to a standby rick under its region registers (R412); whether it was allowed. -/
def redStore (s : State) (addr : Nat) (bs : List Byte) : Bool × State :=
  if rgnAllows s 3 addr bs.length true then (true, devWrite s addr bs) else (false, denyAccess s)

/-- Bytes of one section of a slot. -/
def sectBytes (bytes : List Byte) (t : SectRec) : List Byte := sliceBytes bytes t.offset t.length

/-- The plane copy: node records, routes and parameter records of the active slot, with its CRC (R352, R411). -/
def planeCopy (s : State) : List Byte :=
  let img := imgOf s
  let bytes := (nth ImgSlot.empty s.peat.slots img.slot).bytes
  let body := (planeSects img).flatMap (sectBytes bytes)
  body ++ leBytes 4 (crc32c body)

/-- The plane copy is written into rick 14 and is current where the write was allowed. -/
def planeCopyWrite (s : State) : State :=
  let (ok, s) := redStore s 0xE00000 (planeCopy s)
  redSet s (fun r => { r with copyOk := ok })

/-- A complete snapshot takes the place of the older of the two buffers in rick 15. -/
def snapStore (s : State) (seq : Nat) (bs : List Byte) : State :=
  let (ok, s) := redStore s (0xF00000 + 0x1000 * (seq % 2)) bs
  if ok then redSet s (fun r => { r with snap := some ⟨seq, bs, r.rxAge⟩ }) else s

/-! ### Handback (R357) -/

/-- Entry 61 as RED arms it for the next window. -/
def hbkEntry (s : State) : SaEntry :=
  let p := max 1 (rpar s 0x0E0B / 1000000000)
  let now := s.sys.bound + 10000000
  let sec := ((now + 1000000000 * p - 1) / (1000000000 * p)) * p
  { SaEntry.empty with secl := BitVec.ofNat 32 sec, sech := BitVec.ofNat 32 (sec / 2 ^ 32 % 65536), ctl := at_ 1000 12 ||| at_ 8 4
                       armed := true, status := 1 }

/-- A holder that sees the request arms the next handback window. -/
def hbkArm (s : State) : State :=
  let req := match s.red.hb with | some h => h.flags.getLsbD 4 | none => false
  if s.red.state = .holder && s.red.hbHere && req && rpar s 0x0E09 = 1 && !s.red.inhibit && !(nth SaEntry.empty s.sa 61).armed then
    { s with sa := setNth s.sa 61 (hbkEntry s) }
  else s

/-- Entry 61 runs: the release is put to the vote where the conditions hold, else HBK_SKIP. -/
def hbkRun (s : State) : State :=
  let fl := match s.red.hb with | some h => s.red.hbHere && h.flags.getLsbD 4 && h.flags.getLsbD 3 | none => false
  if s.red.state = .holder && (s.sys.mode = .md7 || s.sys.mode = .md9) && s.sys.trans.isNone && !s.swg.cond.fault && fl then
    addCause s ⟨.handback, .md3, none, 1⟩
  else hbkArm (raise s fnRED 7 0 0)

/-- Entry 61 ended EXPIRED. -/
def hbkExpired (s : State) : State := hbkArm (raise s fnRED 7 0 0)

/-! ### Becoming HOLDER (R345, R355) -/

/-- RED reads the latest complete snapshot from its buffer in rick 15 (R350, R410 to R412): one that does not read back with its CRC is none. -/
def snapTake (s : State) : State :=
  match s.red.snap with
  | none => s
  | some n =>
    let (r, s) := rickRead s 3 (0xF00000 + 0x1000 * (n.seq % 2)) 4096
    redSet s (fun x => { x with snap := match r with
      | .inr bs => if snapshotOk bs then some { n with bytes := bs } else none
      | .inl _ => none })

/-- The claim is complete: the epoch comes into force, the lease starts and, from MD_3, the restore begins. -/
def holderStart (s : State) : State :=
  let s := redGo (redSet s (fun r => { r with epoch := r.eNew, rx := [], rxSeq := 0, nak := 0, met := 0 })) .holder
  let s := raise (regInc (leaseRenew s) 0xE0048 31 16) fnRED 0 0 0
  if s.sys.mode ≠ .md3 then s
  else
    let s := snapTake (crdWake s)
    if snapUsable s then
      let m := match s.red.snap with | some n => leAt n.bytes 0x006 1 | none => 2
      addCause (redSet s (fun r => { r with restored := true })) ⟨.claimed, (Mode.ofCode m).getD .md2, none, 0⟩
    else addCause (raise s fnRED 13 0 0) ⟨.claimed, .md2, none, 0⟩

/-! ### Partner frames -/

/-- The partner lane delay as a time in 2^−16 ns. -/
def partnerDelay (s : State) : Nat :=
  match [48, 49].find? (fun n => (laneOf s n).state = 7) with
  | some n => (laneOf s n).dl * 65536 / 1000
  | none => 0

/-- What a received heartbeat leaves in the state. -/
def hbTake (s : State) (hb : Heartbeat) (arrival : Nat) : State :=
  let d := partnerDelay s
  let ofs := (List.range 4).map (fun b => some ((ofTime96 (nth 0 hb.tb b).toNat : Int) + d - arrival))
  let nakd := fun (r : Red) => match r.stream with
    | some t => some (if (hb.snapSeq.toNat + 1) % 2 ^ 32 = t.seq then { t with nakd := t.nakd ||| hb.nak.toNat } else t)
    | none => none
  let s := redSet s (fun r => { r with hb := some hb, hbHere := true, pstate := hb.state.toNat % 8, epochP := hb.epoch.toNat, stream := nakd r })
  { s with tim := { s.tim with pofs := ofs, ptrace := hb.trace.toNat % 16 } }

/-- The partner's frames are taken by a unit of a pair whose RED runs. -/
def partnerIn (s : State) : Bool := pairUnit s && redUp s && s.red.state ≠ .off && s.clk.state = 2

/-- The payload of a partner frame of a TYPE and length, where its CRC-32C is correct (R342). -/
def partnerPayload (type len : Nat) (bs : List Byte) : Option (List Byte) :=
  if bs.length = len + 4 && leAt bs 0 1 = type && leAt bs len 4 = crc32c (bs.take len) then some (bs.take len) else none

/-- The fields of a heartbeat (R343). -/
def hbParse (bs : List Byte) : Heartbeat :=
  let w := fun (n o k : Nat) => BitVec.ofNat n (leAt bs o k)
  { state := w 8 1 1, seq := w 16 2 2, epoch := w 32 4 4, mode := w 8 8 1, flags := w 8 9 1, cause := w 8 10 1, trace := w 8 11 1
    hash32 := w 32 12 4, snapSeq := w 32 16 4, nak := w 16 20 2, tb := (List.range 4).map (fun b => w 96 (24 + 12 * b) 12) }

/-- The second copy of a heartbeat already taken (R342). -/
def hbAgain (s : State) (hb : Heartbeat) : Bool :=
  s.red.hbHere && (match s.red.hb with | some h => h.seq = hb.seq | none => false)

/-- HEARTBEAT_RX: the payload of a heartbeat frame with its CRC, as it came on one lane. A valid first copy may start a claim, a yield or a
release. -/
def execHeartbeatRx (bytes : List Byte) (arrival : Nat) (s : State) : Host.Outcome State Fault Refusal :=
  let s := begin s
  .next (match partnerPayload 1 72 bytes with
    | some p => if partnerIn s && !hbAgain s (hbParse p) then hbkArm (redEval s (hbTake s (hbParse p) arrival)) else s
    | none => s)

/-- HEARTBEAT_LOSS: no valid copy within 300 µs. A holder raises PP_LOSS with it, whose own line is the one that claims (DEDUCED: R344 has both units
raise it when both lose the heartbeat). -/
def execHeartbeatLoss (s : State) : Host.Outcome State Fault Refusal :=
  let s := begin s
  .next (if s.red.hbHere then
    let s1 := raise (regInc (redSet s (fun r => { r with hbHere := false, gone := s.tim.loc })) 0xE004C 15 0) fnRED 2 0 0
    redEval s (if s.red.state = .holder && !s.red.tknIn then raise s1 fnRED 4 0 0 else s1)
  else s)

/-- The fields of a slot report (R97). -/
def slotReportParse (bs : List Byte) : SlotReport :=
  let fl := leAt bs 1 1
  ⟨fl.testBit 0, fl.testBit 1, fl.testBit 2, BitVec.ofNat 384 (leAt bs 4 48)⟩

/-- SLOT_REPORT_RX (R97): the payload with its CRC. -/
def execSlotReportRx (bytes : List Byte) (s : State) : Host.Outcome State Fault Refusal :=
  let s := begin s
  .next (match partnerPayload 3 52 bytes with
    | some p => if partnerIn s then redSet s (fun x => { x with slotRep := some (slotReportParse p) }) else s
    | none => s)

/-- The data of a chunk frame that is valid and is the chunk expected (R349). -/
def chunkData (c : SnapChunk) : Option (List Byte) :=
  match partnerPayload 2 264 c.bytes with
  | some p => if leAt p 1 1 = c.chunk.val && leAt p 4 4 = c.seq.toNat then some (p.drop 8) else none
  | none => none

/-- SNAP_CHUNK_RX: a chunk is kept or reported, and the last one completes the snapshot (R349, R350). -/
def chunkTake (s : State) (c : SnapChunk) : State :=
  let sq := c.seq.toNat
  let s := if sq = s.red.rxSeq then s
    else
      let s := if s.red.rx.isEmpty && s.red.nak = 0 then s else raise (regInc s 0xE004C 31 16) fnRED 5 0 0
      redSet s (fun r => { r with rxSeq := sq, rx := [], nak := 0, rxAge := tickNs s })
  if s.red.snap.map (·.seq) = some sq || s.red.rx.any (fun x => x.1 = c.chunk.val) then s
  else match chunkData c with
  | none => redSet s (fun r => { r with nak := r.nak ||| 2 ^ c.chunk.val })
  | some data =>
    let s := redSet s (fun r => { r with rx := tabSet [] r.rx c.chunk data, nak := r.nak &&& (0xFFFF - 2 ^ c.chunk.val)
                                         rxAge := if c.chunk.val = 0 then tickNs s else r.rxAge })
    if s.red.rx.length < 16 then s
    else
      let bs := (List.range 16).flatMap (fun k => tabGet [] s.red.rx k)
      let s := if snapshotOk bs then snapStore s sq bs else s
      redSet s (fun r => { r with rx := [] })

/-- SNAP_CHUNK_RX. -/
def execSnapChunkRx (c : SnapChunk) (s : State) : Host.Outcome State Fault Refusal :=
  let s := begin s
  .next (if partnerIn s && s.red.state ≠ .holder then
    let s1 := chunkTake s c
    redEval s s1
  else s)

/-- SNAP_CHUNK_RETRY: PP_RETRY_INT after the heartbeat that reported it, a chunk goes again, up to PP_RETRY_N times (R349). -/
def execSnapChunkRetry (chunk : Fin 16) (s : State) : Host.Outcome State Fault Refusal :=
  let s := begin s
  .next (match s.red.stream with
    | none => s
    | some t =>
      if t.nakd.testBit chunk && decide (nth 0 t.tries chunk < rpar s 0x0E06) then
        redSet (chunkSend s t chunk) (fun r =>
          { r with stream := some { t with nakd := t.nakd - 2 ^ chunk.val, lost := t.lost || !ppUp s, tries := updNth t.tries chunk (· + 1) } })
      else s)

/-! ### Token line (R341) -/

/-- TKN_I_RELEASED: no edge for 2 µs. -/
def execTknIReleased (s : State) : Host.Outcome State Fault Refusal :=
  let s := begin s
  .next (redEval s (redSet s (fun r => { r with tknIn := false })))

/-- TKN_I_CLAIMING: an edge arrives. -/
def execTknIClaiming (s : State) : Host.Outcome State Fault Refusal :=
  let s := begin s
  .next (redEval s (redSet s (fun r => { r with tknIn := true })))

/-- TKN_READBACK_FAULT: TKN_O is driven and its readback shows no edge. -/
def execTknReadbackFault (s : State) : Host.Outcome State Fault Refusal :=
  let s := begin s
  .next (if tknOut s && !s.red.tknFault then
    redEval s (raise (redSet s (fun r => { r with tknFault := true })) fnRED 10 0 0)
  else s)

/-! ### Claims by time (R345) -/

/-- An automatic claim of a banked standby. -/
def autoClaim (s : State) (since : Nat) : State :=
  let (_, s1) := claimStart s since
  redEval s s1

/-- SILENT_CLAIM: silence has lasted T_L. -/
def execSilentClaim (s : State) : Host.Outcome State Fault Refusal :=
  let s := begin s
  .next (if s.red.state = .standby && s.sys.mode = .md3 && redUp s && !s.red.hbHere && !s.red.tknIn then
    let (u, s) := freshBelow s (locNs (tickNs s))
    autoClaim s (s.tim.loc + u - locNs (rpar s 0x0E03))
  else s)

/-- ORPHAN_CLAIM: the partner is STANDBY and TKN_I has read released for T_L. -/
def execOrphanClaim (s : State) : Host.Outcome State Fault Refusal :=
  let s := begin s
  .next (if s.red.state = .standby && s.sys.mode = .md3 && redUp s && partnerShows s 2 && !s.red.tknIn then
    let (u, s) := freshBelow s (locNs (tickNs s))
    autoClaim s (s.tim.loc + u - locNs (rpar s 0x0E03))
  else s)

/-- CLAIM_GUARD_EXPIRE: T_G has passed in CLAIMING with TKN_I released. -/
def execClaimGuardExpire (s : State) : Host.Outcome State Fault Refusal :=
  let s := begin s
  .next (if s.red.state = .claiming && redUp s && !s.red.tknIn then holderStart s else s)

/-- The snapshot in the stream is given up with its chunk retries, and SNAP_MISS is not raised for it (R379). -/
def streamQuit (s : State) : State := redSet s (fun r => { r with stream := none })

/-- The lease lapses (R43, R345): block and release. -/
def leaseLapse (s : State) : State :=
  if tokenHeld s && s.red.lease then blockRelease (raise (leaseDrop (streamQuit s)) fnRED 8 0 0) else s

/-- LEASE_LAPSE: T_L has passed since the last renewal. -/
def execLeaseLapse (s : State) : Host.Outcome State Fault Refusal := .next (leaseLapse (begin s))

/-- RELEASED_TIMEOUT: T_L + T_G after the release. -/
def execReleasedTimeout (s : State) : Host.Outcome State Fault Refusal :=
  let s := begin s
  .next (if s.red.state = .released then
    redEval s (redSet (redGo s .standby) (fun r => { r with gone := if r.hbHere then r.gone else s.tim.loc }))
  else s)

/-! ### RED_CTL (R358, R361) -/

/-- A write of RED_CTL: the command waits for the next boundary. -/
def redCtl (s : State) (pf : Pf) (key : BitVec 16) (cmd : Nat) : State :=
  hostPf0 s pf 0xE0020 (fun s =>
    redSet s (fun r => if key = 0x5245 then { r with cmd := some cmd } else { r with cmdRes := 2 }))

/-- RED_CLAIM. -/
def execRedClaim (pf : Pf) (key : BitVec 16) (s : State) : Host.Outcome State Fault Refusal := .next (redCtl (begin s) pf key 1)
/-- RED_RELEASE. -/
def execRedRelease (pf : Pf) (key : BitVec 16) (s : State) : Host.Outcome State Fault Refusal := .next (redCtl (begin s) pf key 2)
/-- HBK_INHIBIT. -/
def execHbkInhibit (pf : Pf) (key : BitVec 16) (s : State) : Host.Outcome State Fault Refusal := .next (redCtl (begin s) pf key 3)
/-- HBK_ALLOW. -/
def execHbkAllow (pf : Pf) (key : BitVec 16) (s : State) : Host.Outcome State Fault Refusal := .next (redCtl (begin s) pf key 4)

/-- CLAIM at the boundary: its STATUS and effect. -/
def hostClaim (s : State) : Nat × State :=
  let absent := !s.red.hbHere && decide (s.red.gone + locNs (rpar s 0x0E03) ≤ s.tim.loc)
  let other := s.red.hbHere && !partnerShows s 3 && !partnerShows s 4
  if s.sys.mode ≠ .md2 ∧ s.sys.mode ≠ .md11 then (3, s)
  else if !pairUnit s || s.red.state ≠ .standby || !redUp s then (6, s)
  else if s.red.tknIn || !(absent || other) then (4, s)
  else
    let (ok, s1) := claimStart s s.tim.loc
    (if ok then 1 else 5, redEval s s1)

/-- RELEASE at the boundary. -/
def hostRelease (s : State) : Nat × State :=
  if !tokenHeld s || s.sys.blockNext then (6, s)
  else if s.sys.mode = .md2 || s.sys.mode = .md11 then (1, { s with sys := { s.sys with blockNext := true, relCause := 2 } })
  else if s.sys.mode.forms then (1, addCause s ⟨.handback, .md3, none, 2⟩)
  else (3, s)

/-- HBK_INHIBIT at the boundary: an armed handback entry is cleared (R65). -/
def hostInhibit (s : State) : State :=
  let e := nth SaEntry.empty s.sa 61
  let s := redSet s (fun r => { r with inhibit := true })
  if e.armed then { s with sa := setNth s.sa 61 { e with armed := false, status := 0 } } else s

/-- The command that waits takes effect at a boundary (R358). -/
def redCommand (s : State) : State :=
  match s.red.cmd with
  | none => s
  | some c =>
    let s := redSet s (fun r => { r with cmd := none })
    let (st, s) := match c with
      | 1 => hostClaim s
      | 2 => hostRelease s
      | 3 => (1, hostInhibit s)
      | _ => (1, hbkArm (redSet s (fun r => { r with inhibit := false })))
    redSet s (fun r => { r with cmdRes := st })

/-! ### Restore and handback by time -/

/-- RESTORE_TIMEOUT: 20 ms after HOLDER some port still has to carry BLOCK (R355). -/
def execRestoreTimeout (s : State) : Host.Outcome State Fault Refusal :=
  let s := begin s
  .next (if s.red.restored then blockRelease (raise (redSet s (fun r => { r with restored := false })) fnRED 12 0 0) else s)

/-- PLANE_COPY_REBUILD_DONE (R352). -/
def execPlaneCopyRebuildDone (s : State) : Host.Outcome State Fault Refusal :=
  let s := begin s
  .next (if s.sys.mode = .md3 && !s.red.copyOk then redEval s (planeCopyWrite s) else s)

/-- HBK_REQUEST: SYNCED has held for HBK_HOLD (R356). -/
def execHbkRequest (s : State) : Host.Outcome State Fault Refusal :=
  let s := begin s
  .next (if synced s && rpar s 0x0E09 = 1 then redSet s (fun r => { r with hbkReq := true }) else s)

/-! ### One boundary of redundancy -/

/-- The heartbeat instants and the lease at a boundary (R343, R347). -/
def redBoundary (s : State) : State :=
  let s := if s.sys.bound % 100000 = 0 then
      let s := if leaseMay s then leaseRenew s else s
      heartbeatSend s
    else s
  if tokenHeld s && s.red.lease && decide (s.red.leaseAt + locNs (rpar s 0x0E03) ≤ s.tim.loc) then leaseLapse s else s

/-- Reset of RED (R40, R345): OFF, the partner's heartbeat forgotten; the epoch stays. -/
def redReset (s : State) : State :=
  let s := if s.red.state = .off then s else redGo s .off
  redSet (leaseDrop s) (fun r =>
    { r with pstate := 7, hb := none, hbHere := false, epochP := 0, hbSeq := 0, tknFault := false, tok := false, takeDue := false
             relCause := 0, hbkReq := false, inhibit := false, stream := none, rx := [], rxSeq := 0, nak := 0, cmd := none, cmdRes := 0
             slotRep := none, gone := s.tim.loc, takeOpen := false, restored := false, met := 0 })

end Sys2Proof.Machine
end

