-- ==== Sys2Proof/Machine/Images.lean ====
section
/-!
DEFINITION. Charge images as byte strings (chapter The charge image): how they are read (R67 to R83), and the checks of R85 except the
content rules of the sections' owning chapters.
-/
namespace Sys2Proof.Machine

/-! ### Reading an image -/

/-- SEC_COUNT. -/
def imgCount (bs : List Byte) : Nat := leAt bs 0x0E 2
/-- LENGTH. -/
def imgLength (bs : List Byte) : Nat := leAt bs 0x08 4
/-- SIG_OFFSET. -/
def imgSig (bs : List Byte) : Nat := leAt bs 0x74 4

/-- One entry of the section table (R70). -/
def sectAt (bs : List Byte) (i : Nat) : SectRec :=
  let o := 0x80 + 32 * i
  ⟨leAt bs o 2, leAt bs (o + 4) 4, leAt bs (o + 8) 4, leAt bs (o + 0xC) 4, leAt bs (o + 0x10) 2, leAt bs (o + 0x14) 4⟩

/-- The section table. -/
def imgSects (bs : List Byte) : List SectRec := (List.range (imgCount bs)).map (sectAt bs)

/-- Records of a section as byte strings of its record size. -/
def sectRecords (bs : List Byte) (size : Nat) (t : SectRec) : List (List Byte) :=
  (List.range t.count).map (fun k => sliceBytes bs (t.offset + size * k) size)

/-- Records of the sections of one type. -/
def typeRecords (bs : List Byte) (ty size : Nat) : List (List Byte) :=
  ((imgSects bs).filter (fun t => t.type = ty)).flatMap (sectRecords bs size)

/-- The section types whose records are parameters (R71). -/
def paramSect (ty : Nat) : Bool := ty = 1 || (decide (6 ≤ ty) && decide (ty ≤ 0x0F))

/-- A parameter record (R73). -/
def readParam (b : List Byte) : ParamRec :=
  ⟨leAt b 0 2, leAt b 2 1, toSigned 8 (leAt b 3 1), leAt b 4 2, leAt b 6 2, BitVec.ofNat 64 (leAt b 8 8)⟩

/-- A node record (R77, R78). -/
def readNode (b : List Byte) : NodeRec :=
  { id := leAt b 0 2, type := leAt b 2 1, sub := leAt b 3 1, rg := leAt b 4 1, phase := leAt b 5 1, order := leAt b 6 2, sym := leAt b 8 2
    inFirst := leAt b 0xA 2, inCount := leAt b 0xC 1, outCount := leAt b 0xD 1, cycles := leAt b 0xE 2, initNode := leAt b 0x10 2
    initOut := leAt b 0x12 1, flags := leAt b 0x13 1, outExp := toSigned 8 (leAt b 0x14 1), spec := sliceBytes b 0x20 64 }

/-- A route entry (R79). -/
def readRoute (b : List Byte) : RouteRec := ⟨leAt b 0 2, leAt b 2 1, leAt b 3 1 % 2 = 1, leAt b 4 2, leAt b 6 1⟩

/-- The bytes of STRINGS. -/
def imgStrings (bs : List Byte) : List Byte :=
  match (imgSects bs).find? (fun t => t.type = 5) with
  | some t => sliceBytes bs t.offset t.length
  | none => []

/-- A symbol entry (R81). -/
def readSym (strs b : List Byte) : SymRec :=
  ⟨leAt b 0 1, leAt b 2 2, leAt b 4 4, sliceBytes strs (leAt b 8 4) (leAt b 0xC 1)⟩

/-- An image as its plane holds it. -/
def readImage (slot : Nat) (bs : List Byte) : Image :=
  let strs := imgStrings bs
  let sects := imgSects bs
  { slot := slot, swap := (leAt bs 0x2C 4).testBit 0, build := leAt bs 0x28 4, arc := leAt bs 0x17 1
    hash := BitVec.ofNat 384 (leAt bs 0x40 48)
    cv := match sects.find? (fun t => t.type = 6) with | some t => t.crc | none => 0
    sects := sects
    params := (sects.filter (fun t => paramSect t.type)).flatMap (fun t => (sectRecords bs 16 t).map readParam)
    nodes := (typeRecords bs 2 96).map readNode, routes := (typeRecords bs 3 8).map readRoute
    syms := (typeRecords bs 4 32).map (readSym strs) }

/-! ### Steps 1 to 7 of R85 -/

/-- Serial number of this device (R430). -/
def ownSerial : List Byte := sliceBytes identity 8 16

/-- Step 1: the header, for the magic word of an image or of a microcode bundle. -/
def hdrOk (magic : List Byte) (bs : List Byte) (len : Nat) : Bool :=
  bs.length = len && bs.take 4 = magic && leAt bs 4 2 = 1 && leAt bs 6 2 = 0 && leAt bs 0xC 2 = 128 && leAt bs 0x78 4 = crc32c (bs.take 0x78)
    && leAt bs 0x70 4 = 0x80 && imgLength bs % 64 = 0 && decide (imgLength bs ≤ 8388608) && imgLength bs = len
    && decide (0x80 + 2112 ≤ imgLength bs) && imgSig bs = imgLength bs - 2112 && decide (leAt bs 0x2C 4 < 2) && leAt bs 0x7C 4 = 0

/-- Step 2: the target. -/
def targetOk (bs : List Byte) (slot : Nat) (arcOk : Nat → Bool) : Bool :=
  let bind := sliceBytes bs 0x18 16
  leAt bs 0x10 4 = ownPart && decide (leAt bs 0x14 1 ≤ ownStep) && decide (ownStep ≤ leAt bs 0x15 1)
    && (allZero bind || bind = ownSerial) && (leAt bs 0x16 1 = 0xFF || leAt bs 0x16 1 = slot) && arcOk (leAt bs 0x17 1)

/-- Step 3: the build counter against the anti-rollback counter the image names (R90, R424). -/
def buildOk (s : State) (bs : List Byte) : Bool :=
  let b := leAt bs 0x28 4
  decide (1 ≤ b) && decide (tabGet 0 s.peat.arc (leAt bs 0x17 1) ≤ b)

/-- Record size of a section type (R71). -/
def recSize (ty : Nat) : Nat :=
  match ty with
  | 2 => 96
  | 3 => 8
  | 4 => 32
  | 5 => 1
  | _ => 16

/-- Largest number of records of a section type (R71). -/
def recMax (ty : Nat) : Nat :=
  match ty with
  | 2 => 8192
  | 3 => 16384
  | 4 => 16384
  | _ => 8388608

/-- One section by itself. -/
def sectOk (bs : List Byte) (i : Nat) : Bool :=
  let t := sectAt bs i
  let o := 0x80 + 32 * i
  decide (1 ≤ t.type) && decide (t.type ≤ 0x0F) && leAt bs (o + 2) 2 = 0 && leAt bs (o + 0x12) 2 = 0 && leAt bs (o + 0x18) 8 = 0
    && t.offset % 64 = 0 && decide (t.offset + t.length ≤ imgSig bs) && t.size = recSize t.type && t.length = t.count * t.size
    && decide (t.count ≤ recMax t.type) && t.crc = crc32c (sliceBytes bs t.offset t.length)

/-- Sections in ascending order without overlap, with zero bytes between one part's end and the next part's start. -/
def sectGaps (bs : List Byte) : Nat → List SectRec → Bool
  | e, [] => decide (e ≤ imgSig bs) && allZero (sliceBytes bs e (imgSig bs - e))
  | e, t :: ts => decide (e ≤ t.offset) && allZero (sliceBytes bs e (t.offset - e)) && sectGaps bs (t.offset + t.length) ts

/-- All entries of a list differ. -/
def allDiffer : List Nat → Bool
  | [] => true
  | a :: l => !l.contains a && allDiffer l

/-- Step 4: the section table. -/
def tableOk (bs : List Byte) : Bool :=
  let n := imgCount bs
  let ts := imgSects bs
  let has := fun ty => ts.any (fun t => t.type = ty)
  decide (6 ≤ n) && decide (n ≤ 15) && (List.range n).all (sectOk bs) && allDiffer (ts.map (·.type)) && sectGaps bs (0x80 + 32 * n) ts
    && [1, 2, 3, 4, 5, 6].all has && has 8 = has 9

/-- Step 5: BODY_HASH. -/
def hashOk (bs : List Byte) : Bool := sha384 (sliceBytes bs 0x80 (imgSig bs - 0x80)) = sliceBytes bs 0x40 48

/-- First 16 bytes of the SHA-384 of a P-384 public key (R83). -/
def ecdsaId (pub : List Byte) : List Byte := (sha384 pub).take 16
/-- The identifier I of an LMS public key (R83, R425). -/
def lmsId (pub : List Byte) : List Byte := sliceBytes pub 8 16

/-- The fields of a signature block (R83) over n signed bytes. -/
def sigFields (sb : List Byte) (n : Nat) : Bool :=
  sb.take 4 = ascii "NLSG" && leAt sb 4 2 = 1 && leAt sb 6 2 = 0 && leAt sb 8 4 = n && leAt sb 0xC 4 = 0 && allZero (sliceBytes sb 0x81C 36)

/-- The ECDSA signature of a block verifies under a key entry. -/
def ecdsaUnder (signed sb : List Byte) (k : KeyEntry) : Bool :=
  sliceBytes sb 0x10 16 = ecdsaId k.ecdsa && Config.ecdsaOk k.ecdsa (sha384 signed) (sliceBytes sb 0x20 48) (sliceBytes sb 0x50 48)

/-- The LMS signature of a block verifies under a key entry. -/
def lmsUnder (signed sb : List Byte) (k : KeyEntry) : Bool :=
  sliceBytes sb 0x80 16 = lmsId k.lms && Config.lmsOk k.lms (sha384 signed) (sliceBytes sb 0x90 1932)

/-- The signature block of a string whose signed bytes end at n. -/
def sigBlock (bs : List Byte) (n : Nat) : List Byte := sliceBytes bs n 2112

/-! ### Nodes, routes and symbols (R77 to R82, R108, R118, R125) -/

/-- Inputs and outputs a node may have, and its cost (R108); none for a type or subtype that does not exist. -/
def nodeShape (r : NodeRec) : Option (Bool × Nat × Nat) :=
  let i := r.inCount
  match r.type, r.sub with
  | 1, 0 => some (i = (if nodeTracked r then 3 else 2), 1, 10 + i)
  | 1, 1 => some (i = (if nodeTracked r then 3 else 2), 1, 13 + i)
  | 2, 0 => some (decide (2 ≤ i) && decide (i ≤ 8) && nodeU r 0x20 1 = i, 2, 3 + 2 * i)
  | 3, 0 | 3, 1 | 3, 2 => some (decide (1 ≤ i) && decide (i ≤ 3), 1, 5 + i)
  | 4, 0 => some (decide (1 ≤ i) && decide (i ≤ 8), 1, 3 + i)
  | 4, 1 => some (i = 2, 1, 6)
  | 4, 2 => some (i = 3, 1, 7)
  | 4, 3 | 4, 4 => some (decide (2 ≤ i) && decide (i ≤ 8), 1, 3 + i)
  | 4, 5 => some (i = 1, 1, 4)
  | 4, 6 => some (i = 1, 1, 22)
  | 5, 0 => some (i = 3, 2, 8)
  | 5, 1 => some (i = 2, 3, 8)
  | 5, 2 | 5, 3 => some (i = 3, 2, 11)
  | 5, 4 => some (i = 3, 4, 34)
  | 6, n => if n ≤ 6 then some (i = 0, 1, 3) else none
  | 7, n => if n ≤ 6 then some (i = 1, 1, 3) else none
  | _, _ => none

/-- Reserved bytes of a node record by type (R78), as offset and length. -/
def nodeReserved (ty : Nat) : List (Nat × Nat) :=
  match ty with
  | 1 => [(0x3E, 2), (0x58, 8)]
  | 2 => [(0x21, 3), (0x44, 28)]
  | 3 => [(0x34, 44)]
  | 4 => [(0x45, 27)]
  | 5 => [(0x22, 2), (0x28, 56)]
  | _ => [(0x28, 56)]

/-- The fields of one node by itself (R78, R120, R122, R123, R125). TRACKED is a flag of a COMP: on any other node it is refused as a reserved
bit is (DESIGN CHOICE: R77 defines it by the tracking feedback that only a COMP has). -/
def nodeFields (r : NodeRec) : Bool :=
  let w := nodeI32 r
  let bits := fun (n : Nat) => decide (r.flags < 2 ^ n)
  match r.type with
  | 1 =>
    let mx := w 0x44
    let mn := w 0x48
    bits 3 && decide (mn ≤ mx) && decide (0 < w 0x50) && decide (0 ≤ w 0x54) && decide (mn ≤ w 0x4C) && decide (w 0x4C ≤ mx)
      && nodeU r 0x40 2 ≠ 0 && (nodeU r 0x42 2 = 0 || nodeMoves r) && decide (nodeU r 0x3D 1 ≤ 2)
      && (r.sub = 1 || (w 0x2C = 0 && w 0x38 = 0))
  | 2 => bits 2 && (List.range 8).all (fun k => decide (0 ≤ w (0x24 + 4 * k)) && (decide (k < r.inCount) || w (0x24 + 4 * k) = 0))
  | 3 =>
    bits 2 && decide (w 0x24 ≤ w 0x20) && (r.sub ≠ 1 || (decide (0 < w 0x28) && decide (0 < w 0x2C))) && (r.sub ≠ 2 || decide (0 < w 0x30))
  | 4 =>
    let plain := r.sub = 3 || r.sub = 4
    bits 2 && (List.range 8).all (fun k => (decide (k < r.inCount) && !plain) || w (0x20 + 4 * k) = 0) && (!plain || w 0x40 = 0)
  | 5 =>
    let a := nodeU r 0x20 1
    let rot := nodeI8 r 0x21
    bits 2 && (match r.sub with
      | 0 | 1 => a = 0 && rot = 0 && w 0x24 = 0
      | 4 => a = 2 && rot = 1
      | _ => a = 2 && (rot = 1 || rot = -1))
  | 6 => bits 2 && (r.sub = 4 || w 0x24 = 0)
  | _ => bits 2 && w 0x24 = 0

/-- One node record with its raw bytes. -/
def nodeOk (img : Image) (raw : List Byte) (r : NodeRec) : Bool :=
  let init := nodeRec img r.initNode
  (match nodeShape r with
    | some (ok, outs, cost) => ok && r.outCount = outs && decide (cost ≤ r.cycles)
    | none => false)
    && decide (r.id < 8192) && decide (r.rg ≤ 3) && (r.phase = 1 || r.phase = 3) && decide (-64 ≤ r.outExp) && decide (r.outExp ≤ 63)
    && (r.initNode = 0xFFFF || (match init with | some n => n.type = 6 | none => false)) && r.initOut = 0
    && allZero (sliceBytes raw 0x15 11) && (nodeReserved r.type).all (fun x => allZero (sliceBytes raw x.1 x.2)) && nodeFields r

/-- Tile of a node (R77). -/
def tileOf (id : Nat) : Nat := id / 64

/-- One route (R79, R80). -/
def routeOk (img : Image) (raw : List Byte) (t : RouteRec) : Bool :=
  decide (leAt raw 3 1 < 2) && leAt raw 7 1 = 0 &&
  match nodeRec img t.src, nodeRec img t.dst with
  | some a, some b =>
    decide (t.srcOut < a.outCount) && decide (t.dstIn < b.inCount)
      && (t.delay || (a.phase = 1 && b.phase = 3) || (tileOf a.id = tileOf b.id && a.phase = b.phase && decide (a.order < b.order)))
      && (!nodeSafety b || nodeSafety a || a.type = 6)
  | _, _ => false

/-- Routes sorted by TO and TO_IN. -/
def routesSorted : List RouteRec → Bool
  | a :: b :: l => (decide (a.dst < b.dst) || (a.dst = b.dst && decide (a.dstIn < b.dstIn))) && routesSorted (b :: l)
  | _ => true

/-- The routes of every node stand where it says (R79). -/
def routesPlaced (img : Image) : Bool :=
  img.nodes.all (fun r => (List.range r.inCount).all (fun k =>
    match img.routes[r.inFirst + k]? with
    | some t => t.dst = r.id && t.dstIn = k
    | none => false))
    && img.routes.length = (img.nodes.map (·.inCount)).foldl (· + ·) 0

/-- A tracked compensator (R118). -/
def trackedOk (img : Image) (r : NodeRec) : Bool :=
  if r.type = 1 && nodeTracked r then
    let outs := img.routes.filter (fun t => t.src = r.id && (match nodeRec img t.dst with | some d => d.type = 2 | none => false))
    let back := img.routes.find? (fun t => t.dst = r.id && t.dstIn = 2)
    match outs, back with
    | [o], some k => o.srcOut = 0 && !o.delay && k.src = o.dst && k.srcOut = 0 && k.delay
    | _, _ => false
  else true

/-- A byte of a name (R82). -/
def nameByte (b : Byte) : Bool :=
  let c := b.toNat
  (decide (65 ≤ c) && decide (c ≤ 90)) || (decide (97 ≤ c) && decide (c ≤ 122)) || (decide (48 ≤ c) && decide (c ≤ 57))
    || c = 95 || c = 46 || c = 47

/-- The parameter records of one section, in order. -/
def sectParams (img : Image) (ty : Nat) : List ParamRec := img.params.filter (fun p => p.pid / 256 = ty)

/-- The SYM field of what a symbol names; none where there is no such target. -/
def symTarget (img : Image) (y : SymRec) : Option Nat :=
  if y.kind = 0 then (nodeRec img y.target).map (·.sym) else ((sectParams img y.sect)[y.target]?).map (·.sym)

/-- One symbol (R81, R82). -/
def symOk (img : Image) (strs raw : List Byte) (k : Nat) (y : SymRec) : Bool :=
  let off := leAt raw 8 4
  let n := leAt raw 0xC 1
  (if y.kind = 0 then y.sect = 2 else y.kind = 1 && paramSect y.sect && y.sect ≠ 6)
    && leAt raw 1 1 = 0 && leAt raw 0xD 3 = 0 && allZero (sliceBytes raw 0x14 12) && decide (1 ≤ n) && decide (n ≤ 63)
    && decide (off + n ≤ strs.length) && y.name.all nameByte && leAt raw 0x10 4 = crc32c y.name && symTarget img y = some k

/-- No byte of STRINGS lies outside every name, and names are unique (R82). -/
def namesOk (strs : List Byte) (raws : List (List Byte)) (syms : List SymRec) : Bool :=
  (List.range strs.length).all (fun i => raws.any (fun b => decide (leAt b 8 4 ≤ i) && decide (i < leAt b 8 4 + leAt b 0xC 1)))
    && decide ((syms.map (·.name)).eraseDups.length = syms.length)

/-- A SYM field names a symbol that names its record. -/
def symBack (img : Image) (sym : Nat) (hit : SymRec → Bool) : Bool :=
  sym = 0xFFFF || (match img.syms[sym]? with | some y => hit y | none => false)

/-- Nodes, routes, symbols and names of an image (step 8). -/
def structOk (bs : List Byte) (img : Image) : Bool :=
  let strs := imgStrings bs
  let rs := typeRecords bs 4 32
  ((typeRecords bs 2 96).zip img.nodes).all (fun x => nodeOk img x.1 x.2)
    && ((typeRecords bs 3 8).zip img.routes).all (fun x => routeOk img x.1 x.2)
    && allDiffer (img.nodes.map (·.id)) && allDiffer (img.nodes.map (fun r => (tileOf r.id * 4 + r.phase) * 65536 + r.order))
    && routesSorted img.routes && routesPlaced img && img.nodes.all (trackedOk img)
    && (rs.zip img.syms).zipIdx.all (fun x => symOk img strs x.1.1 x.2 x.1.2) && namesOk strs rs img.syms
    && img.nodes.all (fun r => symBack img r.sym (fun y => y.kind = 0 && y.target = r.id))
    && img.params.all (fun p => symBack img p.sym (fun y => y.kind = 1 && y.sect = p.pid / 256 && (sectParams img y.sect)[y.target]? = some p))

/-- The required parameters are present (R75). -/
def requiredOk (img : Image) : Bool :=
  ([1, 6, 7, 8, 9, 10, 11, 12, 13, 14, 15].flatMap paramRows).all (fun r => !r.req || !hasSect img (r.pid / 256)
    || (if r.insts = 0 then (paramRec img r.pid 0xFFFF).isSome else (List.range r.insts).all (fun i => needed img r.pid i)))
where
  /-- A required instance is present; where a parameter has one instance per arm or chain, that of every enabled one. -/
  needed (img : Image) (pid i : Nat) : Bool :=
    (paramRec img pid i).isSome || (decide (pid / 256 = 8) && pid ≠ 0x0801 && !armOn img i)
      || (decide (pid / 256 = 0x0B) && !(pNat img 0x0B01).testBit i) || (decide (pid / 256 = 0x0A) && !(pNat img 0x0A01).testBit i)

/-- Parameter records (R75): each in range and of its section, each instance once, and the required ones present. -/
def paramsOk (bs : List Byte) (img : Image) : Bool :=
  (imgSects bs).all (fun t => !paramSect t.type || (sectRecords bs 16 t).all (fun b => (readParam b).pid / 256 = t.type))
    && img.params.all paramInRange && allDiffer (img.params.map (fun p => p.pid * 65536 + p.index)) && requiredOk img

/-! ### Steps 9 and 10 of R85 -/

/-- Cycles of CK_FAB in one tick (R25). -/
def tickCycles (code : Nat) : Nat := tickNsOf code * 16 / 25

/-- Sum of CYCLES of a tile's nodes in a phase (R86). -/
def tileSum (img : Image) (phase tile : Nat) : Nat :=
  ((img.nodes.filter (fun r => r.phase = phase && tileOf r.id = tile)).map (·.cycles)).foldl (· + ·) 0

/-- The cost PH_DECL has to cover, by phase index (R86, R131, R186, R232, R263). -/
def phaseCost (img : Image) (p : Nat) : Nat :=
  let arms := armsOn img
  let top := fun (f : Nat → Nat) => (arms.map f).foldl max 0
  let tiles := fun (ph : Nat) => ((List.range 128).map (tileSum img ph)).foldl max 0
  let nch := top (fun a => if armFb img a then 2 * armSms img a else armSms img a)
  match p with
  | 0 => tiles 1
  | 1 => 448
  | 2 => tiles 3
  | 3 => 192 + 2 * top (armSms img) + (if arms.any (armFb img) then 64 else 0)
  | _ => 64 + 96 + 2 * ((nch + 7) / 8)

/-- Step 9: the phase table (R29, R86). -/
def timingOk (img : Image) : Bool :=
  let st := fun p => pNatAt img 0x0109 p
  let ln := fun p => pNatAt img 0x010A p
  let dc := fun p => pNatAt img 0x010B p
  (List.range 5).all (fun p => decide (dc p ≤ ln p) && decide (phaseCost img p ≤ dc p))
    && (List.range 4).all (fun p => decide (st p + ln p ≤ st (p + 1)))
    && decide (st 4 + ln 4 + 64 ≤ tickCycles (pNat img 0x0106))

/-- Step 10: the layered budgets (R87). -/
def layeredOk (img : Image) : Bool :=
  let p := pNat img
  (!hasSect img 9 || (decide (2 * (p 0x090C * p 0x090D) ≤ p 0x0116 * 1000000) && decide (2 * (5 * p 0x0905) ≤ p 0x0906)))
    && (!hasSect img 0x0E || decide (2 * (p 0x0E06 * p 0x0E07) ≤ p 0x0E03))
    && (!hasSect img 0x0A || (List.range 6).all (fun g =>
        decide (2 * (pNatAt img 0x0A0D g * pNatAt img 0x0A0C g) ≤ pNatAt img 0x0A0E g)))

end Sys2Proof.Machine
end

