-- ==== Sys2Proof/Machine/ImageRules.lean ====
section
/-!
DEFINITION. The content rules that the owning chapters add to step 8 of the image check (R124, R132, R163, R170, R189, R196, R233, R236,
R244, R265, R283, R293, R315, R336, R360, R378, R447, R449, R473). A PARAM action applies the rules of its own section (R58, R95).
-/
namespace Sys2Proof.Machine

/-! ### Values as the rules compare them -/

/-- A BFP parameter, exact as a multiple of 2^−128 (records); a decimal default is rounded there. -/
def xbfp (img : Image) (pid idx : Nat) : Int := pBfpAt 128 img pid idx

/-- A BFP parameter without instances. -/
def xb (img : Image) (pid : Nat) : Int := xbfp img pid 0xFFFF

/-- One unit in the last place of a BFP term of a sum (R75). A term that has no record has no EXP of its own: it is judged at the EXP of
the limit `lim`, so that a default and a limit whose decimals agree are not refused by rounding alone (DEDUCED). -/
def ulp (img : Image) (lim pid : Nat) : Int :=
  match (paramRec img pid 0xFFFF).or (paramRec img lim 0xFFFF) with
  | some p => alignBy 1 (p.exp - 31 + 128)
  | none => 1

/-- A sum of two parameters exceeds a third by more than one unit in the last place of each term (R75). -/
def sumOver (img : Image) (a b c : Nat) : Bool := decide (xb img c + ulp img c a + ulp img c b < xb img a + xb img b)

/-- A parameter of an instance as a number. -/
def pn (img : Image) (pid idx : Nat) : Nat := pNatAt img pid idx

/-! ### Endpoints -/

/-- Nodes of a type and subtype. -/
def nodesOf (img : Image) (ty sub : Nat) : List NodeRec := img.nodes.filter (fun r => r.type = ty && r.sub = sub)

/-- A node of the type and subtype stands at the endpoint. -/
def hasEnd (img : Image) (ty sub ep idx : Nat) : Bool := (nodesOf img ty sub).any (fun r => nodeEnd r = (ep, idx))

/-- A direct-drive channel that takes its edges from the fabric (R244). -/
def fabricCh (img : Image) (n : Nat) : Bool := (pNat img 0x0A01).testBit n && decide (pn img 0x0A02 n = 0)

/-- A measurement chain that is enabled. -/
def chainUsed (img : Image) (i : Nat) : Bool := (pNat img 0x0B01).testBit i

/-- The rate group's period is a multiple of the chain's period (R283); both in half ns. -/
def chainAligned (img : Image) (r : NodeRec) (i : Nat) : Bool :=
  decide (2 * tickNsOf (pNat img 0x0106) * pn img 0x0108 r.rg % (625 * 2 ^ pn img 0x0B04 i) = 0)

/-- An SRC connects to an endpoint that the owning chapter lists. -/
def srcOk (img : Image) (r : NodeRec) : Bool :=
  let ep := (nodeEnd r).1
  let idx := (nodeEnd r).2
  match r.sub with
  | 0 => ep = 0 && decide (idx < 32) && chainUsed img idx && chainAligned img r idx
  | 1 => decide (ep ≤ 2) && decide (idx ≤ 5)
  | 2 => decide (ep ≤ 17) && idx = 0
  | 3 => if ep ≤ 5 then decide (idx ≤ 5) else decide (ep ≤ 7) && idx = 0
  | 4 => true
  | 5 => (match img.syms[ep]? with
      | some y => y.kind = 1 && (match (sectParams img y.sect)[y.target]? with | some p => p.kind = 0 | none => false)
      | none => false)
  | _ => (ep = 0 && decide (idx < 16) && (pNat img 0x0F01).testBit idx) || (ep = 1 && idx = 0)

/-- A SINK connects to an endpoint that the owning chapter lists, in a phase it allows. -/
def sinkOk (img : Image) (r : NodeRec) : Bool :=
  let ep := (nodeEnd r).1
  let idx := (nodeEnd r).2
  match r.sub with
  | 0 => ep = 0 && decide (idx ≤ 5) && r.phase = 3
  | 1 => decide (ep ≤ 2) && decide (idx < 24) && r.phase = 3 && fabricCh img idx
  | 2 => decide (ep ≤ 15) && idx = 0 && r.phase = 1
  | 3 => ep = 0 && decide (idx < 32)
  | 4 => ep = 0 && decide (idx < 16) && (pNat img 0x0F05).testBit idx && decide (pn img 0x0F06 idx = 1)
  | 5 => ep = 0 && decide (idx < 256)
  | _ => if ep = 0 then decide (idx ≤ 5) else decide (ep ≤ 2) && idx = 0

/-- The endpoints that have to be present (R132, R170, R244). -/
def endsPresent (img : Image) : Bool :=
  (!hasSect img 7 || [0, 1, 2, 3, 4, 5, 8, 9, 10, 11].all (fun e => hasEnd img 7 2 e 0))
    && (armsOn img).all (fun a => hasEnd img 7 0 0 a && hasEnd img 7 6 0 a)
    && (List.range 24).all (fun n => !fabricCh img n || (hasEnd img 7 1 0 n && hasEnd img 7 1 1 n))

/-- Every SRC and SINK, with each endpoint of a SINK used at most once. -/
def endpointsOk (img : Image) : Bool :=
  img.nodes.all (fun r => if r.type = 6 then srcOk img r else if r.type = 7 then sinkOk img r else true)
    && allDiffer ((img.nodes.filter (fun r => r.type = 7)).map (fun r => sigKey r.sub (nodeEnd r).1 (nodeEnd r).2))
    && endsPresent img

/-! ### Sections -/

/-- SYSTEM (R76, R189): the phase parameters within one tick, and the voltages of the precharge sequence. -/
def systemRule (img : Image) : Bool :=
  let tick := tickCycles (pNat img 0x0106)
  [0x0109, 0x010A, 0x010B].all (fun pid => (List.range 5).all (fun p => decide (pn img pid p ≤ tick)))
    && decide (xb img 0x011B ≤ xb img 0x011C)

/-- SWING (R163). -/
def swingRule (img : Image) : Bool :=
  let p := xb img
  !(decide (p 0x071C ≤ p 0x071B) || decide (p 0x071D ≤ p 0x071E) || decide (p 0x071F ≤ p 0x0720) || decide (p 0x0738 ≤ p 0x0739)
    || sumOver img 0x070D 0x070E 0x0711 || sumOver img 0x070F 0x0710 0x0711 || sumOver img 0x0725 0x070E 0x0711
    || decide (p 0x0722 < p 0x0721) || (p 0x0731 ≠ 0 && decide (p 0x0722 ≤ p 0x0731)) || !(pNat img 0x0F05).testBit (pNat img 0x072F))

/-- ARMS (R196). -/
def armsRule (img : Image) : Bool :=
  let one : Int := 2 ^ 128
  !(decide (armsOn img = []) || (armsOn img).any (fun a => decide (pn img 0x0802 a < pNat img 0x0105) || decide (pn img 0x0802 a < pn img 0x0805 a))
    || decide (one ≤ xb img 0x080A) || decide (xb img 0x0809 ≤ one) || decide (xb img 0x080B ≤ xb img 0x0809)
    || decide (pNat img 0x080E ≤ pNat img 0x080D * tickNsOf (pNat img 0x0106)) || decide (pNat img 0x0817 < tickNsOf (pNat img 0x0106)))

/-- Valve ports that the enabled arms use. -/
def portsUsed (img : Image) : List Nat := armsOn img

/-- CORD (R236). -/
def cordRule (img : Image) : Bool :=
  decide (pNat img 0x0907 < pNat img 0x0908)
    && (portsUsed img).all (fun p => decide (pn img 0x0902 p ≤ ((List.range 8).filter (fun k => (pn img 0x0901 p).testBit k)).length))

/-- One gate group (R265). -/
def groupRule (img : Image) (g : Nat) : Bool :=
  let q := fun pid => pn img pid g
  let on := fun k => (pNat img 0x0A01).testBit (4 * g + k)
  decide (2 * q 0x0A06 ≤ q 0x0A07) && (List.range 4).all (fun k => !on k || decide (2 * q 0x0A07 ≤ 16 * pn img 0x0A03 (4 * g + k)))
    && decide (q 0x0A07 * 25 ≤ q 0x0A11 * 512) && (q 0x0A0F = 1 || decide (q 0x0A12 ≤ 100000000))
    && (!(q 0x0A13).testBit 0 || (on 0 && on 1)) && (!(q 0x0A13).testBit 1 || (on 2 && on 3))

/-- DIRECT (R265). -/
def directRule (img : Image) : Bool :=
  (List.range 6).all (groupRule img)
    && (List.range 24).all (fun n => (paramRec img 0x0A03 n).isNone || decide (pn img 0x0A04 n < pn img 0x0A03 n))

/-- Taps of one spectral-shaping bank of a chain. -/
def bankRecs (img : Image) (i b : Nat) : List ParamRec :=
  img.params.filter (fun p => p.pid = 0x0B0D && p.index / 64 = i * 2 + b)

/-- One measurement chain (R293). -/
def chainRule (img : Image) (i : Nat) : Bool :=
  let q := fun pid => pIntAt img pid i
  (List.range 5).all (fun k => pn img 0x0B05 i / 4 ^ k % 4 ≠ 3) && decide (q 0x0B0F ≤ q 0x0B0E) && decide (2 * q 0x0B10 ≤ q 0x0B0E - q 0x0B0F)
    && (pn img 0x0B0B i = 0 || [0, 1].all (fun b =>
      let l := bankRecs img i b
      l.any (fun p => bfpMant p ≠ 0) && decide ((l.map (·.exp)).eraseDups.length ≤ 1)))

/-- MEAS (R293). -/
def measRule (img : Image) : Bool :=
  let ch := pNat img 0x0B12
  (List.range 32).all (chainRule img)
    && (pNat img 0x0B11 = 0 || ((pNat img 0x0A01).testBit ch && pn img 0x0A03 ch % 400 = 0 && decide (pNat img 0x0B13 < pn img 0x0A03 ch)))

/-- One trigger unit (R315). -/
def unitRule (img : Image) (u : Nat) : Bool :=
  let ty := pn img 0x0C10 u
  let ch := pn img 0x0C11 u
  let a := xbfp img 0x0C13 u
  let b := xbfp img 0x0C14 u
  let t1 := pn img 0x0C16 u
  let short := decide (2 * t1 < 625 * 2 ^ pNat img 0x0C05)
  ty = 0 || ((if ch < 32 then (pNat img 0x0C04).testBit ch else hasEnd img 7 3 0 (ch - 32))
    && !(ty = 1 && decide (32 ≤ ch)) && !(ty = 4 && decide (b ≤ a)) && !(ty = 3 && decide (pn img 0x0C17 u < t1))
    && !((ty = 5 || ty = 6) && short) && !(ty = 6 && decide (b ≤ 0)))

/-- REC (R315). -/
def recRule (img : Image) : Bool :=
  decide (pNat img 0x0C03 ≤ pNat img 0x0C02 * 1024) && decide (pNat img 0x0C06 < setCount img)
    && (List.range 32).all (fun i => !(pNat img 0x0C04).testBit i || chainUsed img i) && (List.range 16).all (unitRule img)

/-- TIME (R336). -/
def timeRule (img : Image) : Bool :=
  let on := fun d => decide (pn img 0x0D06 d = 1)
  !(on 0 && on 1 && pn img 0x0D07 0 = pn img 0x0D07 1)
    && [0, 1].all (fun d => !on d || [0, 1].all (fun p => !(pn img 0x0D08 d).testBit p || pn img 0x0D0E p ≠ 0))
    && (List.range 4).all (fun b => (pn img 0x0D02 b ≠ 1 || on 0 || on 1) && decide (10 * pNat img 0x0D0A ≤ pn img 0x0D04 b))

/-- REDUND (R360). -/
def redundRule (img : Image) : Bool :=
  decide (pNat img 0x0E04 < pNat img 0x0E03)
    && (pNat img 0x0E01 = 0 || decide (pNat img 0x0E03 + pNat img 0x0E04 + 1000000 ≤ pNat img 0x0E05))

/-- SAFETY (R378). -/
def safetyRule (img : Image) : Bool := pNat img 0x0605 &&& (0xFFFF - pNat img 0x0F05 % 65536) = 0

/-- The outputs of the N9 (R449): BRK_OUT, PRE_CHG_OUT and PRE_BYP_OUT where they name one. -/
def ownOutputs (img : Image) : List Nat :=
  (if hasSect img 7 then [pNat img 0x072F] else []) ++ [pNat img 0x0118, pNat img 0x0119].filter (fun o => decide (o < 16))

/-- FIELD (R449), and what R189 asks of PRE_CHG_OUT, PRE_BYP_OUT and PRE_BYP_IN whether or not the image carries FIELD. -/
def fieldRule (img : Image) : Bool :=
  let own := ownOutputs img
  (List.range 16).all (fun i => !(pn img 0x0F04 i = 1 && pn img 0x0F02 i = 0))
    && (List.range 16).all (fun o => decide (pn img 0x0F06 o = 2) = own.contains o) && allDiffer own
    && (decide (16 ≤ pNat img 0x011A) || (pNat img 0x0F01).testBit (pNat img 0x011A))

/-- The rules of one section. -/
def sectRule (img : Image) (ty : Nat) : Bool :=
  match ty with
  | 1 => systemRule img
  | 6 => safetyRule img
  | 7 => swingRule img
  | 8 => armsRule img
  | 9 => cordRule img
  | 10 => directRule img
  | 11 => measRule img
  | 12 => recRule img
  | 13 => timeRule img
  | 14 => redundRule img
  | _ => true

/-- The content rules over the values of an image, across its sections (R75, R132, R170, R189, R449 and the rules of every section). -/
def rulesKept (img : Image) : Bool := requiredOk img && endpointsOk img && fieldRule img && img.sects.all (fun t => sectRule img t.type)

/-- Step 8 of R85. -/
def contentOk (bs : List Byte) (img : Image) : Bool := paramsOk bs img && structOk bs img && rulesKept img

/-- A PARAM action leaves its parameter in range and the content rules of every section kept (R74, R163, R196). -/
def paramKept (img : Image) (p : ParamRec) : Bool := paramInRange p && rulesKept img

end Sys2Proof.Machine
end

