-- ==== Sys2Proof/Machine/Engines.lean ====
section
/-!
DEFINITION. What the fabric, the swing engine and the riddle engine read from the rest of the module, and what their events do to it
(R106, R124, R132, R165, R170, R198, R233, R283, R447).
-/
namespace Sys2Proof.Machine

/-! ### The fabric's inputs -/

/-- The parameter that a symbol names. -/
def symParam (img : Image) (k : Nat) : Option ParamRec :=
  match img.syms[k]? with
  | some y => if y.kind = 1 then (img.params.filter (fun p => p.pid / 256 = y.sect))[y.target]? else none
  | none => none

/-- The word of the BFP parameter that a symbol names (R124). -/
def paramWord (img : Image) (k : Nat) : SigW :=
  match symParam img k with
  | some p => if p.kind = 0 then ⟨bfpMant p, p.exp, true⟩ else SigW.none
  | none => SigW.none

/-- The words of a list of sources by key. -/
def putWords (t : Tab SigW) (l : List (Nat × SigW)) : Tab SigW := l.foldl (fun t x => tabSet SigW.none t x.1 x.2) t

/-- What the Latch phase takes up from the chains, the ports and the field inputs (R233, R283, R447). -/
def latchWords (s : State) : List (Nat × SigW) :=
  (List.range 32).map (fun i => (sigKey 0 0 i, if chainEn s i then chanWord s i else SigW.none))
    ++ (List.range 6).flatMap (fun p =>
      let x := portOf s p
      [(sigKey 1 0 p, ⟨x.state, 31, true⟩), (sigKey 1 1 p, ⟨b2n x.upset, 31, true⟩),
        (sigKey 1 2 p, ⟨roundDiv (portDp s p) 1000, 31, x.state = 4 || x.state = 5⟩)])
    ++ (List.range 16).map (fun i => (sigKey 6 0 i, ⟨b2n (s.fio.lvl.testBit i), 31, (fioValid s).testBit i⟩))
    ++ [(sigKey 6 1 0, ⟨s.fio.mv, 31, s.fio.link⟩)]

/-- The evaluation set of a mode (R109), coded as FAB_STAT.EVAL. -/
def evalSet (s : State) : Nat :=
  if s.sys.mode = .md1 then 1
  else if s.frst.inReset.testBit fnFAB || s.img.live.isNone then 0
  else match s.sys.mode with
  | .md0 | .md3 => 0
  | .md1 => 1
  | .md2 => 2
  | .md10 => 3
  | .md11 => 5
  | _ => 4

/-- No port under the token is deblocked (R116). -/
def tokenFree (s : State) : Bool := !valveDeb s && !(ddToken s && ddDeb s)

/-- RG_DIV of the four rate groups. -/
def rgDivs (img : Image) : List Nat := (List.range 4).map (fun g => max 1 (pNatAt img 0x0108 g))

/-- What the nodes of the present tick read. -/
def fabEnv (s : State) (start : Tab Cell) : FabEnv :=
  let img := imgOf s
  let e := evalSet s
  { img := img, src := s.fab.src, latch := s.fab.latch, start := start, idx := s.fab.idx, divs := rgDivs img, tickNs := tickNs s, fb := pNat img 0x0104
    eval := e, tainted := if e = 3 then taintedNodes img else [], free := tokenFree s, params := paramWord img }

/-! ### The engines' inputs -/

/-- The word a SINK delivered in the present tick. -/
def sinkWord (s : State) (sub ep idx : Nat) : SigW := tabGet SigW.none s.fab.sink (sigKey sub ep idx)

/-- The image has a SINK at an endpoint. -/
def hasSink (img : Image) (sub ep idx : Nat) : Bool :=
  img.nodes.any (fun r => r.type = 7 && r.sub = sub && nodeEnd r = (ep, idx))

/-- The image carries both endpoints of the grid-side voltage, without which MD_6 cannot be entered (R132). -/
def gridSinks (img : Image) : Bool := hasSink img 2 6 0 && hasSink img 2 7 0

/-- What phase S reads. -/
def swgEnv (s : State) : SwgEnv :=
  let img := imgOf s
  { q := Config.engineFrac, img := img, tickNs := tickNs s, bound := s.sys.bound, mode := s.sys.mode.code
    words := (List.range 16).map (fun e => if hasSink img 2 e 0 then some (sinkWord s 2 e 0) else none)
    acctW := s.rdl.acctW, acctN := s.rdl.acctN, acctOk := s.rdl.acctOk, switching := switching s }

/-- V_SCALE of a port's accepted record (R208). -/
def portScale (s : State) (p : Nat) : Nat := leAt (portOf s p).cap 0x08 4

/-- What phase D reads. -/
def rdlEnv (s : State) : RdlEnv :=
  let img := imgOf s
  { q := Config.engineFrac, img := img, tickNs := tickNs s, mode := s.sys.mode.code, switching := switching s, lease := s.red.lease
    arms := (List.range 6).map (fun a => ⟨portSet s a, portScale s a, !mustBlock s a, sinkWord s 0 0 a, sinkWord s 6 0 a⟩)
    vdc := sinkWord s 6 1 0, isol := sinkWord s 6 2 0
    svc := s.crd.svc.map (fun x => (x.1, x.2.1, x.2.2.1))
    bypIn := let i := pNat img 0x011A
             if decide (i < 16) && (fioValid s).testBit i then some (s.fio.lvl.testBit i) else none }

/-! ### Events -/

/-- Entry 60 of the scheduled-action table is written and armed for the breaker close at a time in ns (R156). -/
def saBreaker (s : State) (ns : Nat) : State :=
  let e : SaEntry :=
    { ns := at_ (ns % 1000000000) 0, secl := at_ (ns / 1000000000 % 2 ^ 32) 0, sech := at_ (ns / 1000000000 / 2 ^ 32 % 65536) 0
      ctl := at_ 1000 12 ||| at_ 7 4, arg := at_ (pNat (imgOf s) 0x072F) 0, val := at_ (pNat (imgOf s) 0x0730) 0
      armed := true, status := 1, res := 0, delay := 0 }
  { s with sa := setNth s.sa 60 e }

/-- Entry 60 is disarmed where it is still armed (R156, R65). -/
def saBreakerClear (s : State) : State :=
  let e := nth SaEntry.empty s.sa 60
  if e.armed then { s with sa := setNth s.sa 60 { e with armed := false, status := 0 } } else s

/-- What phase S asked for happens. The entry of a LOSS flag names the endpoint in byte 0 of its ARG (DESIGN CHOICE: R416 has instances there,
and neither it nor R161 lists the inputs as one). -/
def swgEffect (s : State) (x : SwgFx) : State :=
  match x with
  | .flag n => raise s fnSWG n 0 0
  | .loss ep => raise s fnSWG 0 ep 0
  | .breaker o d sl =>
    let q := Config.engineFrac
    logNow s fnSWG 0x80 (argAt 0 o + argAt 4 (fxReg q 31 d) + argAt 8 (fxReg q 24 sl))
  | .react => blockRelease s
  | .arm60 ns => saBreaker s ns
  | .clear60 => saBreakerClear s
  | .inrushLimit => addCause s ⟨.inrush, .md2, none, 0⟩
  | .island => regInc (raise s fnSWG 9 0 0) 0xB0048 31 16
  | .rideEntry => regInc s 0xB0048 15 0

/-- What phase D asked for happens (R177, R189, R198). -/
def rdlEffect (s : State) (x : RdlFx) : State :=
  match x with
  | .flag n a i => raise s fnRDL n a i
  | .react _ => blockRelease s
  | .count a sw ovr sat =>
    let w := 0xC0100 + 0x20 * a
    let s := regPut s (w + 0xC) 31 0 (satNat 32 (regF s (w + 0xC) 31 0 + sw))
    let s := regPut s (w + 0x10) 31 16 (satNat 16 (regF s (w + 0x10) 31 16 + ovr))
    regPut s (w + 0x10) 15 0 (satNat 16 (regF s (w + 0x10) 15 0 + sat))
  | .preState o n c => logNow s fnRDL 0x80 (argAt 0 o + argAt 1 n + argAt 2 c)
  | .outputs chg byp => preOutputs s chg byp

/-- What the last phase D asked for happens. -/
def rdlClose (s : State) : State := s.rdl.fx.foldl rdlEffect { s with rdl := { s.rdl with fx := [] } }

/-- A change of the riddle engine between ticks stands in both of the states that it may go on from (R30, R185). -/
def rdlBoth (f : Rdl → Rdl) (s : State) : State := { s with rdl := f s.rdl, rdlOld := f s.rdlOld }

/-- The same for a change that comes with events. -/
def rdlGo (f : Rdl → Rdl × List RdlFx) (s : State) : State :=
  (f s.rdl).2.foldl rdlEffect (rdlBoth (fun r => (f r).1) s)

/-- The same for the precharge sequence. -/
def preGoes (f : Pre → Pre × List RdlFx) (s : State) : State :=
  rdlGo (fun r => let x := f r.pre; ({ r with pre := x.1 }, x.2)) s

/-- The swing engine takes a new state with the events that come with it. -/
def swgApply (s : State) (x : Swg × List SwgFx) : State := x.2.foldl swgEffect { s with swg := x.1 }

end Sys2Proof.Machine
end

