-- ==== Sys2Proof/Machine/StkOps.lean ====
section
/-!
DEFINITION. The stoker's shared operations: rings, checks, ready lists, flows, the two slots of each worker, completion, and the two
kinds of stop (R388 to R405).
-/
namespace Sys2Proof.Machine

/-- The stoker with some of its fields changed. -/
def stkSet (s : State) (f : Stk → Stk) : State := { s with stk := f s.stk }

/-- Ring r as it stands. -/
def ringOf (s : State) (r : Nat) : Ring := tabGet Ring.reset s.stk.rings r

/-- Ring r changed. -/
def updRing (s : State) (r : Nat) (f : Ring → Ring) : State :=
  stkSet s (fun k => { k with rings := tabUpd Ring.reset k.rings r f })

/-- Worker w as it stands. -/
def workerOf (s : State) (w : Nat) : Worker := nth Worker.empty s.stk.workers w

/-- Worker w changed. -/
def updWorker (s : State) (w : Nat) (f : Worker → Worker) : State :=
  stkSet s (fun k => { k with workers := updNth k.workers w f })

/-- BAR0 offset of the registers of a ring (R406). -/
def ringA (r : Nat) : Nat := 0x51000 + 0x20 * r

/-- STK_RING_CFG_r.ENABLE. -/
def ringOn (s : State) (r : Nat) : Bool := bit (regGet s (ringA r + 0x10)) 0

/-- The function that owns a ring. -/
def ringPf (s : State) (r : Nat) : Pf := if bit (regGet s (ringA r + 0x10)) 16 then .pf1 else .pf0

/-- Number of billets of a ring: 2^SIZE. -/
def ringSize (s : State) (r : Nat) : Nat := 2 ^ regF s (ringA r + 0x1C) 4 0

/-- Host address of the slot of billet k. -/
def slotAddr (s : State) (r k : Nat) : Nat := reg64 s (ringA r) + 64 * (k % ringSize s r)

/-- SERVICE of STK_STAT (R401): 0 off, 1 prefetch, 2 blocking. -/
def serviceOf (m : Mode) : Nat :=
  match m with
  | .md0 | .md3 => 0
  | .md1 | .md10 | .md11 => 2
  | _ => 1

/-- The owning function can be reached: the link is up and its bus mastering is on (R385). -/
def pfMaster (s : State) (pf : Pf) : Bool := s.hif.up && (pfOf s pf).busM && !(pfOf s pf).d3hot

/-- A posted write to host memory on behalf of a function; without bus mastering none leaves. -/
def hostWrite (s : State) (pf : Pf) (addr : Nat) (bs : List Byte) : State :=
  if pfMaster s pf then send s (.dma (BitVec.ofNat 64 addr) bs) else s

/-! ### Scheduling trace (R405) -/

/-- One trace entry as its 16 bytes stand, first byte lowest. -/
def traceWord (u kind worker prio : Nat) (slot : Nat) (i : Item) : BitVec 128 :=
  let ns := u / 65536
  BitVec.ofNat 128 (ns % 1000000000 + ns / 1000000000 % 65536 * 2 ^ 32 + kind * 2 ^ 48 + worker * 2 ^ 56 + i.ring * 2 ^ 64
    + prio * 2 ^ 72 + i.b.flow.toNat * 2 ^ 80 + slot % 65536 * 2 ^ 96 + i.b.tag.toNat * 2 ^ 112)

/-- FULL of STK_TRACE_STAT. -/
def traceFull (s : State) : Bool := bit (regGet s 0x50100) 1 && s.stk.trHeld = 65536

/-- One happening enters the trace; in STOP mode recording ends with the entry that fills it, which raises TRACE_FULL. -/
def trace (s : State) (u kind worker prio : Nat) (i : Item) : State :=
  if !bit (regGet s 0x50100) 0 || traceFull s then s
  else
    let s := stkSet s (fun k => { k with
      trace := tabSet 0 k.trace k.trNext (traceWord u kind worker prio (i.idx % ringSize s i.ring) i)
      trNext := (k.trNext + 1) % 65536, trHeld := min 65536 (k.trHeld + 1) })
    if traceFull s then raise s fnSTK 3 0 0 else s

/-! ### Halts (R391) -/

/-- A ring halts with a cause. -/
def ringHalt (s : State) (r cause : Nat) : State :=
  if (ringOf s r).halted then updRing s r (fun k => { k with cause := cause })
  else raise (updRing s r (fun k => { k with halted := true, cause := cause })) fnSTK 0 r 0

/-! ### Checks (R394, R395, R401, R402) -/

/-- The opcode of a billet. -/
def opOf (b : Billet) : Nat := b.opcode.toNat

/-- Argument n of a billet. -/
def argOf (b : Billet) (n : Nat) : Nat := (nth 0 b.args n).toNat

/-- ATOMIC. -/
def Item.atomic (i : Item) : Bool := i.b.flags.getLsbD 0

/-- FENCE. -/
def Item.fenced (i : Item) : Bool := i.b.flags.getLsbD 2

/-- The worker of a billet (R395). -/
def workerFor (b : Billet) : Nat :=
  match opOf b with
  | 0x00 => 10
  | 0x01 => 0
  | 0x02 => if argOf b 0 = 0 then 1 else 2
  | 0x03 => if argOf b 0 = 0 then 3 else 4
  | 0x04 => 10
  | 0x05 => 10
  | 0x06 => 6
  | 0x07 => 9
  | 0x08 => 11
  | 0x09 => 7
  | _ => 8

/-- The opcode is used by PF0 only. -/
def opPf0 (op : Nat) : Bool := op ∈ [0x05, 0x06, 0x0A]

/-- Size of the peat store, and the first byte of the SEC private region (R420). -/
abbrev peatSize : Nat := 0x4000000
/-- First byte of the SEC private region. -/
abbrev peatPriv : Nat := 0x3F00000

/-- What the check of a billet's arguments answers: 0 none, 4 BAD_ARG, 10 SHORT_BUF (R395, R397, R407, R420, R431). -/
def argCheck (b : Billet) : Nat :=
  let len := b.len.toNat
  match opOf b with
  | 0x01 => if len < 32 then 10 else 0
  | 0x02 => if argOf b 0 > 1 ∨ len < 60 ∨ len > 1518 then 4 else 0
  | 0x03 => if argOf b 0 > 1 then 4 else if len < 1522 then 10 else 0
  | 0x04 => if argOf b 1 ≠ 0 ∨ len % 4 ≠ 0 ∨ !devMapped (argOf b 0) len then 4 else 0
  | 0x05 => if argOf b 1 ≠ 0 ∨ len % 4 ≠ 0 ∨ !devMapped (argOf b 0) len then 4 else 0
  | 0x06 => if argOf b 0 % 64 ≠ 0 ∨ argOf b 0 + len > peatPriv then 4 else 0
  | 0x07 => if len % 2 ≠ 0 ∨ len < 2 ∨ len > 512 then 4 else 0
  | 0x08 => if argOf b 0 > 1 then 4 else 0
  | 0x09 => if len < 2608 then 10 else 0
  | 0x0A => if argOf b 0 > 65535 then 4 else if len < 16 then 10 else 0
  | _ => 0

/-- The opcode is served in the mode (R401, R402). -/
def opServed (m : Mode) (op : Nat) : Bool :=
  match m with
  | .md1 => op ∈ [0x00, 0x01, 0x06, 0x08, 0x09]
  | _ => true

/-- STATUS of a billet that fails a check as it arrives; 0 where it passes them all. -/
def billetCheck (s : State) (r : Nat) (b : Billet) : Nat :=
  let pf := ringPf s r
  let f := b.flow.toNat
  if (if pf = .pf0 then f ≥ 2048 else f < 2048 ∨ f ≥ 4096) then 3
  else if opOf b > 0x0A then 2
  else if opPf0 (opOf b) ∧ pf = .pf1 then 6
  else if argCheck b ≠ 0 then argCheck b
  else if !opServed s.sys.mode (opOf b) then 5
  else 0

/-! ### Ready lists, flows and slots (R398 to R400) -/

/-- The ready list of a worker and priority. -/
def readyKey (w p : Nat) : Nat := w * 8 + p

/-- The ready lists changed. -/
def updReady (s : State) (k : Nat) (f : List Item → List Item) : State :=
  stkSet s (fun x => { x with ready := tabUpd [] x.ready k f })

/-- The worker serves a register command, or is otherwise closed to billets: W5 while a record is read out, W7 while an image, a
microcode bundle or a recovery load is being taken (R402). -/
def workerShut (s : State) (w : Nat) : Bool :=
  (w = 5 && rdBusy s) || (w = 7 && (s.sec.imgState ≠ 0 || s.sec.ucLoading.isSome || s.sec.rcv.isSome))

/-- Billets leave every ready list where `p` holds. -/
def readyTake (p : Item → Bool) : Tab (List Item) → Tab (List Item) × List Item
  | [] => ([], [])
  | (k, l) :: t =>
    let (t', taken) := readyTake p t
    let keep := l.filter (fun i => !p i)
    (if keep = [] then t' else (k, keep) :: t', l.filter p ++ taken)

/-- An item enters a list in order of arrival. -/
def arrInsert (i : Item) : List Item → List Item
  | [] => [i]
  | j :: js => if i.arr < j.arr then i :: j :: js else j :: arrInsert i js

/-- An ATOMIC billet enters a worker slot: its flow is busy from then on, and the other ATOMIC billets of the flow that stand on ready
lists wait in the flow's queue (R399). -/
def flowTake (s : State) (u : Nat) (i : Item) : Item × State :=
  if !i.atomic || i.owns then (i, s)
  else
    let f := i.b.flow.toNat
    let (ready, moved) := readyTake (fun j => j.atomic && j.b.flow.toNat = f) s.stk.ready
    let queue := moved.foldr arrInsert (tabGet [] s.stk.flows f)
    let s := stkSet s (fun k => { k with ready := ready, busy := f :: k.busy, flows := tabSet [] k.flows f queue })
    ({ i with owns := true }, moved.foldl (fun s j => trace s u 2 (workerFor j.b) j.prio j) s)

/-- The head of the worker's highest non-empty ready list at or below priority p, taken off it. -/
def readyHead (s : State) (w : Nat) : Nat → Option Item × State
  | 0 => (none, s)
  | p + 1 =>
    match tabGet [] s.stk.ready (readyKey w p) with
    | [] => readyHead s w p
    | i :: l => (some i, updReady s (readyKey w p) (fun _ => l))

/-- NEXT moves into an empty SERVICE (R400). -/
def toService (s : State) (u w : Nat) : State :=
  let k := workerOf s w
  match k.service, k.next with
  | none, some i =>
    if workerShut s w then s
    else trace (updWorker s w (fun k => { k with service := some i, next := none, result := none })) u 5 w i.prio i
  | _, _ => s

/-- An empty NEXT is filled from the worker's highest ready list (R400). -/
def toNext (s : State) (u w : Nat) : State :=
  if (workerOf s w).next.isSome then s
  else
    match readyHead s w 8 with
    | (none, s) => s
    | (some i, s) =>
      let (i, s) := flowTake s u i
      trace (updWorker s w (fun k => { k with next := some i })) u 3 w i.prio i

/-- In blocking service a billet goes straight into an empty SERVICE, and NEXT stays empty (R401). -/
def toServiceBlocking (s : State) (u w : Nat) : State :=
  if (workerOf s w).service.isSome || workerShut s w then s
  else
    match readyHead s w 8 with
    | (none, s) => s
    | (some i, s) =>
      let (i, s) := flowTake s u i
      trace (updWorker s w (fun k => { k with service := some i, result := none })) u 5 w i.prio i

/-- A worker's slots are brought up to date (R400, R401). -/
def settle (s : State) (u w : Nat) : State :=
  match serviceOf s.sys.mode with
  | 1 => toNext (toService (toNext (toService s u w) u w) u w) u w
  | 2 => toServiceBlocking s u w
  | _ => s

/-- Every worker's slots. -/
def settleAll (s : State) (u : Nat) : State := (List.range 12).foldl (fun s w => settle s u w) s

/-- The billet in NEXT returns to the head of its own list (R400, R401). -/
def displace (s : State) (u w : Nat) : State :=
  match (workerOf s w).next with
  | none => s
  | some j =>
    let s := updWorker s w (fun k => { k with next := none })
    trace (updReady s (readyKey w j.prio) (fun l => j :: l)) u 4 w j.prio j

/-- A billet joins its ready list; in prefetch service it takes NEXT from a billet of lower priority (R400). -/
def joinReady (s : State) (u : Nat) (i : Item) : State :=
  let w := workerFor i.b
  let s := trace (updReady s (readyKey w i.prio) (fun l => l ++ [i])) u 1 w i.prio i
  let s :=
    match (workerOf s w).next with
    | some j => if serviceOf s.sys.mode = 1 ∧ j.prio < i.prio then displace s u w else s
    | none => s
  settle s u w

/-- A billet that has passed its checks joins its ready list, or the queue of its busy flow (R398, R399). -/
def enqueue (s : State) (u : Nat) (i : Item) : State :=
  let f := i.b.flow.toNat
  if i.atomic && s.stk.busy.contains f then
    trace (stkSet s (fun k => { k with flows := tabUpd [] k.flows f (fun l => l ++ [i]) })) u 2 (workerFor i.b) i.prio i
  else joinReady s u i

/-- The flow of a completed ATOMIC billet becomes free, and the oldest billet that waits on it joins its ready list (R399). -/
def flowFree (s : State) (u : Nat) (i : Item) : State :=
  if !i.owns then s
  else
    let f := i.b.flow.toNat
    let s := stkSet s (fun k => { k with busy := k.busy.erase f })
    match tabGet [] s.stk.flows f with
    | [] => s
    | j :: l => joinReady (stkSet s (fun k => { k with flows := tabSet [] k.flows f l })) u j

/-- A fenced billet whose earlier billets have all completed joins its ready list (R398). -/
def fenceFree (s : State) (u r : Nat) : State :=
  match (ringOf s r).fence with
  | none => s
  | some i => if i.idx = (ringOf s r).ci then enqueue (updRing s r (fun k => { k with fence := none })) u i else s

/-! ### Completion (R390, R393) -/

/-- CI moves over the unbroken run of completed billets: n is how many are held. -/
def ciRun : Nat → Nat → List Nat → Nat × List Nat
  | 0, ci, done => (ci, done)
  | n + 1, ci, done => if done.contains ci then ciRun n ((ci + 1) % 2 ^ 32) (done.erase ci) else (ci, done)

/-- The write-back of a billet: OUT_LEN and the results, then STATUS (R393). -/
def writeBack (s : State) (u : Nat) (i : Item) (x : Result) : State :=
  let a := slotAddr s i.ring i.idx
  let pf := ringPf s i.ring
  let ns := u / 65536
  let s := hostWrite s pf (a + 0x14) (leBytes 4 x.outLen)
  let s := hostWrite s pf (a + 0x30) (leBytes 4 x.res0 ++ leBytes 4 x.res1 ++ leBytes 4 (ns % 1000000000) ++ leBytes 4 (ns / 1000000000))
  hostWrite s pf (a + 3) [BitVec.ofNat 8 x.status]

/-- A billet completes: write-back, CI, the ring's message, and what waited for it (R390, R393, R398, R399). -/
def complete (s : State) (u worker : Nat) (i : Item) (x : Result) : State :=
  let r := i.ring
  let s := trace (writeBack s u i x) u 6 worker x.status i
  let k := ringOf s r
  let (ci, done) := ciRun (k.done.length + 1) k.ci (i.idx :: k.done)
  let s := updRing s r (fun k => { k with ci := ci, done := done })
  let s := if ci = k.ci then s else hostWrite s (ringPf s r) (reg64 s (ringA r + 8)) (leBytes 4 ci)
  let s := if i.b.flags.getLsbD 1 then msix s (ringPf s r) (32 + regF s (ringA r + 0x10) 23 19) else s
  fenceFree (flowFree s u i) u r

/-! ### Stops (R385, R404) -/

/-- Every fetched billet that has not completed, of the rings where `p` holds, leaves the stoker. -/
def stkTake (s : State) (p : Nat → Bool) : State × List Item :=
  let hit := fun (i : Item) => p i.ring
  let k := s.stk
  let fromSlot := fun (o : Option Item) => match o with
    | some i => if hit i then [i] else []
    | none => []
  let keepSlot := fun (o : Option Item) => match o with
    | some i => if hit i then none else some i
    | none => none
  let slots := k.workers.flatMap (fun w => fromSlot w.service ++ fromSlot w.next)
  let (ready, fromReady) := readyTake hit k.ready
  let (flows, fromFlows) := readyTake hit k.flows
  let posts := (k.posts.filter (fun x => hit x.2)).map (·.2)
  let fences := k.rings.flatMap (fun x => fromSlot x.2.fence)
  let all := slots ++ fromReady ++ fromFlows ++ posts ++ fences
  let workers := k.workers.map (fun w => { w with
    service := keepSlot w.service, next := keepSlot w.next
    result := if (keepSlot w.service).isSome then w.result else none
    caught := if (keepSlot w.service).isSome then w.caught else [], want := if (keepSlot w.service).isSome then w.want else [] })
  let s := stkSet s (fun k => { k with
    workers := workers, ready := ready, flows := flows, posts := k.posts.filter (fun x => !hit x.2)
    busy := k.busy.filter (fun f => !all.any (fun i => i.owns && i.b.flow.toNat = f)) })
  (s, all)

/-- A ring forgets its fetched billets. -/
def ringForget (s : State) (r : Nat) : State := updRing s r (fun k => { k with fence := none, done := [], fetch := k.pi })

/-- Rings halt because their function is gone: what they had fetched is dropped without a write to the host (R385). -/
def ringsDrop (s : State) (u : Nat) (p : Nat → Bool) : State :=
  let rs := (List.range 64).filter p
  let (s, items) := stkTake s p
  let s := items.foldl (fun s i => flowFree s u i) s
  let s := rs.foldl (fun s r => ringHalt (ringForget s r) r 3) s
  settleAll s u

/-- A stop of rings: every fetched billet that has not completed is written back ABORTED, PI and CI become zero, and the rings halt
with a cause (R404). -/
def ringsStop (s : State) (u cause : Nat) (p : Nat → Bool) : State :=
  let rs := (List.range 64).filter p
  let (s, items) := stkTake s p
  let s := items.foldl (fun s i => trace (writeBack s u i ⟨8, 0, 0, 0⟩) u 7 (workerFor i.b) i.prio i) s
  let s := items.foldl (fun s i => flowFree s u i) s
  let s := rs.foldl (fun s r => ringHalt (updRing (ringForget s r) r (fun k => { k with pi := 0, ci := 0, fetch := 0 })) r cause) s
  let s := if items = [] then s else raise s fnSTK 2 0 0
  settleAll s u

/-- The service follows a change of mode (R401, R404): entry to MD_3 stops the stoker, and a change into blocking service returns every
NEXT billet to its list. -/
def stkMode (s : State) (old new : Mode) : State :=
  let (u, s) := stamp s
  if new = .md3 ∧ old ≠ .md3 then ringsStop s u 4 (fun _ => true)
  else if serviceOf new = 2 ∧ serviceOf old = 1 then
    settleAll ((List.range 12).foldl (fun s w => displace s u w) s) u
  else settleAll s u

/-- Reset of STK (R40, R404). -/
def stkReset (s : State) : State :=
  let (u, s) := stamp s
  ringsStop s u 3 (fun _ => true)

end Sys2Proof.Machine
end

