-- ==== Sys2Proof/Machine/Stoker.lean ====
section
/-!
DEFINITION. The commands of the stoker: rings, arriving billets, the twelve workers' operations and the scheduling trace (R388 to R405,
R431 to R434).
-/
namespace Sys2Proof.Machine

/-! ### Rings -/

/-- A write of STK_RING_CFG_r: its fields take effect only while ENABLE is 0; ENABLE = 1 starts the ring, which keeps the
cause of its last halt, and ENABLE = 0 on an enabled ring stops it with cause HOST (R388, R404, R406). -/
def ringCfgWrite (s : State) (pf : Pf) (r : Nat) (v : Word) : State :=
  hostPf0 s pf (ringA r + 0x10) (fun s =>
    let a := ringA r + 0x10
    if ringOn s r then
      if bit v 0 then s
      else
        let (u, s) := stamp s
        let s := ringsStop s u 5 (fun k => k = r)
        regPut s a 0 0 0
    else
      let s := regPut (regPut s a 23 19 (field v 23 19)) a 16 16 (field v 16 16)
      if bit v 0 then updRing (regPut s a 0 0 1) r (fun k => { Ring.reset with cause := k.cause }) else s)

/-- RING_ENABLE (R388). -/
def execRingEnable (pf : Pf) (ring : Fin 64) (v : Word) (s : State) : Host.Outcome State Fault Refusal :=
  .next (ringCfgWrite (begin s) pf ring v)

/-- RING_DISABLE (R404). -/
def execRingDisable (pf : Pf) (ring : Fin 64) (v : Word) (s : State) : Host.Outcome State Fault Refusal :=
  .next (ringCfgWrite (begin s) pf ring v)

/-- RING_PI_WRITE: a write of STK_RING_PI_r by the owning function (R389). -/
def execRingPiWrite (pf : Pf) (ring : Fin 64) (v : Word) (s : State) : Host.Outcome State Fault Refusal :=
  .next (hostAccess (begin s) pf fnSTK (fun s =>
    let r := ring.val
    let k := ringOf s r
    let ahead := fun (x : Nat) => (x + 2 ^ 32 - k.ci) % 2 ^ 32
    if pf ≠ ringPf s r then accessErr s pf (ringA r + 0x14) 4
    else if ahead v.toNat ≤ ringSize s r ∧ ahead k.pi ≤ ahead v.toNat then updRing s r (fun k => { k with pi := v.toNat })
    else if k.halted then s
    else ringHalt s r 1))

/-! ### Arrival (R398) -/

/-- Billets of a ring that are fetched and not completed. -/
def ringOpen (s : State) (r : Nat) : Nat :=
  let k := ringOf s r
  (k.fetch + 2 ^ 32 - k.ci) % 2 ^ 32 - k.done.length

/-- The stoker may fetch from a ring (R391, R398, R401). -/
def mayFetch (s : State) (r : Nat) : Bool :=
  let k := ringOf s r
  let sv := serviceOf s.sys.mode
  ringOn s r && !k.halted && k.fence.isNone && k.fetch ≠ k.pi && pfMaster s (ringPf s r) && s.clk.state = 2
    && (sv = 1 || (sv = 2 && ringOpen s r = 0)) && (s.sys.mode ≠ .md1 || (r = 0 && s.sec.rcv.isNone))

/-- One billet arrives and is checked (R398). -/
def arrive (s : State) (u r : Nat) (b : Billet) : State :=
  let k := ringOf s r
  let p := b.prio.toNat
  let (q, s) := if p < 8 then (p, s) else freshBelow s 8
  let i : Item := ⟨r, k.fetch, s.stk.arrNext, q, false, b⟩
  let s := updRing (stkSet s (fun x => { x with arrNext := x.arrNext + 1 })) r (fun k => { k with fetch := (k.fetch + 1) % 2 ^ 32 })
  let s := trace s u 0 0xFF q i
  let st := billetCheck s r b
  if st ≠ 0 then complete s u 0xFF i ⟨st, 0, 0, 0⟩
  else if i.fenced ∧ i.idx ≠ (ringOf s r).ci then updRing s r (fun k => { k with fence := some i })
  else enqueue s u i

/-- The billets of one host read arrive, as far as the ring still wants them. -/
def arriveAll : State → Nat → Nat → List Billet → State
  | s, _, _, [] => s
  | s, u, r, b :: bs => if mayFetch s r then arriveAll (arrive s u r b) u r bs else s

/-- BILLET_FETCH: the billets of one host read, at most eight. -/
def execBilletFetch (ring : Fin 64) (bs : List Billet) (s : State) : Host.Outcome State Fault Refusal :=
  let (u, s) := stamp (begin s)
  .next (arriveAll s u ring (bs.take 8))

/-! ### Completion -/

/-- The billet in SERVICE of worker w completes with its outcome, and the next one moves up (R393, R400). -/
def workerDone (s : State) (u w : Nat) : State :=
  let k := workerOf s w
  match k.service, k.result with
  | some i, some x =>
    let s := updWorker s w (fun k => { k with service := none, result := none, caught := [], want := [], since := 0 })
    settle (complete s u w i x) u w
  | _, _ => s

/-- BILLET_COMPLETE. -/
def execBilletComplete (w : Fin 12) (s : State) : Host.Outcome State Fault Refusal :=
  let s := begin s
  if clocked s then
    let (u, s) := stamp s
    .next (workerDone s u w)
  else .next s

/-- The worker has worked out the outcome of its billet. -/
def workerResult (s : State) (w : Nat) (x : Result) : State := updWorker s w (fun k => { k with result := some x })

/-- The operation of a worker on the billet with opcode op in its SERVICE slot, where that has no outcome yet and the worker is not held
idle (R319). -/
def working (s : State) (w op : Nat) (f : Item → State → State) : State :=
  let k := workerOf s w
  match k.service, k.result with
  | some i, none => if opOf i.b = op && clocked s then f i s else s
  | _, _ => s

/-- NOP. -/
def execNop (s : State) : Host.Outcome State Fault Refusal :=
  .next (working (begin s) 10 0x00 (fun _ s => workerResult s 10 ⟨1, 0, 0, 0⟩))

/-! ### EVLOG_READ (R395, R397, R415) -/

/-- Entries that the event log holds. -/
def logHeld (l : EvLog) : Nat := if 32768 ≤ l.next ∨ tabGet 0 l.ring (l.next % 32768) ≠ 0 then 32768 else l.next

/-- n entries are read from slot k of the ring on, in one access or, where they pass the ring's end, in two (R412). -/
def logRead (s : State) (k n : Nat) : Sum Nat (List Byte) × State :=
  let n1 := min n (32768 - k)
  match rickRead s 5 (logBase + 32 * k) (32 * n1) with
  | (.inl st, s) => (.inl st, s)
  | (.inr a, s) =>
    match rickRead s 5 logBase (32 * (n - n1)) with
    | (.inl st, s) => (.inl st, s)
    | (.inr b, s) => (.inr (a ++ b), s)

/-- EVLOG_READ: whole entries from ARG_0 on, or from the oldest one where that was overwritten. -/
def execEvlogRead (s : State) : Host.Outcome State Fault Refusal :=
  .next (working (begin s) 0 0x01 (fun i s =>
    let cap := i.b.len.toNat / 32
    let back := (s.log.next + 2 ^ 32 - argOf i.b 0) % 2 ^ 32
    let held := logHeld s.log
    let lost := if back < 2 ^ 31 then back - held else 0
    let n := if back < 2 ^ 31 then min cap (min back held) else 0
    let first := (argOf i.b 0 + lost) % 2 ^ 32
    match logRead s (first % 32768) n with
    | (.inl st, s) => workerResult s 0 ⟨st, 0, 0, 0⟩
    | (.inr bs, s) =>
      workerResult (hostWrite s (ringPf s i.ring) i.b.addr.toNat bs) 0
        ⟨if n < cap then 9 else 1, 32 * n, (first + n) % 2 ^ 32, lost⟩))

/-! ### Ethernet (R395) -/

/-- Nanoseconds and seconds bits 31:0 of a time in 2^−16 ns. -/
def nsSec (u : Nat) : Nat × Nat := (u / 65536 % 1000000000, u / 65536 / 1000000000 % 2 ^ 32)

/-- ETH_TX: the frame of the billet, as read from the host, leaves on its port. -/
def execEthTx (port : Fin 2) (frame : List Byte) (s : State) : Host.Outcome State Fault Refusal :=
  .next (working (begin s) (1 + port.val) 0x02 (fun i s =>
    if ethUp s port then
      let (u, s) := stamp s
      workerResult (send s (.eth port (padTo i.b.len.toNat frame))) (1 + port.val) ⟨1, 0, (nsSec u).1, (nsSec u).2⟩
    else s))

/-- ETH_RX_POST: the buffer joins the posted buffers of its port, and the worker is free for the next billet. -/
def execEthRxPost (port : Fin 2) (s : State) : Host.Outcome State Fault Refusal :=
  .next (working (begin s) (3 + port.val) 0x03 (fun i s =>
    let (u, s) := stamp s
    let s := updWorker s (3 + port.val) (fun k => { k with service := none })
    settle (stkSet s (fun k => { k with posts := k.posts ++ [(port.val, i)] })) u (3 + port.val)))

/-- The oldest posted buffer of a port, taken off the list. -/
def postTake (port : Nat) : List (Nat × Item) → Option Item × List (Nat × Item)
  | [] => (none, [])
  | x :: xs => if x.1 = port then (some x.2, xs) else ((postTake port xs).1, x :: (postTake port xs).2)

/-- ETH_RX_FRAME: a frame that is not a precision-time frame arrives on a port; one of more than 1,522 bytes is not taken (R334). -/
def execEthRxFrame (port : Fin 2) (frame : List Byte) (s : State) : Host.Outcome State Fault Refusal :=
  let s := begin s
  if !ethUp s port || decide (1522 < frame.length) then .next s
  else
    match postTake port.val s.stk.posts with
    | (none, _) => .next (raise (if port.val = 0 then regInc s 0x50050 15 0 else regInc s 0x50050 31 16) fnSTK 1 port.val 0)
    | (some i, rest) =>
      let (u, s) := stamp s
      let s := stkSet s (fun k => { k with posts := rest })
      let fits := decide (frame.length ≤ i.b.len.toNat)
      let s := if fits then hostWrite s (ringPf s i.ring) i.b.addr.toNat frame else s
      .next (complete s u (3 + port.val) i ⟨if fits then 1 else 10, if fits then frame.length else 0, (nsSec u).1, (nsSec u).2⟩)

/-! ### Device memory (R395, R407 to R412, R417) -/

/-- Master number of the stoker on behalf of a function (R412). -/
def stkMaster (pf : Pf) : Nat := if pf = .pf0 then 0 else 1

/-- A copy between the host and device memory: it waits for the bulk store, and ends with an error at a rick that is not ON (R409, R417),
or REF_ACCESS where the regions deny it (R412). -/
def devCopy (s : State) (op : Nat) (wr : Bool) (f : Item → State → State) : State :=
  working s 10 op (fun i s =>
    let a := argOf i.b 0
    let len := i.b.len.toNat
    if !rgnAllows s (stkMaster (ringPf s i.ring)) a len wr then workerResult (denyAccess s) 10 ⟨6, 0, 0, 0⟩
    else if 0x10000000 ≤ a ∧ !s.mem.blkReady then s
    else if rickOff s a len then workerResult (raise s fnRKS 1 0 0) 10 ⟨7, 0, 0, 0⟩
    else f i s)

/-- MEM_READ: of a rick, DMA_ERR at a parity error (R411); of the bulk store, always DONE, with the number of uncorrectable groups (R417). -/
def execMemRead (s : State) : Host.Outcome State Fault Refusal :=
  .next (devCopy (begin s) 0x04 false (fun i s =>
    let a := argOf i.b 0
    let len := i.b.len.toNat
    let put := fun (s : State) (bs : List Byte) (ue : Nat) => workerResult (hostWrite s (ringPf s i.ring) i.b.addr.toNat bs) 10 ⟨1, len, ue, 0⟩
    if a < 0x10000000 then
      match parityRead s a len with
      | (.inl st, s) => workerResult s 10 ⟨st, 0, 0, 0⟩
      | (.inr bs, s) => put s bs 0
    else
      let (bs, ue, s) := blkRead s a (devRead s a len)
      put s bs ue))

/-- MEM_WRITE: the bytes of the host buffer. -/
def execMemWrite (data : List Byte) (s : State) : Host.Outcome State Fault Refusal :=
  .next (devCopy (begin s) 0x05 true (fun i s =>
    let a := argOf i.b 0
    let s := if a < 0x10000000 then s else (blkLook s (blkEdges a i.b.len.toNat)).2
    workerResult (devWrite s a (padTo i.b.len.toNat data)) 10 ⟨1, 0, 0, 0⟩))

/-! ### Peat store (R420) -/

/-- What a group of the system records holds, line by line. -/
def recFlat (x : Nat × RGroup) : List Nat := x.1 :: x.2.lines.flatMap (fun l => l.1 :: l.2.upd :: b2n l.2.good :: l.2.val)

/-- Bytes [off, off + n) of the peat store. Slots hold what was loaded; bytes for which the manual gives no layout are open. -/
def peatRead (s : State) (off n : Nat) : List Byte :=
  (List.range n).map (fun k =>
    let a := off + k
    let dflt := Config.peatByte s.free a
    if a < 0x1000000 then (nth ImgSlot.empty s.peat.slots (a / 0x800000)).bytes.getD (a % 0x800000) dflt
    else if a < 0x2000000 then (tabGet [] s.peat.ring ((a - 0x1000000) / 4096)).getD (a % 4096) dflt
    else if a < 0x2200000 then (nth ImgSlot.empty s.peat.uc ((a - 0x2000000) / 0x100000)).bytes.getD (a % 0x100000) dflt
    else if a < 0x2300000 then Config.recordByte (s.peat.recs.map recFlat) (a - 0x2200000)
    else dflt)

/-- PTS_READ. -/
def execPtsRead (s : State) : Host.Outcome State Fault Refusal :=
  .next (working (begin s) 6 0x06 (fun i s =>
    let len := i.b.len.toNat
    let s := hostWrite s (ringPf s i.ring) i.b.addr.toNat (peatRead s (argOf i.b 0) len)
    workerResult { s with free := s.free + 1 } 6 ⟨1, len, 0, 0⟩))

/-! ### PEEK_BATCH (R396) -/

/-- One record of 48 bytes. -/
def peekRecord (id : Nat) (tick : Nat) (c : Capture) : List Byte :=
  leBytes 2 id ++ leBytes 1 c.act ++ leBytes 1 (ofSigned 8 c.exp) ++ leBytes 2 c.loss ++ leBytes 2 c.freeze ++ leBytes 4 tick ++ zeros 4
    ++ (List.range 4).flatMap (fun j =>
      let w := c.outs.getD j SigW.none
      leBytes 4 (ofSigned 32 w.m) ++ leBytes 1 (ofSigned 8 w.e) ++ leBytes 1 (b2n w.v) ++ zeros 2)

/-- The record of a node that was not captured. -/
def peekMissing (id : Nat) : List Byte := leBytes 2 id ++ leBytes 1 5 ++ zeros 45

/-- PEEK_BATCH begins: the NODE_IDs as read from the host buffer. -/
def execPeekBatch (ids : List (BitVec 16)) (s : State) : Host.Outcome State Fault Refusal :=
  .next (working (begin s) 9 0x07 (fun i s =>
    let n := i.b.len.toNat / 2
    if (workerOf s 9).want = [] then
      updWorker s 9 (fun k => { k with want := ids.take n ++ List.replicate (n - ids.length) 0, caught := [], since := s.sys.tickCnt })
    else s))

/-- PEEK_BATCH ends with the records captured so far. -/
def peekEnd (s : State) : State :=
  working s 9 0x07 (fun i s =>
    let k := workerOf s 9
    let bs := (List.range k.want.length).flatMap (fun p =>
      match k.caught.find? (fun x => x.1 = p) with
      | some x => x.2
      | none => peekMissing (nth 0 k.want p).toNat)
    let s := hostWrite s (ringPf s i.ring) (argOf i.b 0 + argOf i.b 1 * 2 ^ 32) bs
    workerResult s 9 ⟨if k.caught.length < k.want.length then 9 else 1, 0, 0, 0⟩)

/-- The nodes evaluated in a phase are captured where a PEEK_BATCH wants them (R396); `evald` says which were. -/
def peekBatch (s : State) (evald : Nat → Bool) (cap : Nat → Capture) : State :=
  working s 9 0x07 (fun _ s =>
    let k := workerOf s 9
    let add := (List.range k.want.length).filterMap (fun p =>
      let id := (nth 0 k.want p).toNat
      if evald id && !k.caught.any (fun x => x.1 = p) then some (p, peekRecord id (s.fab.idx % 2 ^ 32) (cap id)) else none)
    let s := updWorker s 9 (fun k => { k with caught := k.caught ++ add })
    let k := workerOf s 9
    if k.want ≠ [] ∧ k.caught.length = k.want.length then peekEnd s else s)

/-- PEEK_BATCH_TIMEOUT: 1,000 ticks have passed since it began. -/
def execPeekBatchTimeout (s : State) : Host.Outcome State Fault Refusal :=
  let s := begin s
  .next (if (workerOf s 9).want = [] ∨ !clocked s ∨ s.sys.tickCnt < (workerOf s 9).since + 1000 then s else peekEnd s)

/-! ### HASH -/

/-- HASH: the bytes of the host buffer. -/
def execHash (data : List Byte) (s : State) : Host.Outcome State Fault Refusal :=
  .next (working (begin s) 11 0x08 (fun i s =>
    let bs := padTo i.b.len.toNat data
    if argOf i.b 0 = 0 then workerResult s 11 ⟨1, 0, crc32c bs, 0⟩
    else workerResult (hostWrite s (ringPf s i.ring) (argOf i.b 1 + argOf i.b 2 * 2 ^ 32) (sha384 bs)) 11 ⟨1, 0, 0, 0⟩))

/-! ### Attestation (R431 to R434) -/

/-- Leaves of both trees. -/
abbrev lmsLeaves : Nat := 67108864

/-- Rick 13 is cleared (R408). -/
def sec13Clear (s : State) : State :=
  { s with mem := { s.mem with dev := s.mem.dev.filter (fun x => x.1 < 0xD00000 || 0xE00000 ≤ x.1) } }

/-- The key table as KEYS_HASH takes it: four entries, disabled ones as zero. -/
def keyTable (s : State) : List Byte :=
  (List.range 4).flatMap (fun e =>
    let k := tabGet ⟨[], []⟩ s.peat.keys e
    padTo 97 k.ecdsa ++ padTo 56 k.lms)

/-- BODY_HASH of a slot; zero if empty. -/
def slotHash (p : ImgSlot) : List Byte := if p.bytes = [] then zeros 48 else sliceBytes p.bytes 0x40 48

/-- The signed bytes of a report (R434), with the leaf used. -/
def attestBody (s : State) (u leaf : Nat) (nonce : List Byte) : List Byte :=
  ascii "NLAT" ++ leBytes 2 1 ++ leBytes 1 (leaf / 2 ^ 25) ++ zeros 1 ++ leBytes 4 2608 ++ leBytes 4 s.peat.reports
    ++ sliceBytes identity 8 16 ++ sliceBytes identity 0 4 ++ sliceBytes identity 4 1
    ++ leBytes 1 s.sys.mode.code ++ leBytes 1 s.sec.bootRes ++ zeros 1 ++ leBytes 12 (time96 u) ++ leBytes 4 s.red.epoch
    ++ leBytes 4 (s.peat.checkVal.getD 0).toNat ++ leBytes 1 s.sec.active ++ leBytes 1 s.sec.ucSlot ++ zeros 2
    ++ padTo 24 nonce ++ zeros 8 ++ sha384 (nth ImgSlot.empty s.peat.uc s.sec.ucSlot).bytes
    ++ slotHash (nth ImgSlot.empty s.peat.slots 0) ++ slotHash (nth ImgSlot.empty s.peat.slots 1)
    ++ (List.range 64).flatMap (fun n => leBytes 4 (tabGet 0 s.peat.arc n)) ++ sha384 (keyTable s) ++ zeros 32

/-- A report with both signatures. -/
def attestReport (leaf : Nat) (body : List Byte) : List Byte :=
  body ++ padTo 96 (Config.deviceEcdsa (sha384 body)) ++ padTo 1932 (Config.deviceLms leaf (sha384 body)) ++ zeros 4

/-- ATTEST: the leaf is advanced before the report is signed (R433). -/
def attest (s : State) : State :=
  working s 7 0x09 (fun i s =>
    if s.peat.leaf ≥ lmsLeaves then workerResult s 7 ⟨1, 0, 2, 0⟩
    else if s.sec.attWait > 0 then workerResult s 7 ⟨1, 0, 1, (s.sec.attWait + 999999) / 1000000⟩
    else
      let (st, s) := devAsk s 4 0xD00000 0x100000 true
      if st ≠ 0 then workerResult s 7 ⟨st, 0, 0, 0⟩ else
      let leaf := s.peat.leaf
      let (u, s) := stamp s
      let s := recNow { s with peat := { s.peat with leaf := leaf + 1, reports := s.peat.reports + 1 }, sec := { s.sec with attWait := 10000000000 } } .lmsLeaf
      let body := attestBody s u leaf (i.b.args.flatMap (fun w => leBytes 4 w.toNat))
      let s := sec13Clear (hostWrite s (ringPf s i.ring) i.b.addr.toNat (attestReport leaf body))
      let s := if lmsLeaves - leaf = 1000000 then raise s fnSEC 2 0 0 else s
      workerResult s 7 ⟨1, 2608, 0, 0⟩)

/-- ATTEST. -/
def execAttest (s : State) : Host.Outcome State Fault Refusal := .next (attest (begin s))

/-! ### Trace (R395, R405) -/

/-- TRACE_READ: whole entries from the index ARG_0 up to the next one to be written. -/
def execTraceRead (s : State) : Host.Outcome State Fault Refusal :=
  .next (working (begin s) 8 0x0A (fun i s =>
    let a := argOf i.b 0
    let k := s.stk
    let have_ := if k.trHeld = 65536 then (k.trNext + 65535 - a) % 65536 + 1 else if a < k.trNext then k.trNext - a else 0
    let n := min (i.b.len.toNat / 16) have_
    let bs := (List.range n).flatMap (fun j => leBytes 16 (tabGet 0 k.trace ((a + j) % 65536)).toNat)
    workerResult (hostWrite s (ringPf s i.ring) i.b.addr.toNat bs) 8 ⟨1, 16 * n, (a + n) % 65536, 0⟩))

/-- The trace is emptied. -/
def traceClear (s : State) : State := stkSet s (fun k => { k with trace := [], trNext := 0, trHeld := 0 })

/-- TRACE_CLEAR: a write of STK_TRACE_CTL with CLEAR = 1; its other fields take the written values. -/
def execTraceClear (pf : Pf) (v : Word) (s : State) : Host.Outcome State Fault Refusal :=
  .next (hostPf0 (begin s) pf 0x50100 (fun s =>
    let s := regPut s 0x50100 1 0 (field v 1 0)
    if bit v 3 then traceClear s else s))

end Sys2Proof.Machine
end

