-- ==== Sys2Proof/Machine/Slots.lean ====
section
/-!
DEFINITION. Image slots and the idle fabric plane: LOAD, ERASE, ABORT and BOOT_NEXT of the security engine, and STAGE, UNSTAGE, COMMIT and
CONFIRM of the fabric (R85 to R94, R96).
-/
namespace Sys2Proof.Machine

/-- SEC with some of its fields changed. -/
def secSet (s : State) (f : Sec → Sec) : State := { s with sec := f s.sec }

/-- The fabric's image state with some of its fields changed. -/
def imgSet (s : State) (f : FabImg → FabImg) : State := { s with img := f s.img }

/-- Image slot k. -/
def imgSlotOf (s : State) (k : Nat) : ImgSlot := nth ImgSlot.empty s.peat.slots k

/-- Image slot k takes a new content; a slot report follows (R97). -/
def imgSlotPut (s : State) (k : Nat) (x : ImgSlot) : State :=
  slotChanged (peatWrite s [.slotState] (fun p => { p with slots := setNth p.slots k x }))

/-- The lines of a load or an erasure wait for their banks: of image slot k, or of microcode slot k - 2 (R422). -/
def loadLines (s : State) (k len : Nat) : State := peatSet s (fun p => peatJob p ⟨.imageLine, k, 0, (len + 63) / 64, []⟩)

/-- A load or an erasure has ended, and with it the writing of its lines. -/
def loadOver (s : State) : State := peatSet s (fun p => peatDrop p .imageLine)

/-- The enabled entries of the key table. -/
def keyEntries (s : State) : List (Nat × KeyEntry) := s.peat.keys

/-- The status of an image's bytes for a slot: 2 where it verifies, else that of the first step of R85 that fails (R92). -/
def imgCheck (s : State) (slot : Nat) (bs : List Byte) (len : Nat) : Nat :=
  let n := imgSig bs
  let sb := sigBlock bs n
  let signed := bs.take n
  let img := readImage slot bs
  if !hdrOk (ascii "NLCH") bs len then 3
  else if !targetOk bs slot (fun k => decide (4 ≤ k) && decide (k ≤ 7)) then 4
  else if !buildOk s bs then 5
  else if !tableOk bs then 6
  else if !hashOk bs then 7
  else if !(sigFields sb n && (keyEntries s).any (fun e => ecdsaUnder signed sb e.2)) then 8
  else if !(keyEntries s).any (fun e => ecdsaUnder signed sb e.2 && lmsUnder signed sb e.2) then 9
  else if !contentOk bs img then 10
  else if !timingOk img then 11
  else if !layeredOk img then 12
  else 2

/-- The modes in which SEC takes image commands (R89). -/
def secMode (m : Mode) : Bool := m = .md2 || decide (4 ≤ m.code)

/-- The slot's image is in force. -/
def slotActive (s : State) (k : Nat) : Bool := s.img.live.isSome && s.sec.active = k

/-- The slot is staged, or being staged. -/
def slotStaged (s : State) (k : Nat) : Bool := s.img.state ≠ 0 && s.img.stSlot = k

/-- STATUS of SEC_IMG_STAT. -/
def imgStatus (s : State) (st : Nat) : State := secSet s (fun c => { c with imgStatus := st })

/-- The SEC image commands return to IDLE: the interrupt of vector 24 goes to PF0, and W7 takes billets again (R387, R402). -/
def imgIdle (s : State) (st : Nat) : State :=
  let s := msix (secSet (loadOver s) (fun c => { c with imgStatus := st, imgState := 0 })) .pf0 24
  let (u, s) := stamp s
  settle s u 7

/-- A write of SEC_IMG_CTL by PF0 with its key. -/
def imgCtl (s : State) (pf : Pf) (key : BitVec 16) (f : State → State) : State :=
  hostPf0 s pf 0x90100 (fun s => if key ≠ 0x494D then imgStatus s 21 else f s)

/-- A command that does not stop another one is refused while one is in progress, in the modes of R89 only, and aimed at a slot. -/
def imgStart (s : State) (slot : Nat) (f : State → State) : State :=
  if s.sec.imgState ≠ 0 || s.sec.ucLoading.isSome then imgStatus s 1
  else
    let s := secSet s (fun c => { c with imgSlot := slot })
    if !secMode s.sys.mode then imgStatus s 16 else f s

/-- IMG_LOAD: the target slot is empty from the start of the command (R88, R89). -/
def execImgLoad (pf : Pf) (key : BitVec 16) (slot : Fin 2) (s : State) : Host.Outcome State Fault Refusal :=
  .next (imgCtl (begin s) pf key (fun s => imgStart s slot (fun s =>
    if slotActive s slot || slotStaged s slot then imgStatus s 13
    else
      secSet (loadLines (imgSlotPut s slot ImgSlot.empty) slot (regF s 0x90110 23 0))
        (fun c => { c with imgStatus := 1, imgState := 1, imgKib := 0, imgLen := regF s 0x90110 23 0 }))))

/-- The bytes of a load as the host memory gave them. -/
def loadBytes (len : Nat) (bs : List Byte) : List Byte := padTo len bs

/-- A LOAD is in progress: LOADING while the host memory is read, CHECKING from then on (R91). -/
def imgLoading (s : State) : Bool := s.sec.imgState = 1 || s.sec.imgState = 2

/-- A LOAD goes on in the background of a tick (R89, R91): KIB counts the whole KiB that have arrived, and STATE goes from LOADING to
CHECKING once all have. How far it gets in a tick is the peat store's and the host's affair, a free value. -/
def loadTick (s : State) : State :=
  if s.sec.imgState ≠ 1 then s
  else
    let all := s.sec.imgLen / 1024
    if all ≤ s.sec.imgKib then
      let (b, s) := freshBelow s 2
      if b = 1 then secSet s (fun c => { c with imgState := 2 }) else s
    else
      let (k, s) := freshBelow s (all - s.sec.imgKib + 1)
      secSet s (fun c => { c with imgKib := c.imgKib + k })

/-- The LOAD in progress ends because its host read failed (R92 REF_DMA). KIB stays at what had arrived. -/
def loadFail (s : State) : State := if imgLoading s then imgIdle s 22 else s

/-- A read of host memory that a command needed has failed (R386). -/
def dmaLost (s : State) : State := raise s fnHIF 3 0 0

/-- SEC meets its working memory, rick 13, for a verification, an enrolment or an attestation (R408, R409, R412), and clears it at the end: `f` where
it may, else `no` with the status with which a billet so refused completes. -/
def secUse (s : State) (no : Nat → State → State) (f : State → State) : State :=
  let (st, s) := devAsk s 4 0xD00000 0x100000 true
  if st ≠ 0 then no st s else f (sec13Clear s)

/-- IMG_LOAD_DONE: the host read and the checks of R85 are complete. KIB counts whole KiB, so that a part of one at the end is not counted
(DESIGN CHOICE: R91 gives the unit only). Where rick 13 is closed to SEC, the LOAD ends REF_DMA (DESIGN CHOICE: R92 has no status of its own). -/
def execImgLoadDone (dmaOk : Bool) (bytes : List Byte) (s : State) : Host.Outcome State Fault Refusal :=
  let s := begin s
  if !imgLoading s || !clocked s then .next s
  else if !dmaOk then .next (dmaLost (loadFail s))
  else
    .next (secUse (secSet s (fun c => { c with imgKib := s.sec.imgLen / 1024 })) (fun _ s => imgIdle s 22) (fun s =>
      let bs := loadBytes s.sec.imgLen bytes
      let st := imgCheck s s.sec.imgSlot bs s.sec.imgLen
      imgIdle (if st = 2 then imgSlotPut s s.sec.imgSlot ⟨bs, true, false⟩ else s) st))

/-- IMG_ERASE (R88). -/
def execImgErase (pf : Pf) (key : BitVec 16) (slot : Fin 2) (s : State) : Host.Outcome State Fault Refusal :=
  .next (imgCtl (begin s) pf key (fun s => imgStart s slot (fun s =>
    if slotActive s slot || slotStaged s slot then imgStatus s 13
    else secSet (loadLines (imgSlotPut s slot ImgSlot.empty) slot 0x800000) (fun c => { c with imgStatus := 1, imgState := 3 }))))

/-- IMG_ERASE_DONE: every line of the slot has been rewritten. -/
def execImgEraseDone (s : State) : Host.Outcome State Fault Refusal :=
  let s := begin s
  .next (if s.sec.imgState = 3 && clocked s then imgIdle s 2 else s)

/-- A LOAD or ERASE in progress stops, and its slot stays empty (R88). KIB keeps what had arrived when a LOAD stops (DESIGN CHOICE: R91 speaks
of the current or last LOAD). With nothing in progress an ABORT leaves STATUS as it was (DESIGN CHOICE). -/
def imgAbort (s : State) : State := if s.sec.imgState = 0 then s else imgIdle s 19

/-- IMG_ABORT. -/
def execImgAbort (pf : Pf) (key : BitVec 16) (s : State) : Host.Outcome State Fault Refusal :=
  .next (imgCtl (begin s) pf key imgAbort)

/-- IMG_BOOT_NEXT (R91). -/
def execImgBootNext (pf : Pf) (key : BitVec 16) (slot : Fin 2) (s : State) : Host.Outcome State Fault Refusal :=
  .next (imgCtl (begin s) pf key (fun s => imgStart s slot (fun s =>
    if (imgSlotOf s slot).valid then imgStatus (peatWrite s [.bootSel] (fun p => { p with bootSlot := slot.val })) 2 else imgStatus s 13)))

/-! ### The idle plane (R93, R94) -/

/-- STATUS of FAB_IMG_STAT. -/
def fabStatus (s : State) (st : Nat) : State := imgSet s (fun i => { i with status := st })

/-- A write of FAB_IMG_CTL by PF0 with its key. -/
def fabCtl (s : State) (pf : Pf) (key : BitVec 16) (f : State → State) : State :=
  hostPf0 s pf 0xA0100 (fun s => if key ≠ 0x5357 then fabStatus s 21 else f s)

/-- A STAGE or a COMMIT is in progress. -/
def fabBusy (s : State) : Bool := s.img.state = 1 || s.img.state = 3

/-- The modes of STAGE (R93). -/
def stageMode (m : Mode) : Bool := m = .md2 || m.forms || m = .md11

/-- The name of a node; empty where it has none (R81, R82). -/
def nodeName (img : Image) (r : NodeRec) : List Byte :=
  match img.syms.find? (fun y => y.kind = 0 && y.target = r.id) with
  | some y => y.name
  | none => []

/-- The named nodes of an image, with their names. -/
def namedNodes (img : Image) : List (List Byte × NodeRec) :=
  (img.nodes.map (fun r => (nodeName img r, r))).filter (fun x => x.1 ≠ [])

/-- The node of the image in force that has a new node's name. -/
def counterpart (old : List (List Byte × NodeRec)) (name : List Byte) : Option NodeRec :=
  (old.find? (fun x => x.1 = name)).map (·.2)

/-- The counterpart whose state cell a new node keeps: same name, TYPE and SUBTYPE. -/
def keeps (old : List (List Byte × NodeRec)) (x : List Byte × NodeRec) : Option NodeRec :=
  (counterpart old x.1).filter (fun o => o.type = x.2.type && o.sub = x.2.sub)

/-- IMG_STAGE. -/
def execImgStage (pf : Pf) (key : BitVec 16) (slot : Fin 2) (s : State) : Host.Outcome State Fault Refusal :=
  .next (fabCtl (begin s) pf key (fun s =>
    if fabBusy s then fabStatus s 1
    else if !stageMode s.sys.mode then fabStatus s 16
    else if !(imgSlotOf s slot).valid then fabStatus s 13
    else slotChanged (imgSet s (fun i => { i with state := 1, status := 1, stSlot := slot.val, other := none }))))

/-- The counts of the matching of two images (R94, R99): nodes that keep a counterpart's state, nodes that soft-start, and nodes dropped. -/
def matchCounts (old new : Image) : Nat × Nat × Nat :=
  let o := namedNodes old
  let named := namedNodes new
  let moved := (named.filter (fun x => (keeps o x).isSome)).length
  let met := (named.filter (fun x => (counterpart o x.1).isSome)).length
  (moved, new.nodes.length - moved, old.nodes.length - met)

/-- IMG_STAGE_DONE: the plane is loaded and the names are matched. -/
def execImgStageDone (s : State) : Host.Outcome State Fault Refusal :=
  let s := begin s
  if s.img.state ≠ 1 || !clocked s then .next s
  else
    let new := readImage s.img.stSlot (imgSlotOf s s.img.stSlot).bytes
    let (moved, soft, drop) := matchCounts (imgOf s) new
    .next (slotChanged (imgSet s (fun i => { i with state := 2, status := 2, other := some new, moved := moved, soft := soft, drop := drop })))

/-- IMG_UNSTAGE. -/
def execImgUnstage (pf : Pf) (key : BitVec 16) (s : State) : Host.Outcome State Fault Refusal :=
  .next (fabCtl (begin s) pf key (fun s =>
    if fabBusy s then fabStatus s 1 else slotChanged (imgSet s (fun i => { i with state := 0, status := 2 }))))

/-- The modes of COMMIT (R96). -/
def commitMode (m : Mode) : Bool := m = .md2 || (m.forms && m ≠ .md8) || m = .md11

/-- A commit as a request: 2 where it may go to its boundary, else REF_MODE or REF_NOTSTAGED (R92, R96). -/
def commitAsk (s : State) : Nat :=
  if !commitMode s.sys.mode || s.sys.trans.isSome then 16 else if s.img.state ≠ 2 && s.img.state ≠ 3 then 18 else 2

/-- HASH32 of an image (R88). -/
def hash32Of (img : Image) : Nat := img.hash.toNat % 2 ^ 32

/-- The entries COMMIT and COMMIT_CNT: outcome, the slot in force and the slot named, both HASH32 values, and the counts (R416). -/
def commitEntries (s : State) (outcome slot : Nat) (new : Option Image) (n : Nat × Nat × Nat) : State :=
  let hash := fun (i : Option Image) => (i.map hash32Of).getD 0
  let s := logBound s fnFAB 0x80 (argAt 0 outcome + argAt 1 s.sec.active + argAt 2 slot + argAt 4 (hash s.img.live) + argAt 8 (hash new))
  logBound s fnFAB 0x81 (argAt 0 n.1 + argAt 2 n.2.1 + argAt 4 n.2.2)

/-- The two entries of a commit, made, refused or abandoned (R99), written before anything changes: outcome, the slot in force and the
slot staged, the HASH32 values of both images (0 where nothing is staged), and the counts of the matching. -/
def commitLog (s : State) (outcome : Nat) : State :=
  let new := if s.img.state = 2 || s.img.state = 3 then s.img.other else none
  commitEntries s outcome s.img.stSlot new (s.img.moved, s.img.soft, s.img.drop)

/-- A host COMMIT that is refused at its write leaves its entry, with the time of the boundary before it (R99). -/
def commitRefuse (s : State) (st : Nat) : State := fabStatus (commitLog s st) st

/-- IMG_COMMIT: a host commit waits for the vote of the next boundary (R96). -/
def execImgCommit (pf : Pf) (key : BitVec 16) (solo : Bool) (s : State) : Host.Outcome State Fault Refusal :=
  .next (fabCtl (begin s) pf key (fun s =>
    if fabBusy s then commitRefuse s 1
    else if commitAsk s ≠ 2 then commitRefuse s (commitAsk s)
    else imgSet s (fun i => { i with state := 3, status := 1, commit := some solo })))

/-- An anti-rollback counter advances to a greater value (R90, R424). -/
def arcRaise (s : State) (n v : Nat) : State :=
  if tabGet 0 s.peat.arc n < v then recNow (peatSet s (fun p => arcPut p n v)) .arc else s

/-- IMG_CONFIRM (R90). It is taken, and ends DONE, also while a STAGE or a COMMIT is in progress, whose own outcome then replaces its STATUS
(DESIGN CHOICE: R92 has BUSY for a command that another one keeps out, and CONFIRM shares nothing with either). -/
def execImgConfirm (pf : Pf) (key : BitVec 16) (s : State) : Host.Outcome State Fault Refusal :=
  .next (fabCtl (begin s) pf key (fun s =>
    match s.img.live with
    | none => fabStatus s 16
    | some i =>
      let s := peatWrite s [.slotState] (fun p => { p with slots := updNth p.slots s.sec.active (fun x => { x with confirmed := true }) })
      fabStatus (arcRaise s i.arc i.build) 2))

end Sys2Proof.Machine
end

