-- ==== Sys2Proof/Machine/Commit.lean ====
section
/-!
DEFINITION. The commit of a staged plane: what R95 and R97 compare, and what changes at the commit boundary (R93 to R99).
-/
namespace Sys2Proof.Machine

/-! ### What a commit compares (R95) -/

/-- The exact value of a parameter instance over 2^95, as numerator and denominator. -/
def paramExact (img : Image) (pid idx : Nat) : Int × Nat :=
  match paramRec img pid idx with
  | some p =>
    if p.kind = 0 then (bfpMant p * 2 ^ (p.exp + 64).toNat, 1)
    else ((if p.kind = 1 then toSigned 64 p.value.toNat else (p.value.toNat : Int)) * 2 ^ 95, 1)
  | none => let d := paramDefault img pid idx; (d.1 * 2 ^ 95, d.2)

/-- A parameter has the same value in two images, in every instance. -/
def paramSame (a b : Image) (pid : Nat) : Bool :=
  match paramRow pid with
  | none => true
  | some r =>
    (if r.insts = 0 then [0xFFFF] else List.range r.insts).all (fun i =>
      let x := paramExact a pid i
      let y := paramExact b pid i
      x.1 * y.2 = y.1 * x.2)

/-- A section has the same content in two images. -/
def sectSame (a b : Image) (ty : Nat) : Bool :=
  hasSect a ty = hasSect b ty && (paramRows ty).all (fun r => paramSame a b r.pid)

/-- The stored bytes of a section of a slot. -/
def slotSect (s : State) (img : Image) (ty : Nat) : List Byte :=
  match img.sects.find? (fun t => t.type = ty) with
  | some t => sliceBytes (imgSlotOf s img.slot).bytes t.offset t.length
  | none => []

/-- Input routes of a node. -/
def inputRoutes (img : Image) (id : Nat) : List RouteRec := img.routes.filter (fun r => r.dst = id)

/-- Every SAFETY node of an image has a named counterpart with an identical record and identical input routes in the other. -/
def safetyKept (a b : Image) : Bool :=
  let old := namedNodes b
  a.nodes.all (fun r => !nodeSafety r ||
    (match counterpart old (nodeName a r) with
     | some o => nodeName a r ≠ [] && o = r && inputRoutes a r.id = inputRoutes b o.id
     | none => false))

/-- The SYSTEM parameters that stay equal while the unit is switching (R74, R95). -/
def systemHeld : List Nat := (List.range 11).map (0x0101 + ·) ++ [0x010F, 0x0117, 0x0118, 0x0119, 0x011A]

/-- The ARMS parameters that stay equal while the unit is switching: ARM_EN, N_SM and SM_TYPE (R74, R95). -/
def armsHeld : List Nat := [0x0801, 0x0802, 0x0803]

/-- The refusal of R95 between the image in force and the new one: 2 for none, else REF_SAFETY or REF_STRUCT. A SAFETY node without its
identical counterpart is reported as REF_SAFETY, although its row is that of NODES and ROUTES (DESIGN CHOICE: R95 names both codes and
R92's REF_SAFETY says only that SAFETY differs). -/
def commitDiff (s : State) (old new : Image) (sw : Bool) : Nat :=
  if slotSect s old 6 ≠ slotSect s new 6 || !safetyKept old new || !safetyKept new old then 14
  else if !new.swap then 15
  else if sw && !(systemHeld.all (paramSame old new) && armsHeld.all (paramSame old new)
      && [9, 0x0A, 0x0D, 0x0E].all (sectSame old new)) then 15
  else 2

/-- The modes of the partner in which its own commit would be taken (R96, R97). -/
def partnerMay (hb : Heartbeat) : Bool :=
  match Mode.ofCode (hb.mode.toNat % 16) with
  | some m => commitMode m
  | none => false

/-- A partner that is not banked would take the commit itself (R97), as far as its frames tell: its mode allows it, and where it runs the
same image as this unit, that image's differences are none that R95 refuses it. Without the token its valve ports are blocked, so it
switches at most through a direct-drive port that is not under the token. -/
def partnerAgrees (s : State) (hb : Heartbeat) (new : Image) : Bool :=
  let dd := !ddToken s && ((Mode.ofCode (hb.mode.toNat % 16)).map (fun m => m.forms || m = .md11)).getD false
  partnerMay hb && (hb.hash32.toNat ≠ hash32Of (imgOf s) || commitDiff s (imgOf s) new dd = 2)

/-- The partner holds the new image, and can take it up at the same boundary (R97). Of a partner that is not banked, whether a transition,
its own R95 or an abandonment stands against it beyond what its frames show is its own affair, a free value. -/
def partnerReady (s : State) (new : Image) : Bool × State :=
  match s.red.slotRep, s.red.hb with
  | some r, some hb =>
    if !(r.valid && r.hash = new.hash) then (false, s)
    else if r.banked then (true, s)
    else if !(r.staged && partnerAgrees s hb new) then (false, s)
    else let (b, s) := freshBelow s 2; (b = 0, s)
  | _, _ => (false, s)

/-- The outcome of a commit at its boundary, before anything changes: 2, or the refusal of R92. `sw` is whether the unit is switching. -/
def commitCheck (s : State) (solo sw : Bool) : Nat × State :=
  if commitAsk s ≠ 2 then (commitAsk s, s)
  else
    match s.img.other with
    | none => (18, s)
    | some new =>
      let d := commitDiff s (imgOf s) new sw
      if d ≠ 2 then (d, s)
      else if tokenHeld s && s.red.hbHere && !solo then
        let (ok, s) := partnerReady s new
        (if ok then 2 else 17, s)
      else (2, s)

/-! ### What comes into force -/

/-- N_SM and SM_TYPE of the six arms. -/
def mapArmsOf (img : Image) : List (Nat × Nat) := (List.range 6).map (fun a => (pNatAt img 0x0802 a, pNatAt img 0x0803 a))

/-- The failed map of an arm is cleared, and MAP_CLEARED is raised for it (R169). -/
def mapClear (s : State) (a : Nat) : State :=
  let clear := fun (r : Rdl) => { r with failed := r.failed.filter (fun x => x.1 / 512 ≠ a), dirty := true }
  raise { s with rdl := clear s.rdl, rdlOld := clear s.rdlOld } fnRDL 11 a 0

/-- The failed map follows the arms of the image in force: an arm whose N_SM or SM_TYPE differs from those under which the map was
made loses its map (R169). -/
def mapArms (s : State) : State :=
  let new := mapArmsOf (imgOf s)
  let old := s.peat.mapArms
  let s := if new = old then s else peatWrite s [.failedMap] (fun p => { p with mapArms := new })
  if old = [] then s
  else (List.range 6).foldl (fun s a => if nth (0, 0) old a = nth (0, 0) new a then s else mapClear s a) s

/-- The state of RED follows a changed PAIR while nothing switches (R338, R339): a single unit that holds the token goes on as the holder. -/
def redFollow (s : State) : State :=
  match s.red.state, pairUnit s with
  | .single, true =>
    let s1 := redSet (redGo s (if s.red.tok then .holder else .standby)) (fun r => { r with tok := false, gone := s.tim.loc })
    if s.red.tok then raise (regInc s1 0xE0048 31 16) fnRED 0 0 0 else s1
  | .standby, false => redGo s .single
  | .claiming, false => redSet (redGo s .single) (fun r => { r with takeOpen := false })
  | .released, false => redGo s .single
  | .holder, false => redSet (redGo s .single) (fun r => { r with tok := true })
  | _, _ => s

/-- What follows the image in force, for the sections in which it differs from the one before (R27, R95, R199, R251, R291, R336). -/
def sectsFollow (s : State) (old : Image) : State :=
  let new := imgOf s
  let diff := fun ty => !sectSame old new ty
  let s := { s with sys := { s.sys with tickCode := pNat new 0x0106 } }
  let s := if diff 0x0D then domsEval (timLoad s) else s
  let s := mapArms s
  let s := if diff 9 || diff 8 || diff 0x0E then crdStart s else s
  let s := if diff 0x0A then chSrcImage s else s
  let s := if diff 0x0B then chainsNew s old else s
  let s := if diff 0x0E then redFollow s else s
  fioEval s

/-- What follows a reload of the image in force: the chains keep their settings where MEAS is the same. -/
def imageFollow (s : State) (old : Image) : State :=
  sectsFollow (if sectSame old (imgOf s) 0x0B then s else fltLoad s) old

/-- What follows a commit, whose MEAS section sets every chain (R291). -/
def commitFollow (s : State) (old : Image) : State := sectsFollow (fltLoad s) old

/-- The cells of the new image: a node that keeps its counterpart's cell has it, and every other node waits for its soft-start (R94). -/
def cellsMoved (cells : Tab Cell) (old new : Image) : Tab Cell :=
  let names := namedNodes old
  (namedNodes new).foldl (fun t x =>
    match keeps names x with
    | some o => tabSet Cell.fresh t x.2.id (tabGet Cell.fresh cells o.id)
    | none => t) []

/-- The staged plane comes into force (R94 to R98). The old image stays in its plane, which is no longer staged. -/
def commitMake (s : State) : State :=
  match s.img.other with
  | none => s
  | some new =>
    let old := imgOf s
    let slot := s.img.stSlot
    let fab := { s.fab with cells := cellsMoved s.fab.cells old new }
    let s := { s with fab := fab }
    let s := imgSet s (fun i => { i with plane := 1 - i.plane, live := some new, other := i.live, state := 0 })
    let s := peatWrite (secSet s (fun c => { c with active := slot })) [.bootSel] (fun p => { p with bootSlot := slot })
    slotChanged (commitFollow s old)

/-- A commit at its boundary with the outcome already found; a refused or abandoned one leaves the plane staged (R98, R99). -/
def commitEnd (s : State) (outcome : Nat) : State :=
  let s := commitLog s outcome
  let s := imgSet s (fun i => { i with commit := none, status := outcome, state := if i.state = 3 then 2 else i.state })
  if outcome = 2 then commitMake s else s

/-- A host COMMIT that waits for its boundary ends there with an outcome. -/
def hostCommitEnd (s : State) (outcome : Nat) : State := if s.img.commit.isSome then commitEnd s outcome else s

/-- A staging in place is discarded with ABORTED, and with it a commit that waits for its boundary (R93, R99). -/
def stageDrop (s : State) : State :=
  if s.img.state = 0 then s
  else slotChanged (imgSet (hostCommitEnd s 19) (fun i => { i with state := 0, status := 19, commit := none }))

/-- The outcome of a commit at its boundary, where a decision of the same boundary may abandon it (R98). -/
def commitJudge (s : State) (solo abandon : Bool) : Nat × State := if abandon then (19, s) else commitCheck s solo (switching s)

/-- A banked unit whose partner has committed the image of its inactive slot switches its active and boot slots, and its plane copy is to
be rebuilt (R97, R352). -/
def bankedCommit (s : State) (k : Nat) : State :=
  let old := imgOf s
  let new := readImage k (imgSlotOf s k).bytes
  let s := commitEntries s 2 k (some new) (matchCounts old new)
  let s := imgSet s (fun i => { i with live := some new, other := some old, state := 0 })
  let s := peatWrite (secSet s (fun c => { c with active := k })) [.bootSel] (fun p => { p with bootSlot := k })
  slotChanged (redSet (commitFollow s old) (fun r => { r with copyOk := false }))

/-- The partner that holds the token commits the image of this unit's inactive slot at this boundary (R97): a banked unit switches its slots; any
other commits the slot it holds staged, judged in its own mode. -/
def partnerCommit (s : State) (abandon : Bool) : State :=
  let k := 1 - s.sec.active
  if !(s.red.hbHere && !tokenHeld s && (imgSlotOf s k).valid && s.img.live.isSome) then s
  else if s.sys.mode = .md3 then bankedCommit s k
  else if s.img.state = 2 && s.img.stSlot = k then
    let (c, s) := commitJudge s true abandon
    commitEnd s c
  else s

end Sys2Proof.Machine
end

