-- ==== Sys2Proof/Machine/Modes.lean ====
section
/-!
DEFINITION. The mode controller: what a change of mode does, the vote at a tick boundary, mode requests, safe stop, module reset and the
replicas (R41 to R56, R370).
-/
namespace Sys2Proof.Machine

/-- The mode controller with some of its fields changed. -/
def sysSet (s : State) (f : Sys → Sys) : State := { s with sys := f s.sys }

/-! ### Rows of the transition table (R44, R49) -/

/-- Place of a row in the table. -/
def Row.place : Row → Nat
  | .toReset => 0 | .resetDone => 1 | .kindleLaid => 2 | .kindleSafe => 3 | .kindleHalt => 4 | .bank => 5 | .unbank => 6 | .claimed => 7
  | .precharge => 8 | .service => 9 | .liveClosed => 10 | .liveOpen => 11 | .deadClosed => 12 | .prechargeBack => 13 | .prechargeLimit => 13
  | .rampDone => 14 | .inrush => 15 | .closed => 16 | .syncBack => 17 | .syncLimit => 17 | .faultForm => 18 | .gridLoss => 19
  | .faultIsland => 20 | .resync => 21 | .recovered => 22 | .rtLimit => 23 | .stop => 24 | .handback => 25 | .blockRelease => 26
  | .serviceEnd => 27 | .serviceLimit => 27 | .safe => 28 | .reset => 29

/-- Rank of a cause that is not a request (R49). -/
def Row.rank : Row → Nat
  | .safe | .reset => 2
  | .blockRelease => 3
  | .claimed | .handback => 4
  | _ => 5

/-- The row starts in a mode. -/
def Row.from (r : Row) (m : Mode) : Bool :=
  match r with
  | .claimed | .unbank => m = .md3
  | .bank | .precharge | .service => m = .md2
  | .liveClosed | .liveOpen | .deadClosed | .prechargeLimit | .prechargeBack => m = .md4
  | .rampDone | .inrush => m = .md5
  | .closed | .syncLimit | .syncBack => m = .md6
  | .faultForm | .gridLoss => m = .md7
  | .faultIsland | .resync => m = .md9
  | .recovered | .rtLimit => m = .md8
  | .stop | .handback => m.forms
  | .blockRelease => m.blockable
  | .serviceEnd | .serviceLimit => m = .md11
  | .reset => m = .md10
  | _ => false

/-- SYS_MODE.CAUSE of a row taken without a request (R52). The rows that R44 gives the causes INRUSH and RT_LIMIT read 5, automatic (DESIGN
CHOICE: R52 has no code of these names, and R49 lists time limits among the automatic transitions). -/
def Row.cause : Row → Nat
  | .blockRelease => 7
  | .claimed | .handback => 8
  | .reset => 9
  | .safe => 6
  | _ => 5

/-- SYS_MODE.CAUSE of a request. -/
def Origin.cause : Origin → Nat
  | .pf0 => 2
  | .pf1 => 3
  | .entry _ => 4

/-- Rank of a request (R49). -/
def Origin.rank : Origin → Nat
  | .entry _ => 6
  | .pf0 => 7
  | .pf1 => 8

/-- Index by which scheduled entries of the same rank are ordered. -/
def Origin.sub : Origin → Nat
  | .entry k => k
  | _ => 0

/-! ### Status of a request (R52, R53) -/

/-- The final statuses: all but HELD and ACCEPTED. -/
def finalStatus (st : Nat) : Bool := st ≥ 3

/-- A request takes a status: SYS_MODE_RES follows the last one written, a scheduled entry shows it in RES, and the log records the outcome
of a host request. -/
def reqStatus (s : State) (r : Req) (st : Nat) : State :=
  match r.origin with
  | .entry k => { s with sa := updNth s.sa k (fun e => { e with res := st }) }
  | o =>
    let s := if r.num = s.sys.reqNum then sysSet s (fun y => { y with resTarget := r.target, resSeq := r.seq, resStatus := st }) else s
    if finalStatus st then
      logNow s fnSYS 0x81 (argAt 0 r.target + argAt 1 r.seq + argAt 2 st + argAt 3 (if o = .pf1 then 1 else 0))
    else s

/-- The request whose transition is in progress takes a final status. -/
def liveEnd (s : State) (st : Nat) : State :=
  match s.sys.live with
  | none => s
  | some r => reqStatus (sysSet s (fun y => { y with live := none })) r st

/-- The transition in progress completes (R48, R52). -/
def transDone (s : State) : State := liveEnd (sysSet s (fun y => { y with trans := none })) 3

/-- The transition in progress is overridden, and its entry action abandoned (R50). -/
def transAbandon (s : State) : State :=
  if s.sys.trans.isNone then s
  else liveEnd (sysSet { s with swg := { s.swg with cond := { s.swg.cond with stop := false } } } (fun y => { y with trans := none })) 9

/-! ### Entry actions (R41, R42, R46, R48) -/

/-- The functions whose windows close in MD_3 (R383). -/
def bankedOff : List Nat := [fnETH, fnSTK, fnBLK, fnFAB, fnSWG, fnRDL, fnCRD, fnGGD, fnPWM, fnADC, fnFLT, fnREC, fnFIO]

/-- The registers of the functions that MD_3 powers down keep only their RWS bits (R383). -/
def regsBank (s : State) : State :=
  { s with regs := bankedOff.foldl (fun t fn => regsFrst fn (fun _ => false) t) s.regs }

/-- The ricks and the bulk store as MD_3 keeps them: 12, 14 and 15 stay (R408, R417). -/
def memBank (s : State) : State :=
  let keep := fun (a : Nat) => decide (0xC00000 ≤ a) && decide (a < 0x1000000) && !(decide (0xD00000 ≤ a) && decide (a < 0xE00000))
  { s with mem := { s.mem with
      dev := s.mem.dev.filter (fun x => keep x.1), blkReady := false, scrub := false
      pwr := (List.range 16).map (fun k => if k < 12 || k = 13 then 0 else nth 2 s.mem.pwr k) } }

/-- The ricks on the way out of MD_3: RKS_PWR is restored, and rick 13 comes up zeroed (R408, R409). -/
def memWake (s : State) : State :=
  let w := regGet s 0x60010
  let want := fun (k : Nat) => if k < 12 then field w (2 * k + 1) (2 * k) else 2
  { s with mem := { s.mem with
      pwr := (List.range 16).map (fun k => if k < 12 || k = 13 then (if want k = 2 then 3 else want k) else nth 2 s.mem.pwr k) } }

/-- The control domains are powered down (R41, R42, R352). -/
def bankDown (s : State) : State :=
  let s := recOff (imgAbort s)
  let s := crdSleep s
  let s := portOff s 3
  let s := fltReset (adcReset s)
  let s := stageDrop s
  let s := { s with
    swg := Swg.reset, swgOld := Swg.reset
    rdl := s.rdl.banked, rdlOld := s.rdl.banked
    fab := { Fab.reset with idx := s.fab.idx, lastEvt := s.fab.lastEvt, lastNode := s.fab.lastNode } }
  let s := fioReset s
  regsBank (memBank s)

/-- The image that the planes take: that of the plane copy, else that of the active slot in the peat store. -/
def planeImage (s : State) : Image × State :=
  let bytes := (nth ImgSlot.empty s.peat.slots s.sec.active).bytes
  let (c, s) := planeRead s
  (readImage s.sec.active (match c with
    | some bs => planePatch bytes (planeSects (imgOf s)) bs
    | none => bytes), s)

/-- The control domains are powered up (R44, R355): the planes come from the plane copy, or from the active slot where that is not current. -/
def bankUp (s : State) : State :=
  let old := imgOf s
  let s := if s.img.live.isSome then (let (img, s) := planeImage s; { s with img := { s.img with live := some img } }) else s
  let s := sectsFollow (memWake s) old
  let s := chSrcImage (fltLoad s)
  { s with rdl := rdlSoftStart s.rdl, rdlOld := rdlSoftStart s.rdl, fab := { s.fab with cells := [], before := [] } }

/-- What a change of mode does in each function. `claim` is whether MD_3 ends through a claim, `wait` whether MD_3 must first let a
blocking frame go out. -/
def modeHooks (s : State) (old new : Mode) (claim wait : Bool) : State :=
  let s := { s with swg := { s.swg with cond := { s.swg.cond with stop := false } } }
  let s := rdlClose s
  let s := if old = .md4 then rdlGo (capExit (rdlEnv s)) s else s
  let s := if old = .md11 then rdlGo (idEnd 6) s else s
  let s := preGoes (preMode old.code new.code (old.forms && new = .md3)) s
  let s := if old = .md4 && (new = .md5 || new = .md6 || new = .md7) then swgWait s (new ≠ .md7) else s
  let s := if new = .md4 && pNat (imgOf s) 0x0813 = 1 && s.rdl.run.isNone then rdlBoth (idStart true 0) s else s
  let s := if old = .md3 then bankUp s else s
  let s := if new = .md3 then s else crdMode s old new claim
  let s := if old = .md1 || (old = .md3 && !s.red.pwr) then adcStart s else s
  let s := if old = .md1 || old = .md3 then fioStart (redSet s (fun r => { r with pwr := false })) else s
  let s := if old = .md11 then chSrcImage s else s
  let s := stkMode s old new
  let s := if new = .md3 then planeCopyWrite s else s
  let s := if new = .md3 && !wait then bankDown s else s
  let s := if new = .md2 then redSet s (fun r => { r with takeDue := true }) else s
  tpcFollow (portSettle (fioEval (domsEval s)))

/-- The transition that an entry to a mode leaves in progress (R48). -/
def transOf (old new : Mode) (claim : Bool) : Option Trans :=
  if new = .md3 then some .toBanked
  else if old = .md3 then some (if claim && new.forms then .restore else .fromBanked)
  else if new = .md4 || new = .md5 || new = .md6 then some .firstCommand
  else none

/-- The token is released with the blocking frame of the next boundary (R46, R348), with a cause as the heartbeat codes it. -/
def releaseDue (s : State) (cause : Nat) : State :=
  if !tokenHeld s || s.sys.blockNext then s
  else
    let s := if pairUnit s && s.sys.mode.forms then snapCapture s true else s
    sysSet s (fun y => { y with blockNext := true, relCause := cause })

/-- The mode becomes `new` (R44, R48): `cause` is SYS_MODE.CAUSE, `rel` the cause of a release that goes with it. -/
def modeEnter (s : State) (new : Mode) (cause : Nat) (claim : Bool) (rel : Option Nat) : State :=
  let old := s.sys.mode
  let s := match rel with
    | some c => releaseDue s c
    | none => s
  let before_ := if new = .md6 then (if old = .md4 then Mode.md4 else Mode.md9) else s.sys.before6
  let s := sysSet s (fun y => { y with
    mode := new, prev := old, cause := cause, before6 := before_, trans := transOf old new claim })
  modeHooks s old new claim s.sys.blockNext

/-- The entry of a transition in the event log, with the boundary at which it was decided (R53). -/
def transLog (s : State) (cur : Mode) (cause : Nat) : State :=
  logBound s fnSYS 0x80 (argAt 0 s.sys.mode.code + argAt 1 cur.code + argAt 2 cause)

/-- A host stop has ended, at zero current references or at its limit (R45, R46). -/
def stopEnd (s : State) (forced : Bool) : State :=
  let s := if forced then logBound s fnSYS 0x87 0 else s
  let code := match s.sys.live with
    | some r => r.origin.cause
    | none => s.sys.cause
  let rel := if pNat (imgOf s) 0x010E = 0 then none else some 2
  transDone (modeEnter s .md2 code false rel)

/-- Every current reference is at zero: the ceilings that bound them are. -/
def stopDone (s : State) : Bool := s.swg.cond.stop && s.swg.mach.ip = 0 && s.swg.mach.inn = 0

/-! ### Requests (R50, R51) -/

/-- A valve port counts as UP for the transition to MD_4: its state is UP and its arm is not short (R182). -/
def portsReady (s : State) : Bool :=
  (List.range 6).all (fun a => !armOn (imgOf s) a || ((portOf s a).state = 4 && !(armOf s.rdl a).short))

/-- The row of a request from the mode in force, by its target (R44, R51). A target that R44 reaches from the mode only by an automatic row
or a reaction has no row for a request, and ends REF_PATH (DESIGN CHOICE: R51 matches by the To column, and R52 leaves open whether such
a row is a transition whose condition is not met). -/
def requestRow (s : State) (target : Nat) : Option Row :=
  let m := s.sys.mode
  match Mode.ofCode target with
  | none => none
  | some t =>
    if m = .md2 && t = .md3 then some .bank
    else if m = .md3 && t = .md2 then some .unbank
    else if m = .md2 && t = .md4 then some .precharge
    else if m = .md2 && t = .md11 then some .service
    else if m = .md6 && t = s.sys.before6 then some .syncBack
    else if m = .md9 && t = .md6 then some .resync
    else if m.forms && t = .md2 then some .stop
    else if m = .md11 && t = .md2 then some .serviceEnd
    else none

/-- The condition of a request's row (R44, R132, R352). -/
def requestOk (s : State) (r : Row) : Bool :=
  match r with
  | .bank => !tokenHeld s && decide ((planeCopy s).length ≤ 0x100000)
  | .precharge => s.red.lease && tokenHeld s && !s.sys.blockNext && portsReady s
  | .resync => s.swg.cond.live && s.swg.cond.brkNow = some false && gridSinks (imgOf s)
  | _ => true

/-- A request at its vote: the row it takes, or its refusal. -/
def requestJudge (s : State) (r : Req) : Sum Row Nat :=
  if decide (5 ≤ r.target) && decide (r.target ≤ 9) && !hasSect (imgOf s) 7 then .inr 6
  else
    match requestRow s r.target with
    | none => .inr 5
    | some row => if requestOk s row then .inl row else .inr 6

/-- A request is held until the transition completes; an earlier held one is replaced (R50). -/
def reqHold (s : State) (r : Req) : State :=
  let s := match s.sys.held with
    | some h => reqStatus s h 4
    | none => s
  reqStatus (sysSet s (fun y => { y with held := some r })) r 1

/-- A request arrives (R50, R52): held during a transition, refused in MD_0 and MD_1, and else put to the next vote, where it takes the place of an
earlier one of the same origin. -/
def reqSubmit (s : State) (r : Req) : State :=
  if s.sys.mode = .md0 || s.sys.mode = .md1 then reqStatus s r 5
  else if s.sys.trans.isSome then reqHold s r
  else
    let old := s.sys.requests.filter (fun q => q.origin = r.origin)
    let s := sysSet s (fun y => { y with requests := y.requests.filter (fun q => q.origin ≠ r.origin) ++ [r] })
    old.foldl (fun s q => reqStatus s q 4) s

/-- MODE_REQUEST: a write of SYS_MODE_REQ (R51). SYS_MODE_RES takes its TARGET and SEQ at once (R52); its STATUS reads NONE until the vote
(DEDUCED: none of R52's outcomes has happened yet). -/
def execModeRequest (pf : Pf) (v : Word) (s : State) : Host.Outcome State Fault Refusal :=
  .next (hostAccess (begin s) pf fnSYS (fun s =>
    let t := field v 3 0
    let s := sysSet s (fun y => { y with reqNum := y.reqNum + 1, resTarget := t, resSeq := field v 7 4, resStatus := 0 })
    let r : Req := ⟨t, field v 7 4, if pf = .pf0 then .pf0 else .pf1, s.sys.reqNum⟩
    if field v 31 16 ≠ 0x4D44 then reqStatus (accessErr s pf 0x24 4) r 8
    else if pf = .pf1 ∧ !((decide (4 ≤ t) && decide (t ≤ 9)) || (t = 2 && s.sys.mode.forms)) then reqStatus s r 7
    else reqSubmit s r))

/-! ### Automatic causes (R44, R152, R190) -/

/-- Precharge is complete (R190). -/
def preComplete (s : State) : Bool := s.rdl.pre.state = 4 && portsReady s && s.rdl.acctOk

/-- The automatic transitions whose conditions the last tick formed. -/
def autoCauses (s : State) : List Cause :=
  let c := s.swg.cond
  let closed := c.brkNow = some true
  let open_ := c.brkNow = some false
  let mk := fun (b : Bool) (r : Row) (m : Mode) => if b then [(⟨r, m, none, 0⟩ : Cause)] else []
  match s.sys.mode with
  | .md4 =>
    let p := preComplete s
    mk (p && closed && c.live && s.swg.bus.locked) .liveClosed .md7
      ++ mk (p && open_ && c.live && gridSinks (imgOf s)) .liveOpen .md6
      ++ mk (p && closed && c.dead) .deadClosed .md5
  | .md5 => mk c.rampDone .rampDone .md9
  | .md6 => mk (c.brkState = 5) .closed .md7
  | .md7 => mk c.fault .faultForm .md8 ++ mk (open_ || c.island) .gridLoss .md9
  | .md9 => mk c.fault .faultIsland .md8
  | .md8 =>
    mk (decide (0 < c.clearRun) && decide (pNat (imgOf s) 0x0114 * 1000000 ≤ c.clearRun * tickNs s)) .recovered (if closed && !c.island then .md7 else .md9)
  | _ => []

/-! ### The vote (R47, R49) -/

/-- A candidate of a vote. -/
structure Cand where
  rank   : Nat
  row    : Row
  sub    : Nat
  target : Mode
  cause  : Nat
  req    : Option Req
  seq    : Nat
deriving DecidableEq, Repr

/-- One candidate goes before another: rank, then place in the table, then entry index. -/
def Cand.before (a b : Cand) : Bool :=
  decide (a.rank < b.rank) || (a.rank = b.rank && (decide (a.row.place < b.row.place) || (a.row.place = b.row.place && decide (a.sub < b.sub))))

/-- The best of a list. -/
def bestCand : List Cand → Option Cand
  | [] => none
  | c :: cs =>
    match bestCand cs with
    | none => some c
    | some d => if Cand.before d c then some d else some c

/-- A pending cause as a candidate: its row must start in the mode in force, and a deliberate reset needs the lock-out cleared. -/
def causeCand (s : State) (c : Cause) : Option Cand :=
  if c.row.from s.sys.mode && c.row ≠ .stop && (c.row ≠ .reset || !s.saf.lock) then
    some ⟨c.row.rank, c.row, 0, if c.row = .syncLimit then s.sys.before6 else c.target, c.row.cause, none, c.seq⟩
  else none

/-- A request at the vote: a candidate, a refusal, or held during a transition. -/
def requestCand (x : State × List Cand) (r : Req) : State × List Cand :=
  let (s, cs) := x
  if s.sys.trans.isSome then (reqHold s r, cs)
  else
    match requestJudge s r with
    | .inr st => (reqStatus s r st, cs)
    | .inl row =>
      (s, cs ++ [⟨r.origin.rank, row, r.origin.sub, (Mode.ofCode r.target).getD .md2, r.origin.cause, some r, 0⟩])

/-- The release that goes with a transition, by its row (R46, R348). -/
def rowRelease (s : State) (c : Cand) : Option Nat :=
  match c.row with
  | .handback => some (if c.seq = 1 then 1 else 2)
  | .stop => if pNat (imgOf s) 0x010E = 0 then none else some 2
  | .claimed | .unbank | .reset => none
  | _ => if c.target = .md2 then some (if c.req.isSome then 2 else 3) else none

/-- The winner of a vote takes effect. -/
def candApply (s : State) (c : Cand) : State :=
  let s := transAbandon s
  let s := transLog s c.target c.cause
  let s := match c.req with
    | some r => reqStatus (sysSet s (fun y => { y with live := some r })) r 2
    | none => s
  if c.row = .stop && s.sys.mode ≠ .md4 then
    sysSet { s with swg := { s.swg with cond := { s.swg.cond with stop := true } } } (fun y => { y with trans := some .stopRamp })
  else
    let s := modeEnter s c.target c.cause (c.row = .claimed) (rowRelease s c)
    if s.sys.trans.isNone then transDone s else s

/-- A host stop that has brought its references to zero, or that its limit forces, ends first, as DONE; the other causes of the boundary are
then judged from MD_2 (DESIGN CHOICE: R49 does not rank the end of a stop against the causes of its boundary). -/
def voteStop (s : State) : State :=
  let forced := s.sys.causes.any (fun c => c.row = .stop)
  if s.sys.trans = some .stopRamp && (forced || stopDone s) then stopEnd s forced else s

/-- The requests that come to a vote: those made since the last, after the held one where no transition is in progress. -/
def voteRequests (s : State) : List Req :=
  match s.sys.held with
  | some h => if s.sys.trans.isNone then h :: s.sys.requests else s.sys.requests
  | none => s.sys.requests

/-- The causes and requests are taken up: what is refused ends, and the rest are the candidates of the vote. -/
def voteCands (s : State) : State × List Cand :=
  let causes := s.sys.causes ++ autoCauses s
  let reqs := voteRequests s
  let s := sysSet s (fun y => { y with causes := [], requests := [], held := if y.trans.isNone then none else y.held })
  let (s, cs) := reqs.foldl requestCand (s, [])
  (s, causes.filterMap (causeCand s) ++ cs)

/-- The winner takes effect, and the requests that lost are reported. -/
def voteTake (s : State) (cands : List Cand) : State × Option Row :=
  match bestCand cands with
  | none => (s, none)
  | some w =>
    let losers := cands.filterMap (fun c => if c = w then none else c.req)
    (candApply (losers.foldl (fun s r => reqStatus s r 4) s) w, some w.row)

/-- The vote of a tick boundary: the new state, and the row that won. -/
def vote (s : State) : State × Option Row :=
  if s.sys.mode = .md0 || s.sys.mode = .md1 then (s, none)
  else
    let (s, cands) := voteCands (voteStop s)
    voteTake s cands

/-! ### Time limits (R44, R45) -/

/-- A cause of a row goes to the next vote where the row starts in the mode in force. -/
def rowCause (s : State) (r : Row) (m : Mode) : State := if r.from s.sys.mode then addCause s ⟨r, m, none, 0⟩ else s

/-- PRECHG_LIMIT_EXPIRE: precharge is not complete within its limit. -/
def execPrechgLimitExpire (s : State) : Host.Outcome State Fault Refusal :=
  let s := begin s
  .next (if preComplete s then s else rowCause s .prechargeLimit .md2)

/-- STOP_LIMIT_EXPIRE: a host stop blocks at its limit (R45). -/
def execStopLimitExpire (s : State) : Host.Outcome State Fault Refusal :=
  let s := begin s
  .next (if s.sys.trans = some .stopRamp then addCause s ⟨.stop, .md2, none, 0⟩ else s)

/-- SERVICE_LIMIT_EXPIRE. -/
def execServiceLimitExpire (s : State) : Host.Outcome State Fault Refusal := .next (rowCause (begin s) .serviceLimit .md2)

/-- INRUSH_LIMIT_EXPIRE: the inrush limit has been active for its time in MD_5. -/
def execInrushLimitExpire (s : State) : Host.Outcome State Fault Refusal := .next (rowCause (begin s) .inrush .md2)

/-- RT_LIMIT_EXPIRE. -/
def execRtLimitExpire (s : State) : Host.Outcome State Fault Refusal := .next (rowCause (begin s) .rtLimit .md2)

/-- SYNC_LIMIT_EXPIRE: the mode before MD_6 comes back. -/
def execSyncLimitExpire (s : State) : Host.Outcome State Fault Refusal :=
  let s := begin s
  .next (rowCause s .syncLimit s.sys.before6)

/-- RAMP_TARGET_REACHED. -/
def execRampTargetReached (s : State) : Host.Outcome State Fault Refusal := .next (rowCause (begin s) .rampDone .md9)

/-- FAULT_CONDITION: the fault condition exists in MD_7 or MD_9 (R158). -/
def execFaultCondition (s : State) : Host.Outcome State Fault Refusal :=
  .next (rowCause (rowCause (begin s) .faultForm .md8) .faultIsland .md8)

/-- RECOVERY_MET: MD_8 ends in MD_7 where the breaker is closed and the grid present, else in MD_9 (R159). -/
def execRecoveryMet (s : State) : Host.Outcome State Fault Refusal :=
  let s := begin s
  let c := s.swg.cond
  .next (rowCause s .recovered (if c.brkNow = some true && !c.island then .md7 else .md9))

/-! ### Safe stop (R370) -/

/-- A scheduled entry ends with a status, and its bit in SYS_SA_DONE is set, which raises vector 23 where none was set (R60, R387). -/
def saEnd (s : State) (k status : Nat) (delay : Word) : State :=
  let old := reg64 s 0x208
  let s := { s with sa := updNth s.sa k (fun e => { e with armed := false, status := status, delay := delay }) }
  let a := if k < 32 then 0x208 else 0x20C
  let s := regSet s a (regGet s a ||| at_ 1 (k % 32))
  if old = 0 then msixBoth s 23 else s

/-- The SA_DONE entry of a scheduled entry (R60). -/
def saLog (s : State) (k : Nat) : State :=
  let e := nth SaEntry.empty s.sa k
  logNow s fnSYS 0x83 (argAt 0 k + argAt 1 e.status + argAt 2 e.res + argAt 4 e.delay.toNat)

/-- An entry is cancelled (R65). -/
def saCancel (s : State) (k : Nat) : State := saLog (saEnd s k 6 0) k

/-- Every armed entry is cancelled. -/
def saCancelAll (s : State) : State :=
  (List.range 64).foldl (fun s k => if (nth SaEntry.empty s.sa k).armed then saCancel s k else s) s

/-- A safe block demand (flag 0) or a safe-stop reaction (flag 1) takes effect, with the CAUSE of SAF_STAT (R370). In MD_1 it waits for the
end of Kindle (R372). A host commit that waits for its boundary is abandoned (R98, R372). -/
def safeStop (s : State) (flag cause : Nat) : State :=
  if s.sys.mode = .md0 then s
  else if s.sys.mode = .md1 then { s with saf := { s.saf with due := s.saf.due ||| 2 ^ cause } }
  else
    let s := regInc (raise s fnSAF flag 0 0) 0x140048 15 0
    let s := regPut s 0x140010 31 28 cause
    let s := { s with saf := { s.saf with lock := true } }
    if s.sys.mode = .md10 then s
    else
      let (late, s) := freshBelow s 2
      let s := transAbandon (hostCommitEnd s 19)
      let s := transLog s .md10 6
      let s := if s.sys.mode.forms && tokenHeld s && pairUnit s && !s.sys.blockNext then snapCapture s true else s
      let s := sysSet s (fun y => { y with
        late := late = 1 && !y.blockNext, blockNext := y.blockNext || late ≠ 1, relCause := if y.blockNext then y.relCause else 4 })
      let s0 := s
      let s := modeEnter s .md10 6 false none
      redEval s0 (fioEval (saCancelAll s))

/-! ### MD_0 and the way out of it (R44, R54) -/

/-- MD_0 begins: every volatile state is lost; the peat store, the levels at the pins, the field die, the management port and the commands that
wait stay, and every output is sent its OUT_SAFE level (R44, R446, R452). -/
def enterMd0 (s : State) : State :=
  let s := peatCut s
  fioEval { State.reset with
    pending := s.pending, free := s.free, out := s.out, peat := s.peat
    mon := { Mon.reset with
      rails := s.mon.rails, resetN := s.mon.resetN, strap := s.mon.strap, live := s.mon.live, lat := s.mon.lat, fresh := s.mon.fresh
      seq := s.mon.seq, ptr := s.mon.ptr, busy := s.mon.busy, served := s.mon.served }
    fio := fioMd0 s
    red := { Red.reset s.red.unitSel with tknIn := s.red.tknIn }
    saf := { Saf.reset with sbA := s.saf.sbA, sbB := s.saf.sbB, btn := s.saf.btn, rstate := if s.saf.btn then .pressed else .released }
    ggd := { Ggd.reset with ht := s.ggd.ht }
    clk := { Clk.reset with refOk := s.clk.refOk, rosc := !s.clk.refOk, refMode := s.clk.refMode } }

/-- MD_0 ends where every supply is valid, RESET_N is high and the synthesiser is locked: Kindle starts (R44). A HARD_TRIP that has stayed
active locks the direct-drive port (R257). -/
def leaveMd0 (s : State) : State :=
  if s.sys.mode = .md0 && s.mon.rails = 0 && s.mon.resetN && s.clk.state = 2 then
    let s := sysSet s (fun y => { y with mode := .md1, prev := .md0, cause := 0 })
    let s := { s with sec := { s.sec with attWait := 10000000000 } }
    let s := regPut s 0x10010 0 0 (b2n s.clk.refMode)
    let s := logNow s fnSYS 0x80 (argAt 1 1)
    let s := fioEval (fioSet s (fun f => { f with cut := false }))
    if s.ggd.ht then hardTrip s else s
  else s

/-- The synthesiser leaves OFF where no cause of MD_0 stands and REFCLK is present (R318). -/
def clkTry (s : State) : State :=
  if s.clk.state = 0 && s.mon.rails = 0 && s.mon.resetN && s.clk.refOk then { s with clk := { s.clk with state := 1 } } else s

/-- MODULE_RESET: a write of SYS_MRST (R54). A write from PF1 with a wrong KEY ends REF_ACCESS (DESIGN CHOICE: R54 gives both statuses and no
order; the access rule of R19 is judged before the content of the write). -/
def execModuleReset (pf : Pf) (v : Word) (s : State) : Host.Outcome State Fault Refusal :=
  .next (hostAccess (begin s) pf fnSYS (fun s =>
    let refuse := fun (s : State) (st : Nat) =>
      logNow (sysSet s (fun y => { y with reqNum := y.reqNum + 1, resTarget := 0, resSeq := 0, resStatus := st })) fnSYS 0x88 (argAt 0 st)
    let m := s.sys.mode
    if pf = .pf1 then refuse (accessErr s pf 0x30 1) 7
    else if field v 31 16 ≠ 0x4D52 then refuse s 8
    else if !bit v 0 then s
    else if !((m = .md1 && s.sys.halt) || m = .md2 || m = .md3 || m = .md10 || m = .md11) || switching s then refuse s 6
    else clkTry (sysSet (enterMd0 s) (fun y => { y with mrst := true }))))

/-! ### The replicas (R55, R56) -/

/-- The TMR entry: replica mask and action. -/
def tmrLog (s : State) (mask action : Nat) : State := logNow s fnSYS 0x84 (argAt 0 mask + argAt 1 action)

/-- Safe stop because no majority is left; it lasts until MD_0 (R374). -/
def tmrStop (s : State) (mask : Nat) : State :=
  safeStop (tmrLog { s with tmr := { s.tmr with dead := true } } mask 2) 1 7

/-- TMR_REPLICA_DIFFER: one replica differs from the other two, or from the only other one in two-of-two (R55). -/
def execTmrReplicaDiffer (rep : Fin 3) (s : State) : Host.Outcome State Fault Refusal :=
  let s := begin s
  if s.sys.mode = .md0 ∨ s.tmr.fenced = some rep ∨ s.tmr.dead then .next s
  else if s.tmr.fenced.isSome then .next (tmrStop s (2 ^ rep.val))
  else
    match s.tmr.masked with
    | some m => .next (if m = rep then s else tmrStop s (2 ^ rep.val))
    | none =>
      let s := regInc s 0x40 31 16
      let s := regPut s 0x40 2 0 (2 ^ rep.val)
      let recent := match nth none s.tmr.resync rep with
        | some t => decide (s.sys.tickCnt ≤ t + 1000)
        | none => false
      if recent then
        let s := { s with tmr := { s.tmr with fenced := some rep } }
        .next (tmrLog (regPut s 0x40 10 8 (2 ^ rep.val)) (2 ^ rep.val) 1)
      else .next (tmrLog { s with tmr := { s.tmr with masked := some rep } } (2 ^ rep.val) 0)

/-- TMR_TWO_OF_TWO_DIFFER. -/
def execTmrTwoOfTwoDiffer (s : State) : Host.Outcome State Fault Refusal :=
  let s := begin s
  .next (if s.tmr.fenced.isSome ∧ !s.tmr.dead ∧ s.sys.mode ≠ .md0 then tmrStop s (7 - 2 ^ ((s.tmr.fenced.map (·.val)).getD 0)) else s)

/-- TMR_NO_MAJORITY. -/
def execTmrNoMajority (s : State) : Host.Outcome State Fault Refusal :=
  let s := begin s
  .next (if s.tmr.dead ∨ s.sys.mode = .md0 then s else tmrStop s 7)

/-- The masked replica is overwritten from the majority at a tick boundary (R55). -/
def tmrResync (s : State) : State :=
  match s.tmr.masked with
  | none => s
  | some r => { s with tmr := { s.tmr with masked := none, resync := setNth s.tmr.resync r (some s.sys.tickCnt) } }

end Sys2Proof.Machine
end

