-- ==== Sys2Proof/Machine/Sched.lean ====
section
/-!
DEFINITION. Scheduled actions (R57 to R66, R74): arming, what is due at a tick boundary, each action, PARAM, and the restore of a snapshot
(R354).
-/
namespace Sys2Proof.Machine

/-! ### The entries as the host writes them (R57 to R59, R65) -/

/-- ACTION of an entry. -/
def SaEntry.action (e : SaEntry) : Nat := field e.ctl 7 4

/-- Action time in ns. -/
def SaEntry.time (e : SaEntry) : Nat := (e.secl.toNat + field e.sech 15 0 * 2 ^ 32) * 1000000000 + e.ns.toNat

/-- A write of SYS_SA_CTL_k. -/
def saCtlWrite (s : State) (pf : Pf) (k : Nat) (v : Word) : State :=
  let a := 0x1000 + 0x20 * k + 0xC
  let e := nth SaEntry.empty s.sa k
  let put := fun (f : SaEntry → SaEntry) => { s with sa := updNth s.sa k f }
  if 60 ≤ k then accessErr s pf a 3
  else if e.armed then
    if bit v 0 then accessErr s pf a 3 else put (fun e => { e with armed := false, status := 0 })
  else
    let ctl := v &&& 0xFFFFF0F2
    if !bit v 0 then put (fun e => { e with ctl := ctl })
    else if e.ns.toNat > 999999999 ∨ field v 31 12 > 1000000 ∨ field v 7 4 > 6 then put (fun e => { e with ctl := ctl, status := 5, res := 0 })
    else put (fun e => { e with ctl := ctl, armed := true, status := 1, res := 0, delay := 0 })

/-- SA_ARM: a write of SYS_SA_CTL_k with ARM = 1. -/
def execSaArm (pf : Pf) (k : Fin 64) (v : Word) (s : State) : Host.Outcome State Fault Refusal :=
  .next (hostAccess (begin s) pf fnSYS (fun s => saCtlWrite s pf k v))

/-- SA_DISARM: a write of SYS_SA_CTL_k with ARM = 0. -/
def execSaDisarm (pf : Pf) (k : Fin 64) (v : Word) (s : State) : Host.Outcome State Fault Refusal :=
  .next (hostAccess (begin s) pf fnSYS (fun s => saCtlWrite s pf k v))

/-- A write of one of the other words of an entry, by its offset; the last two are read-only. -/
def saWordWrite (s : State) (pf : Pf) (k off : Nat) (v : Word) : State :=
  let e := nth SaEntry.empty s.sa k
  if 60 ≤ k || e.armed then accessErr s pf (0x1000 + 0x20 * k + off) 3
  else
    { s with sa := updNth s.sa k (fun e =>
        match off with
        | 0 => { e with ns := v }
        | 4 => { e with secl := v }
        | 8 => { e with sech := v &&& 0xFFFF }
        | 0x10 => { e with arg := v }
        | 0x14 => { e with val := v }
        | _ => e) }

/-! ### PARAM (R58, R74) -/

/-- A PARAM action on a parameter is refused whatever its value (R74); SYS_TB changes by an image alone (R323). -/
def paramHeld (s : State) (pid : Nat) : Bool :=
  let sw := switching s
  (decide (0x0101 ≤ pid) && decide (pid ≤ 0x010B)) || pid = 0x0D01
    || (sw && (systemHeld.contains pid || armsHeld.contains pid || [9, 0x0D, 0x0E].contains (pid / 256)))
    || (pid / 256 = 0x0A && mayStat s)

/-- What follows a changed MEAS parameter: its field of the registers, or its tap (R291); the others act from the image. -/
def measFollow (s : State) (p : ParamRec) : State :=
  let img := imgOf s
  let i := p.index
  let cfg := fun hi lo => regPut s (fltA i 0) hi lo (field (imgCfg img i) hi lo)
  match p.pid with
  | 0x0B02 => cfg 14 13
  | 0x0B03 => cfg 16 15
  | 0x0B04 => cfg 19 17
  | 0x0B05 => cfg 9 0
  | 0x0B07 => cfg 21 21
  | 0x0B08 => cfg 28 24
  | 0x0B09 => cfg 23 23
  | 0x0B0B => cfg 20 20
  | 0x0B0C => fltLoadBank img s i
  | 0x0B0D => fltLoadTap s p
  | 0x0B0E => regSet s (fltA i 0x10) (at_ (ofSigned 24 (pIntAt img 0x0B0E i)) 0)
  | 0x0B0F => regSet s (fltA i 0x14) (at_ (ofSigned 24 (pIntAt img 0x0B0F i)) 0)
  | 0x0B10 => regSet s (fltA i 0x18) (at_ (pNatAt img 0x0B10 i) 0)
  | 0x0B11 => regPut s 0x110018 31 31 (pNat img 0x0B11)
  | 0x0B12 => regPut s 0x110018 25 21 (pNat img 0x0B12)
  | 0x0B13 => regPut s 0x110018 19 0 (pNat img 0x0B13)
  | _ => s

/-- PARAM writes a value to the parameter that a symbol names: whether it was carried out. -/
def paramAction (s : State) (sym : Nat) (v : Word) : Bool × State :=
  match s.img.live with
  | none => (false, s)
  | some img =>
    match symParam img sym with
    | none => (false, s)
    | some p =>
      let new := paramWritten p v
      let img' := { img with params := img.params.map (fun q => if q = p then new else q) }
      if s.sys.mode = .md3 || paramHeld s p.pid || !paramKept img' new then
        (false, if p.pid / 256 = 7 && s.sys.mode ≠ .md3 && !paramKept img' new then raise s fnSWG 11 0 0 else s)
      else
        let s := imgSet s (fun i => { i with live := some img' })
        let s := if p.pid / 256 = 0x0B then measFollow s new else s
        (true, sectsFollow s img)

/-! ### One boundary (R60 to R64) -/

/-- What the passes over the due entries share. -/
structure SaRun where
  st     : State
  modes  : List Nat              -- MODE entries that ran: their log entry follows the vote
  commit : List (Nat × Nat)      -- IMAGE_COMMIT entries that run: index and STATUS
  params : List (Nat × Nat)      -- PARAM entries that run: index and STATUS

/-- STATUS that an entry's time gives it at boundary t (R60): 2 DONE, 3 LATE, 4 EXPIRED. -/
def saTiming (e : SaEntry) (tPrev t : Nat) : Nat :=
  if tPrev < e.time then 2 else if t - e.time ≤ field e.ctl 31 12 * 1000 then 3 else 4

/-- DELAY of an entry processed at boundary t. -/
def saDelay (e : SaEntry) (t : Nat) : Word := BitVec.ofNat 32 (min (t - e.time) 0xFFFFFFFF)

/-- The close window opens as entry 60 runs: the pulse starts, and the engine takes note (R156, R442). -/
def breakerRun (s : State) (e : SaEntry) : State :=
  let s := driveN9 s (e.arg.toNat % 16) true
  let env := swgEnv s
  let t := s.sys.bound + pNat (imgOf s) 0x072D + pNat (imgOf s) 0x072E
  let m := s.swg.mach
  let s := { s with swg := { s.swg with cond := { s.swg.cond with brkState := 4, winEnd := some t } } }
  swgEffect s (.breaker 1 m.dth (slip env s.swg.grd m))

/-- Entry 60 has ended EXPIRED (R156). -/
def breakerExpired (s : State) : State :=
  let env := swgEnv s
  let m := s.swg.mach
  let s := { s with swg := { s.swg with cond := { s.swg.cond with brkState := 2 } } }
  raise (swgEffect s (.breaker 2 m.dth (slip env s.swg.grd m))) fnSWG 7 0 0

/-- The action of an entry that runs with a status and is not left for after the vote. A MODE entry ends DONE or LATE once its request is
made, and RES tells what became of the request, refusals among it (DESIGN CHOICE: R60 gives an entry that runs DONE or LATE, and R64 has
REFUSED where the mode does not allow the effect). -/
def saAction (r : SaRun) (k status : Nat) (d : Word) (e : SaEntry) : SaRun :=
  let fin := fun (s : State) (st : Nat) => { r with st := saLog (saEnd s k st d) k }
  let s := r.st
  match e.action with
  | 1 =>
    let s := saEnd s k status d
    if r.modes ≠ [] then
      { r with st := saLog { s with sa := updNth s.sa k (fun e => { e with status := 7, res := 4 }) } k }
    else { r with st := reqSubmit s ⟨field e.arg 3 0, 0, .entry k, 0⟩, modes := [k] }
  | 2 =>
    let (ok, s) := fioAction s (at_ (field e.arg 15 0) 16 ||| at_ (field e.val 15 0) 0)
    fin s (if ok then status else 5)
  | 3 =>
    if s.sys.mode = .md3 then fin s 5
    else
      let (ok, s) := softTrig s (field e.arg 7 0)
      fin s (if ok then status else 5)
  | 4 => { r with commit := r.commit ++ [(k, status)] }
  | 5 => { r with params := r.params ++ [(k, status)] }
  | 6 =>
    let (ok, s) := tbStepEntry s (field e.arg 1 0) (toSigned 32 e.val.toNat)
    fin s (if ok then status else 5)
  | 7 => { r with st := breakerRun (fin s status).st e }
  | 8 => { r with st := hbkRun (fin s status).st }
  | _ => fin s status

/-- One entry at boundary t: processed where it is armed and due. -/
def saStep (tPrev t : Nat) (r : SaRun) (k : Nat) : SaRun :=
  let s := r.st
  let e := nth SaEntry.empty s.sa k
  if !e.armed || t < e.time then r
  else
    let d := saDelay e t
    let status := saTiming e tPrev t
    if status = 4 then
      let s := saLog (saEnd s k 4 d) k
      { r with st := if k = 60 then breakerExpired s else if k = 61 then hbkExpired s else s }
    else if bit e.ctl 1 && !(tbOf s (sysTb s)).trace then { r with st := saLog (saEnd s k 8 d) k }
    else saAction r k status d e

/-- Every due entry at boundary t, in ascending order; what waits for the vote is left in the lists. With no two replicas left that agree, no
output of the unit is used (R55): nothing runs. -/
def saRun (s : State) (tPrev t : Nat) : SaRun :=
  if s.tmr.dead then ⟨s, [], [], []⟩ else (List.range 64).foldl (saStep tPrev t) ⟨s, [], [], []⟩

/-- An entry whose action came after the vote ends with its outcome. -/
def saLate (s : State) (k status : Nat) : State :=
  let e := nth SaEntry.empty s.sa k
  if e.armed then saLog (saEnd s k status (saDelay e s.sys.bound)) k else s

/-- The PARAM entries of a boundary, in index order (R62, R98). -/
def saParams (s : State) (l : List (Nat × Nat)) : State :=
  l.foldl (fun s x =>
    let e := nth SaEntry.empty s.sa x.1
    if !e.armed then s
    else
      let (ok, s) := paramAction s (field e.arg 13 0) e.val
      saLate s x.1 (if ok then x.2 else 5)) s

/-- One IMAGE_COMMIT entry at its boundary: it commits the slot it names where that is staged. An entry whose commit is refused or abandoned
ends REFUSED (DESIGN CHOICE for the abandoned one: R57 has no status for it, and R98 has REFUSED for the entry that finds nothing staged). -/
def saCommit (abandon : Bool) (s : State) (x : Nat × Nat) : State :=
  let named := decide (field (nth SaEntry.empty s.sa x.1).arg 0 0 = s.img.stSlot)
  let (c, s) := if named || abandon then commitJudge s false abandon else (18, s)
  saLate (commitEnd s c) x.1 (if c = 2 then x.2 else 5)

/-- The commits of a boundary (R96 to R98): the lowest IMAGE_COMMIT entry that can makes the commit, a host commit at the same boundary ends
SUPERSEDED, and a decision for MD_10, MD_8 or block and release abandons either. -/
def saCommits (s : State) (l : List (Nat × Nat)) (abandon : Bool) : State :=
  match s.img.commit with
  | none => l.foldl (saCommit abandon) s
  | some solo =>
    if l = [] then (let (c, s) := commitJudge s solo abandon; commitEnd s c)
    else fabStatus (l.foldl (saCommit abandon) (commitEnd s 20)) 20

/-- The log entries of the MODE entries, once the vote has given their RES. -/
def saModes (s : State) (l : List Nat) : State := l.foldl saLog s

/-! ### Restore (R354) -/

/-- Node cells of the XFORM nodes that a snapshot carries: decomposition buffer and stage exponent, without a fill count. -/
def restoreCells (bs : List Byte) : Tab Cell :=
  (List.range 32).foldl (fun t e =>
    let o := 0x650 + 24 * e
    let id := leAt bs o 2
    if id = 0xFFFF then t
    else tabSet Cell.fresh t id { Cell.fresh with
      stage := toSigned 8 (leAt bs (o + 2) 1), hist := (List.range 4).map (fun k => toSigned 32 (leAt bs (o + 4 + 4 * k) 4)), act := 0, evald := true, soft := false }) []

/-- The failed map of a snapshot, for the submodules that exist. -/
def restoreMap (img : Image) (bs : List Byte) : Tab Nat :=
  (List.range 3072).foldl (fun t k =>
    let b := leAt bs (0x50 + k / 2) 1
    let v := if k % 2 = 0 then b % 16 else b / 16
    if armOn img (k / 512) && decide (k % 512 < armSms img (k / 512)) then tabSet 0 t k v else t) []

/-- One scheduled entry of a snapshot: armed again, or CANCELLED where its time has passed. -/
def restoreSa (bs : List Byte) (s : State) (k : Nat) : State :=
  let o := 0x950 + 24 * k
  let w := fun j => BitVec.ofNat 32 (leAt bs (o + 4 * j) 4)
  let e : SaEntry := { SaEntry.empty with
    ns := w 0, secl := w 1, sech := w 2, ctl := w 3 &&& 0xFFFFF0F2, arg := w 4, val := w 5, armed := bit (w 3) 0, status := b2n (bit (w 3) 0) }
  let s := { s with sa := setNth s.sa k e }
  if e.armed && decide (e.time ≤ s.sys.bound) then saCancel s k else s

/-- A usable snapshot is restored as its mode is voted. -/
def restoreApply (s : State) (bs : List Byte) : State :=
  let q := Config.engineFrac
  let w := alignBy (toSigned 32 (leAt bs 0x028 4)) ((q : Int) - 28)
  let s := swgWait s false
  let img := imgOf s
  let r := s.rdl
  let arms := (List.range 6).map (fun a =>
    let c := leAt bs (0x030 + 4 * a) 4
    { armOf r a with cCount := c / 2 ^ 20 % 1024, cVal := (c % 2 ^ 20 : Nat) * 2 ^ q })
  let s : State := { s with
    swg := { s.swg with cond := { s.swg.cond with seedW := some w } }
    rdl := { rdlSoftStart r with arms := arms, failed := restoreMap img bs, dirty := true }
    fab := { s.fab with cells := restoreCells bs } }
  let s := if 5 ≤ s.sys.mode.code then preGoes preHold s else s
  (List.range 60).foldl (restoreSa bs) s

end Sys2Proof.Machine
end

