-- ==== Sys2Proof/Machine/Saf.lean ====
section
/-!
DEFINITION. The safe block function: inputs, discrepancy, couplers, the deliberate reset, commissioning and proof hours (R366 to R380).
-/
namespace Sys2Proof.Machine

/-- SAF with some of its fields changed. -/
def safSet (s : State) (f : Saf → Saf) : State := { s with saf := f s.saf }

/-- Channel A is in demand: its input is, or its coupler has failed (R367, R369). -/
def Saf.chanA (f : Saf) : Bool := f.sbA || f.cplA

/-- Channel B is in demand. -/
def Saf.chanB (f : Saf) : Bool := f.sbB || f.cplB

/-- A demand of either channel (R367, R369). -/
def inDemand (f : Saf) : Bool := f.chanA || f.chanB

/-- CV_OK (R376). -/
def cvOk (s : State) : Bool :=
  match s.img.live, s.peat.checkVal with
  | some i, some v => i.cv = v.toNat
  | _, _ => false

/-- CAUSE that the inputs give: 1 SB_A, 2 SB_B, 3 both, 0 neither. -/
def inputCause (f : Saf) : Nat := b2n f.sbA + 2 * b2n f.sbB

/-- Every outcome in SAF_RST_RES writes an entry (R380). -/
def rstRes (s : State) (st : Nat) : State := logNow (safSet s (fun f => { f with res := st })) fnSAF 0x80 (argAt 0 st)

/-- What follows a change of the inputs: a demand that begins while no channel is in demand takes effect (R370, R372; DESIGN CHOICE: the
second input of the one-out-of-two pair to enter demand is the same demand). -/
def demandEdge (s0 s : State) : State := if inDemand s.saf && !inDemand s0.saf then safeStop s 0 (inputCause s.saf) else s

/-- DISC clears once both inputs have been in demand together and have then both left it (R368). -/
def discEval (s : State) : State :=
  safSet s (fun f =>
    let both := f.discBoth || (f.disc && f.chanA && f.chanB)
    if f.disc && both && !f.chanA && !f.chanB then { f with disc := false, discBoth := false } else { f with discBoth := both })

/-- SB_INPUT: an input enters or leaves demand. -/
def execSbInput (ch : SafeCh) (demand : Bool) (s : State) : Host.Outcome State Fault Refusal :=
  let s := begin s
  .next (demandEdge s (discEval (safSet s (fun f => match ch with
    | .a => { f with sbA := demand }
    | .b => { f with sbB := demand }))))

/-- SB_DISCREPANCY: the channels have disagreed for longer than SB_DISC (R368), which is a safe-stop reaction of its own whatever stands
already (R365, R370). -/
def execSbDiscrepancy (s : State) : Host.Outcome State Fault Refusal :=
  let s := begin s
  if s.sys.mode = .md0 ∨ s.saf.chanA = s.saf.chanB then .next s
  else .next (safeStop (raise (safSet s (fun f => { f with disc := true, discBoth := false })) fnSAF 3 0 0) 1 4)

/-- One coupler's test: two consecutive failures set CPL, and 100 consecutive passes clear it. -/
def couplerStep (pass : Bool) (cpl : Bool) (fail passes : Nat) : Bool × Nat × Nat :=
  if pass then (cpl && decide (passes + 1 < 100), 0, min (passes + 1) 100) else (cpl || decide (1 ≤ fail), min (fail + 1) 2, 0)

/-- COUPLER_TEST: the outcome of one test of both couplers (R369). A coupler that is found failing is a demand of its own. -/
def execCouplerTest (passA passB : Bool) (s : State) : Host.Outcome State Fault Refusal :=
  let s0 := begin s
  if s0.sys.mode = .md0 then .next s0
  else
    let f := s0.saf
    let (ca, fa, pa) := couplerStep passA f.cplA f.failA f.passA
    let (cb, fb, pb) := couplerStep passB f.cplB f.failB f.passB
    let s := safSet s0 (fun f => { f with cplA := ca, failA := fa, passA := pa, cplB := cb, failB := fb, passB := pb })
    let s := if ca && !f.cplA then raise s fnSAF 4 0 0 else s
    let s := if cb && !f.cplB then raise s fnSAF 4 1 0 else s
    .next (discEval (if (ca && !f.cplA) || (cb && !f.cplB) then safeStop s 0 5 else s))

/-! ### The deliberate reset (R374, R375) -/

/-- The button becomes STUCK. -/
def rstStuck (s : State) : State := raise (safSet s (fun f => { f with rstate := .stuck })) fnSAF 5 0 0

/-- RST_SAFE_PRESS. -/
def execRstSafePress (s : State) : Host.Outcome State Fault Refusal :=
  let s := begin s
  let s := safSet s (fun f => { f with btn := true })
  .next (match s.saf.rstate with
    | .released => safSet s (fun f => { f with rstate := .pressed })
    | .pressed => s
    | .stuck => rstRes s 7)

/-- RST_STUCK: still pressed after 5 s. -/
def execRstStuck (s : State) : Host.Outcome State Fault Refusal :=
  let s := begin s
  .next (if s.saf.rstate = .pressed then rstStuck s else s)

/-- RST_STUCK_CLEAR: released continuously for 1 s. -/
def execRstStuckClear (s : State) : Host.Outcome State Fault Refusal :=
  let s := begin s
  .next (if s.saf.rstate = .stuck && !s.saf.btn then safSet s (fun f => { f with rstate := .released }) else s)

/-- A safe-stop reaction is present: a SAFETY COMP stands in TRIP, or the replicas have no majority (R374). -/
def reactionHere (s : State) : Bool :=
  s.tmr.dead || (imgOf s).nodes.any (fun r => r.type = 1 && nodeSafety r && decide ((tabGet Cell.fresh s.fab.cells r.id).act = 3))

/-- The status of a valid press that asks for a reset: 2, or the first failing condition's (R374). -/
def resetJudge (s : State) : Nat :=
  let f := s.saf
  if !f.ack then 8
  else if s.sys.mode ≠ .md10 then 4
  else if f.chanA || f.chanB then 5
  else if f.disc then 6
  else if f.cplA || f.cplB then 13
  else if !cvOk s then 10
  else if reactionHere s then 14
  else 2

/-- A valid press ends: it completes a confirmation, or is judged as a deliberate reset (R374, R376). -/
def pressJudge (s : State) : State :=
  if s.saf.confArm then
    let v := BitVec.ofNat 32 (imgOf s).cv
    rstRes (peatWrite (safSet s (fun f => { f with confArm := false })) [.checkValue] (fun p => { p with checkVal := some v })) 12
  else
    let st := resetJudge s
    if st ≠ 2 then rstRes s st
    else
      let s := safSet s (fun f => { f with lock := false, ack := false })
      let s := raise (regInc s 0x140048 31 16) fnSAF 2 0 0
      fioEval (addCause (rstRes s 2) ⟨.reset, .md2, none, 0⟩)

/-- RST_SAFE_RELEASE: released after a press of ms milliseconds (R375). -/
def execRstSafeRelease (ms : Nat) (s : State) : Host.Outcome State Fault Refusal :=
  let s := safSet (begin s) (fun f => { f with btn := false })
  if s.saf.rstate ≠ .pressed then .next s
  else if 5000 < ms then .next (rstStuck s)
  else
    let s := safSet s (fun f => { f with rstate := .released })
    .next (if ms < 200 then rstRes (safSet s (fun f => { f with shorts := f.shorts + 1 })) 9 else pressJudge s)

/-- A write of SAF_RST_CTL by PF0 with its key. -/
def rstCtl (s : State) (pf : Pf) (key : BitVec 16) (f : State → State) : State :=
  hostPf0 s pf 0x140020 (fun s => if key ≠ 0x5352 then rstRes s 3 else f s)

/-- SAF_ACK. -/
def execSafAck (pf : Pf) (key : BitVec 16) (s : State) : Host.Outcome State Fault Refusal :=
  .next (rstCtl (begin s) pf key (fun s => rstRes (safSet s (fun f => { f with ack := true })) 1))

/-- SAF_CANCEL. -/
def execSafCancel (pf : Pf) (key : BitVec 16) (s : State) : Host.Outcome State Fault Refusal :=
  .next (rstCtl (begin s) pf key (fun s => safSet s (fun f => { f with ack := false })))

/-- ACK_EXPIRE: ACK_WIN has passed. -/
def execAckExpire (s : State) : Host.Outcome State Fault Refusal :=
  let s := begin s
  .next (if s.saf.ack then rstRes (safSet s (fun f => { f with ack := false })) 11 else s)

/-- CV_CONFIRM: a write of SAF_CV_CTL (R377). -/
def execCvConfirm (pf : Pf) (key : BitVec 16) (s : State) : Host.Outcome State Fault Refusal :=
  .next (hostPf0 (begin s) pf 0x140028 (fun s =>
    if key ≠ 0x4356 then rstRes s 3
    else if s.sys.mode ≠ .md10 then rstRes s 4
    else
      match s.img.live with
      | none => rstRes s 10
      | some i => if i.cv = (regGet s 0x14002C).toNat then rstRes (safSet s (fun f => { f with confArm := true })) 1 else rstRes s 10))

/-- CV_CONFIRM_EXPIRE: ACK_WIN has passed without a valid press. -/
def execCvConfirmExpire (s : State) : Host.Outcome State Fault Refusal :=
  let s := begin s
  .next (if s.saf.confArm then rstRes (safSet s (fun f => { f with confArm := false })) 11 else s)

/-- 8,760 hours since the last self-test raise PROOF_DUE, once (R366). -/
def proofJudge (s : State) : State :=
  if s.peat.proof < 8760 || s.saf.proofDue then s else raise (safSet s (fun f => { f with proofDue := true })) fnSAF 6 0 0

/-- The hours of operation advance by ns of CK_AON (R366); a whole hour goes to the peat store. -/
def proofTime (s : State) (ns : Nat) : State :=
  let h := s.saf.hour + ns
  let s := safSet s (fun f => { f with hour := h % 3600000000000 })
  if h < 3600000000000 then s else proofJudge (peatWrite s [.proofHours] (fun p => { p with proof := p.proof + h / 3600000000000 }))

/-- PROOF_DUE: the count of hours has reached 8,760 (R366). -/
def execProofDue (s : State) : Host.Outcome State Fault Refusal :=
  let s := begin s
  .next (if s.sys.mode = .md0 then s else proofJudge s)

/-- The CAUSE with which Kindle ends in MD_10, 0 where it ends in MD_2: what is in demand then, and what was demanded during MD_1 (R44, R372),
in the order of R370. -/
def kindleCause (s : State) : Nat :=
  let f := s.saf
  let a := f.sbA || f.due.testBit 1 || f.due.testBit 3
  let b := f.sbB || f.due.testBit 2 || f.due.testBit 3
  if a || b then b2n a + 2 * b2n b
  else if f.due.testBit 4 then 4
  else if f.cplA || f.cplB || f.due.testBit 5 then 5
  else if !cvOk s then 6
  else if f.due.testBit 7 then 7
  else 0

/-- The safe block function at the end of Kindle (R44, R372, R375, R376): the CAUSE with which MD_10 is entered, 0 where MD_2 is. -/
def safKindle (s : State) : Nat × State :=
  let s := if s.saf.rstate = .pressed then rstStuck s else s
  let c := kindleCause s
  let s := safSet s (fun f => { f with due := 0 })
  if c = 0 then (0, s)
  else
    let s := regInc (raise s fnSAF (if 6 ≤ c then 1 else 0) 0 0) 0x140048 15 0
    (c, safSet (regPut s 0x140010 31 28 c) (fun f => { f with lock := true }))

end Sys2Proof.Machine
end

