-- ==== Sys2Proof/Machine/Security.lean ====
section
/-!
DEFINITION. The security engine beside the image slots (R420 to R429): peat store lines, anti-rollback counters, the key table, microcode
slots, recovery, and the end of Kindle.
-/
namespace Sys2Proof.Machine

/-! ### Peat store lines (R421, R423) -/

/-- PEAT_LINE_WRITE_DONE: a bank has written a line and read it back; a line that fails is retired, and the write is repeated (R421, R422). -/
def execPeatLineWriteDone (kind : PeatKind) (ok : Bool) (s : State) : Host.Outcome State Fault Refusal :=
  let s0 := begin s
  .next (if s0.sys.mode = .md0 || !clocked s0 then s0
    else
      match s0.peat.banks.find? (fun l => l.kind = kind) with
      | none => s0
      | some l =>
        let s := lineWorn s0 l
        redEval s0 (if ok then lineDone s l else lineLost s l))

/-! ### Anti-rollback counters (R424) -/

/-- The modes in which SEC_ARC_CTL and SEC_KEY_CTL are accepted (R424, R426). -/
def arcMode (m : Mode) : Bool := m = .md2 || m = .md10 || m = .md11

/-- ARC_ADVANCE: the new value is in force once its line is stored. -/
def execArcAdvance (pf : Pf) (key : BitVec 16) (idx : Fin 64) (s : State) : Host.Outcome State Fault Refusal :=
  .next (hostPf0 (begin s) pf 0x90020 (fun s =>
    let v := (regGet s 0x90024).toNat
    let res := fun (st : Nat) => secSet s (fun c => { c with arcRes := st })
    if s.sec.arcRes = 1 then s
    else if key ≠ 0x4143 then res 3
    else if !arcMode s.sys.mode then res 4
    else if idx.val < 8 ∨ v ≤ tabGet 0 s.peat.arc idx.val then res 5
    else peatWrite (secSet s (fun c => { c with arcRes := 1, arcPend := some (idx.val, v) })) [.arc] (fun p => p)))

/-! ### The key table (R425, R426) -/

/-- A key record's fields, apart from the entry's keys. -/
def keyRecordOk (s : State) (bs : List Byte) : Bool :=
  let cmd := leAt bs 4 1
  bs.take 4 = ascii "NLKY" && (cmd = 1 || cmd = 2) && decide (leAt bs 5 1 < 4) && leAt bs 6 2 = 0 && sliceBytes bs 8 16 = ownSerial
    && leAt bs 0x18 4 = tabGet 0 s.peat.arc 2 + 1 && leAt bs 0x1C 4 = 0 && allZero (sliceBytes bs 0x81 3) && allZero (sliceBytes bs 0xBC 4)
    && (cmd = 1 || (allZero (sliceBytes bs 0x20 97) && allZero (sliceBytes bs 0x84 56)))

/-- Both signatures of a key record verify under one enabled entry other than the one it names. -/
def keySigned (s : State) (bs : List Byte) : Bool :=
  let signed := bs.take 192
  let sb := sigBlock bs 192
  bs.length = 2304 && sigFields sb 192
    && (keyEntries s).any (fun e => e.1 ≠ leAt bs 5 1 && ecdsaUnder signed sb e.2 && lmsUnder signed sb e.2)

/-- The key table after an accepted change. -/
def keyTableAfter (keys : Tab KeyEntry) (bs : List Byte) : Tab KeyEntry :=
  let e := leAt bs 5 1
  if leAt bs 4 1 = 1 then tabInsert keys e ⟨sliceBytes bs 0x20 97, sliceBytes bs 0x84 56⟩ else tabErase keys e

/-- A key change: its result code, and its effect where it is accepted (R426). `open_` is whether an empty table takes an ENROLL. -/
def keyChange (s : State) (bs : List Byte) (open_ : Bool) : Nat × State :=
  let free_ := open_ && s.peat.keys = [] && leAt bs 4 1 = 1 && decide (192 ≤ bs.length)
  if !keyRecordOk s bs then (5, s)
  else if !free_ && !keySigned s bs then (6, s)
  else if keyTableAfter s.peat.keys bs = [] then (5, s)
  else
    let s := peatSet s (fun p => arcPut { p with keys := keyTableAfter p.keys bs } 2 (tabGet 0 p.arc 2 + 1))
    (2, raise (recNow s .arc) fnSEC 1 0 0)

/-- A key change whose record was to be read from host memory. A closed rick 13 ends it as a failed read does (DESIGN CHOICE). -/
def keyCommand (s : State) (dmaOk : Bool) (bs : List Byte) (open_ : Bool) : Nat × State :=
  if !dmaOk then (8, dmaLost s)
  else
    let (st, s) := devAsk s 4 0xD00000 0x100000 true
    if st ≠ 0 then (8, s) else keyChange (sec13Clear s) bs open_

/-- KEY_APPLY: a key change at SEC_KEY_SRC, with the bytes that stand there. -/
def execKeyApply (pf : Pf) (key : BitVec 16) (dmaOk : Bool) (bytes : List Byte) (s : State) : Host.Outcome State Fault Refusal :=
  .next (hostPf0 (begin s) pf 0x90050 (fun s =>
    let (st, s) :=
      if key ≠ 0x4B59 then (3, s)
      else if !arcMode s.sys.mode then (4, s)
      else keyCommand s dmaOk (padTo 2304 bytes) false
    secSet s (fun c => { c with keyRes := st })))

/-! ### Microcode (R427, R428) -/

/-- Microcode slot k. -/
def ucSlotOf (s : State) (k : Nat) : ImgSlot := nth ImgSlot.empty s.peat.uc k

/-- Microcode slot k takes a new content. -/
def ucSlotPut (s : State) (k : Nat) (x : ImgSlot) : State := peatWrite s [.slotState] (fun p => { p with uc := setNth p.uc k x })

/-- The result of step 3 of R427 for a bundle: 2, 5 for its header or build, 6 for its digest or signatures. -/
def ucCheck (s : State) (slot : Nat) (bs : List Byte) (len : Nat) : Nat :=
  let n := imgSig bs
  let sb := sigBlock bs n
  let signed := bs.take n
  let k : KeyEntry := ⟨(Config.bundleKeys bs).1, (Config.bundleKeys bs).2⟩
  if !(decide (len ≤ 0x100000) && hdrOk (ascii "NLMC") bs len && targetOk bs slot (fun a => a = 0) && buildOk s bs) then 5
  else if !(hashOk bs && sigFields sb n && sha384 k.ecdsa = Config.romEcdsaDigest && sha384 k.lms = Config.romLmsDigest
      && ecdsaUnder signed sb k && lmsUnder signed sb k) then 6
  else 2

/-- SEC_UC_STAT. -/
def ucStatus (s : State) (st : Nat) : State := secSet s (fun c => { c with ucStat := st })

/-- A write of SEC_UC_CTL by PF0 with its key. -/
def ucCtl (s : State) (pf : Pf) (key : BitVec 16) (f : State → State) : State :=
  hostPf0 s pf 0x90070 (fun s => if key ≠ 0x5543 then ucStatus s 3 else f s)

/-- W7 is at work for SEC. -/
def secBusy (s : State) : Bool := s.sec.imgState ≠ 0 || s.sec.ucLoading.isSome || s.sec.rcv.isSome

/-- W7 takes billets again. -/
def secFree (s : State) : State :=
  let (u, s) := stamp s
  settle s u 7

/-- UC_LOAD: the slot that is not running is empty from the start of the command. -/
def execUcLoad (pf : Pf) (key : BitVec 16) (slot : Fin 2) (s : State) : Host.Outcome State Fault Refusal :=
  .next (ucCtl (begin s) pf key (fun s =>
    if secBusy s then ucStatus s 1
    else if !secMode s.sys.mode then ucStatus s 4
    else if slot.val = s.sec.ucSlot then ucStatus s 7
    else
      secSet (loadLines (ucSlotPut s slot ImgSlot.empty) (2 + slot) (regF s 0x90110 23 0))
        (fun c => { c with ucStat := 1, ucLoading := some slot.val, imgLen := regF s 0x90110 23 0 })))

/-- A microcode load in progress ends with a result. -/
def ucEnd (s : State) (st : Nat) : State := secFree (secSet (loadOver s) (fun c => { c with ucLoading := none, ucStat := st }))

/-- UC_LOAD_DONE: the host read and the checks are complete. -/
def execUcLoadDone (dmaOk : Bool) (bytes : List Byte) (s : State) : Host.Outcome State Fault Refusal :=
  let s := begin s
  .next (match s.sec.ucLoading with
    | none => s
    | some k =>
      if !clocked s then s
      else if !dmaOk then dmaLost (ucEnd s 8)
      else
        secUse s (fun _ s => ucEnd s 8) (fun s =>
          let bs := loadBytes s.sec.imgLen bytes
          let st := ucCheck s k bs s.sec.imgLen
          ucEnd (if st = 2 then ucSlotPut s k ⟨bs, true, false⟩ else s) st))

/-- UC_BOOT_NEXT. -/
def execUcBootNext (pf : Pf) (key : BitVec 16) (slot : Fin 2) (s : State) : Host.Outcome State Fault Refusal :=
  .next (ucCtl (begin s) pf key (fun s =>
    if s.sec.ucLoading.isSome then ucStatus s 1
    else if !secMode s.sys.mode then ucStatus s 4
    else if !(ucSlotOf s slot).valid then ucStatus s 7
    else ucStatus (peatWrite s [.bootSel] (fun p => { p with bootUc := slot.val })) 2))

/-- UC_CONFIRM: counter 0 advances to the BUILD of the running bundle. -/
def execUcConfirm (pf : Pf) (key : BitVec 16) (s : State) : Host.Outcome State Fault Refusal :=
  .next (ucCtl (begin s) pf key (fun s =>
    if s.sec.ucLoading.isSome then ucStatus s 1
    else if s.sys.mode = .md1 then ucStatus s 4
    else
      let k := s.sec.ucSlot
      let s := peatWrite s [.slotState] (fun p => { p with uc := updNth p.uc k (fun x => { x with confirmed := true }) })
      ucStatus (arcRaise s 0 (leAt (ucSlotOf s k).bytes 0x28 4)) 2))

/-! ### Recovery (R429) -/

/-- SEC_RCV_RES. -/
def rcvStatus (s : State) (st : Nat) : State := secSet s (fun c => { c with rcvRes := st })

/-- A write of SEC_RCV_CTL by PF0 with its key, in halted MD_1 and while no recovery command runs. -/
def rcvCtl (s : State) (pf : Pf) (key : BitVec 16) (f : State → State) : State :=
  hostPf0 s pf 0x90030 (fun s =>
    if s.sec.rcv.isSome then rcvStatus s 1
    else if key ≠ 0x5256 then rcvStatus s 3
    else if !(s.sys.mode = .md1 && s.sys.halt) then rcvStatus s 4
    else f s)

/-- LOAD_IMAGE. -/
def execLoadImage (pf : Pf) (key : BitVec 16) (slot : Fin 2) (s : State) : Host.Outcome State Fault Refusal :=
  .next (rcvCtl (begin s) pf key (fun s =>
    secSet (loadLines (imgSlotPut s slot ImgSlot.empty) slot (regF s 0x90110 23 0))
      (fun c => { c with rcvRes := 1, rcv := some (true, slot.val), imgLen := regF s 0x90110 23 0 })))

/-- LOAD_UCODE. -/
def execLoadUcode (pf : Pf) (key : BitVec 16) (slot : Fin 2) (s : State) : Host.Outcome State Fault Refusal :=
  .next (rcvCtl (begin s) pf key (fun s =>
    secSet (loadLines (ucSlotPut s slot ImgSlot.empty) (2 + slot) (regF s 0x90110 23 0))
      (fun c => { c with rcvRes := 1, rcv := some (false, slot.val), imgLen := regF s 0x90110 23 0 })))

/-- A recovery load in progress ends with a result. -/
def rcvEnd (s : State) (st : Nat) : State := secFree (secSet (loadOver s) (fun c => { c with rcv := none, rcvRes := st }))

/-- The result code of a recovery load, from the status of R92 that its checks gave. -/
def rcvCode (st : Nat) : Nat := if st = 2 then 2 else if 7 ≤ st ∧ st ≤ 9 then 6 else 5

/-- RECOVERY_LOAD_DONE: the slot becomes the boot slot where what it holds verifies. -/
def execRecoveryLoadDone (dmaOk : Bool) (bytes : List Byte) (s : State) : Host.Outcome State Fault Refusal :=
  let s := begin s
  .next (match s.sec.rcv with
    | none => s
    | some (image, k) =>
      if !clocked s then s
      else if !dmaOk then dmaLost (rcvEnd s 8)
      else
        secUse s (fun _ s => rcvEnd s 8) (fun s =>
          let bs := loadBytes s.sec.imgLen bytes
          let st := if image then rcvCode (imgCheck s k bs s.sec.imgLen) else ucCheck s k bs s.sec.imgLen
          let s := if st ≠ 2 then s
            else if image then peatWrite (imgSlotPut s k ⟨bs, true, false⟩) [.bootSel] (fun p => { p with bootSlot := k })
            else peatWrite (ucSlotPut s k ⟨bs, true, false⟩) [.bootSel] (fun p => { p with bootUc := k })
          rcvEnd s st))

/-- ENROLL: a key change as recovery, with the bytes at SEC_IMG_SRC. -/
def execEnroll (pf : Pf) (key : BitVec 16) (dmaOk : Bool) (bytes : List Byte) (s : State) : Host.Outcome State Fault Refusal :=
  .next (rcvCtl (begin s) pf key (fun s =>
    let (st, s) := keyCommand s dmaOk (loadBytes (regF s 0x90110 23 0) bytes) true
    rcvStatus s st))

/-- Kindle starts from step 1 (R320, R429). -/
def kindleStart (s : State) : State :=
  let s := sysSet s (fun y => { y with halt := false })
  secSet s (fun c => { c with bootRes := 0, bootFirst := 0, bootOther := 0, idKnown := false })

/-- RESTART. -/
def execRestart (pf : Pf) (key : BitVec 16) (s : State) : Host.Outcome State Fault Refusal :=
  .next (rcvCtl (begin s) pf key (fun s => rcvStatus (kindleStart s) 2))

/-! ### The end of Kindle (R427, R44) -/

/-- Kindle halts with a result. The row of R44 from MD_1 to MD_1, halted, is no change of the mode: it writes no transition entry, and PREV and
CAUSE stay (DESIGN CHOICE: R53 has an entry for every transition, and R44 lists the halt among them). -/
def kindleHalt (s : State) (res : Nat) : State :=
  secSet (sysSet s (fun y => { y with halt := true })) (fun c => { c with bootRes := res })

/-- A microcode slot passes step 3. -/
def ucRuns (s : State) (k : Nat) : Bool :=
  let x := ucSlotOf s k
  ucCheck s k x.bytes x.bytes.length = 2

/-- The status of R92 of an image slot at step 5. -/
def kindleImage (s : State) (k : Nat) : Nat :=
  let x := imgSlotOf s k
  imgCheck s k x.bytes x.bytes.length

/-- Step 1 of Kindle: the identity record and the system records are read, and with them the retained map, the epoch and the coefficients. -/
def kindleRead (s : State) : State :=
  let s := recsTake (regSet (secSet s (fun c => { c with idKnown := true })) 0x80048 (BitVec.ofNat 32 s.peat.retired))
  calLoad { s with
    rdl := { s.rdl with failed := s.peat.failed, dirty := false }, rdlOld := { s.rdlOld with failed := s.peat.failed, dirty := false }
    red := { s.red with epoch := s.peat.epoch } }

/-- The verified image is loaded (step 6). -/
def kindleLoad (s : State) (slot : Nat) : State :=
  let img := readImage slot (imgSlotOf s slot).bytes
  let s := imgSet (secSet s (fun c => { c with active := slot, bootImg := slot })) (fun i => { i with live := some img, other := none, state := 0 })
  let s : State := { s with
    sys := { s.sys with tickCode := pNat img 0x0106 }
    rdl := rdlSoftStart s.rdl
    rdlOld := rdlSoftStart s.rdl }
  mapArms (chSrcImage (timLoad (fltLoad s)))

/-- Step 6 judges the way out of MD_1 (R44); entry to MD_10 cancels what is armed (R65). CAUSE is 6, the safety path, where a demand or
reaction that came during Kindle leads to MD_10 and not what Kindle itself finds (R55, R372). -/
def kindleLeave (s : State) : State :=
  let laid := inDemand s.saf || !cvOk s
  let (c, s) := safKindle s
  let new := if c = 0 then Mode.md2 else Mode.md10
  let code := if c ≠ 0 && (s.tmr.dead || !laid) then 6 else if s.sys.mrst then 0 else 1
  let s := modeEnter (transLog s new code) new code false none
  redStart (if new = .md10 then saCancelAll s else s)

/-- Steps 5 and 6, with the first and the second image slot tried. -/
def kindleBoot (s : State) : State :=
  let k := s.peat.bootSlot
  let first := kindleImage s k
  let s := secSet s (fun c => { c with bootFirst := first, bootOther := 0 })
  if first = 2 then kindleLeave (kindleLoad (secSet s (fun c => { c with bootRes := 1 })) k)
  else if !(imgSlotOf s (1 - k)).valid then kindleHalt s 5
  else
    let other := kindleImage s (1 - k)
    let s := secSet s (fun c => { c with bootOther := other })
    if other ≠ 2 then kindleHalt s 5
    else kindleLeave (kindleLoad (raise (secSet s (fun c => { c with bootRes := 2 })) fnSEC 0 0 (1 - k)) (1 - k))

/-- KINDLE_DONE, with the outcome of the self-test. Where rick 13 is closed to SEC, nothing can be verified, and Kindle halts at step 3
(DESIGN CHOICE: R427 gives that case no result). -/
def execKindleDone (selfTestOk : Bool) (s : State) : Host.Outcome State Fault Refusal :=
  let s := begin s
  if s.sys.mode ≠ .md1 ∨ s.sys.halt = true ∨ s.clk.state ≠ 2 then .next s
  else
    let s := kindleRead s
    let b := s.peat.bootUc
    let (st, s) := devAsk s 4 0xD00000 0x100000 true
    let s := if st ≠ 0 then s else sec13Clear s
    if st ≠ 0 || !(ucRuns s b || ucRuns s (1 - b)) then .next (kindleHalt s 3)
    else
      let s := secSet s (fun c => { c with ucSlot := if ucRuns s b then b else 1 - b })
      if !selfTestOk then .next (kindleHalt s 4)
      else .next (kindleBoot (peatWrite (safSet s (fun f => { f with hour := 0, proofDue := false })) [.proofHours] (fun p => { p with proof := 0 })))

end Sys2Proof.Machine
end

