-- ==== Sys2Proof/Machine/Memory.lean ====
section
/-!
DEFINITION. Rick power, region registers and the bulk store's patrol (R408, R409, R414, R417, R418).
-/
namespace Sys2Proof.Machine

/-- The stores with some of their fields changed. -/
def memSet (s : State) (f : Mem → Mem) : State := { s with mem := f s.mem }

/-- A range of device addresses loses its contents. -/
def devForget (s : State) (lo hi : Nat) : State :=
  memSet s (fun m => { m with dev := m.dev.filter (fun x => decide (x.1 < lo) || decide (hi ≤ x.1)) })

/-- The power field of a rick takes a value: 0 OFF, 1 RET, 2 ON; 3 is ignored (R409). -/
def rickTo (s : State) (k v : Nat) : State :=
  let put := fun (s : State) (p : Nat) => memSet s (fun m => { m with pwr := setNth m.pwr k p })
  match v with
  | 0 => devForget (put s 0) (0x100000 * k) (0x100000 * (k + 1))
  | 1 => put s 1
  | 2 => if nth 2 s.mem.pwr k = 2 then s else put s 3
  | _ => s

/-- RKS_PWR takes a word: the fields of ricks 12 to 15 read ON, and a field with 3 keeps its value. In MD_3 the ricks stay OFF, and take
their fields on the way out (R408). -/
def rickWrite (s : State) (v : Word) : State :=
  (List.range 12).foldl (fun s k =>
    let w := field v (2 * k + 1) (2 * k)
    if w = 3 then s
    else
      let s := regPut s 0x60010 (2 * k + 1) (2 * k) w
      if s.sys.mode = .md3 then s else rickTo s k w) s

/-- RICK_POWER: a write of RKS_PWR. -/
def execRickPower (pf : Pf) (v : Word) (s : State) : Host.Outcome State Fault Refusal :=
  .next (hostPf0 (begin s) pf 0x60010 (fun s => rickWrite s v))

/-- RICK_POWER_DONE: the rick is accessible; one that came from OFF holds zeros. -/
def execRickPowerDone (rick : Fin 16) (s : State) : Host.Outcome State Fault Refusal :=
  let s := begin s
  .next (if nth 2 s.mem.pwr rick = 3 && clocked s then memSet s (fun m => { m with pwr := setNth m.pwr rick 2 }) else s)

/-- The bits of a region register that hold something. -/
def rgnMask (w : Nat) : Word := if w = 2 then 7 else 0xFFFFF000

/-- RGN_WRITE: a region register of a master is written, counted and logged (R414). -/
def execRgnWrite (pf : Pf) (m : Fin 7) (k : Fin 16) (w : Fin 3) (v : Word) (s : State) : Host.Outcome State Fault Refusal :=
  let a := 0x61000 + 0x100 * m.val + 0x10 * k.val + 4 * w.val
  .next (hostPf0 (begin s) pf a (fun s =>
    let old := regGet s a
    let new := v &&& rgnMask w
    let s := memSet (regSet s a new) (fun c => { c with rgnGen := (c.rgnGen + 1) % 2 ^ 32 })
    raise (logNow s fnRKS 0x81 (argAt 0 m + argAt 1 k + argAt 2 (4 * w.val) + argAt 4 old.toNat + argAt 8 new.toNat)) fnRKS 3 0 0))

/-! ### Bulk store (R417, R418) -/

/-- The bulk store is powered and clocked (R42, R417); a reset of BLK lasts until it is zeroed (R38). -/
def blkUp (s : State) : Bool :=
  decide (2 ≤ s.sys.mode.code) && s.sys.mode ≠ .md3 && s.clk.state = 2

/-- BLK_READY: the zeroing is complete. -/
def execBlkReady (s : State) : Host.Outcome State Fault Refusal :=
  let s := begin s
  if !blkUp s || s.mem.blkReady then .next s
  else
    let s := memSet (devForget s 0x10000000 0x20000000) (fun m => { m with blkReady := true })
    let (u, s) := stamp s
    .next (settle s u 10)

/-- SCRUB_NOW: a write of BLK_SCRUB_CTL; a PERIOD of 0 is ignored. The reads of the pass wait for the store to be ready (R417). -/
def execScrubNow (pf : Pf) (v : Word) (s : State) : Host.Outcome State Fault Refusal :=
  .next (hostPf0 (begin s) pf 0x70014 (fun s =>
    let s := if field v 7 0 = 0 then s else regPut s 0x70014 7 0 (field v 7 0)
    if bit v 8 then memSet s (fun m => { m with scrub := true }) else s))

/-- SCRUB_PERIOD: the period has elapsed. -/
def execScrubPeriod (s : State) : Host.Outcome State Fault Refusal :=
  let s := begin s
  .next (if s.mem.blkReady && clocked s then memSet s (fun m => { m with scrub := true }) else s)

/-- What a pass over the 2²⁵ groups of the store met is open. -/
def scrubMeet (s : State) : State :=
  let (n, s) := freshBelow s 33554433
  let (m, s) := freshBelow s (33554433 - n)
  let (g, s) := freshBelow s 33554432
  blkErrs s n m (0x10000000 + 8 * g)

/-- SCRUB_DONE: a pass has ended. -/
def execScrubDone (s : State) : Host.Outcome State Fault Refusal :=
  let s := begin s
  .next (if s.mem.scrub && s.mem.blkReady && clocked s then raise (scrubMeet (memSet s (fun m => { m with scrub := false }))) fnBLK 2 0 0 else s)

end Sys2Proof.Machine
end

