-- ==== Sys2Proof/Machine/Clock.lean ====
section
/-!
DEFINITION. The synthesiser, its loss and its restart, the supplies and RESET_N (R317 to R321, R44, R456, R464).
-/
namespace Sys2Proof.Machine

/-- The synthesiser with some of its fields changed. -/
def clkSet (s : State) (f : Clk → Clk) : State := { s with clk := f s.clk }

/-- ADC and FLT stand idle: every chain output carries VALID = 0 (R321). -/
def adcIdle (s : State) : State :=
  { s with adc := { s.adc with chains := s.adc.chains.map (fun c => { c with word := c.word &&& ~~~0x80 }) } }

/-- Every output is gated: the links drop, which moves no tracker by itself (R326), the lanes go dark, the direct-drive port is OFF and the token is released (R319, R320). In MD_3
the valve lanes already sleep. -/
def clkGate (s : State) : State :=
  let s := clkSet s (fun c => { c with gap := true })
  let s := ethDrop s
  let s := if s.sys.mode = .md3 then [48, 49].foldl laneOff s else svcEnd (crdDark s) 3
  let s := tpcFollow (adcIdle (portOff s 3))
  releaseNow s 3

/-- Acquisition restarts (R318, R319). -/
def clkRestart (s : State) : State :=
  clkSet (clkGate (regInc s 0x10048 15 0)) (fun c => { c with state := 1 })

/-- SYNTH_LOCK: every output is ungated; the lanes, the links and the chains start again, and MD_0 may end. -/
def execSynthLock (us : Nat) (s : State) : Host.Outcome State Fault Refusal :=
  let s := begin s
  if s.clk.state ≠ 1 || !s.clk.refOk then .next s
  else
    let s := raise (clkSet s (fun c => { c with state := 2, acqUs := min us 65535 })) fnCLK 0 0 0
    if s.sys.mode = .md0 then .next (leaveMd0 s)
    else
      let (u, s) := stamp (tpcFollow (adcRestart (domsEval (crdStart s))))
      .next (settleAll s u)

/-- SYNTH_ACQ_TIMEOUT: 2 ms without lock; acquisition starts again. -/
def execSynthAcqTimeout (s : State) : Host.Outcome State Fault Refusal :=
  let s := begin s
  .next (if s.clk.state = 1 then raise s fnCLK 3 0 0 else s)

/-- The entry of a loss, with the time of its detection (R320). -/
def lossLog (s : State) : State :=
  if s.clk.lost.isSome then logAt (clkSet s (fun c => { c with lost := none })) s.clk.lossAt fnCLK s.clk.lossBit 0 else s

/-- A loss in LOCKED: the always-on domain acts at once, and the change of mode and the log entry wait for the first boundary. -/
def clkLose (s : State) (b : Nat) : State :=
  let s := lossLog s
  let (u, s) := stamp s
  let s := regInc (setFlag s fnCLK b) 0x10048 31 16
  let s := clkSet s (fun c => { c with state := 3, lost := some s.sys.mode.code, lossAt := u, lossBit := b })
  let s := clkGate s
  if s.sys.mode = .md1 then
    kindleStart (secSet s (fun c => { c with rcv := none, rcvRes := if c.rcv.isSome then 8 else c.rcvRes }))
  else if s.sys.mode = .md3 then s
  else blockRelease s

/-- CLOCK_LOSS: the reference (true) or the lock is lost. On the monitor oscillator no time base is traceable (R322, R328). -/
def execClockLoss (ref : Bool) (s : State) : Host.Outcome State Fault Refusal :=
  let s0 := begin s
  let s := if ref then (List.range 4).foldl (fun s b => setTrace s b false) (clkSet s0 (fun c => { c with refOk := false, rosc := true }))
    else s0
  .next (if s.clk.state = 2 then redEval s0 (clkLose s (if ref then 1 else 2)) else s)

/-- REFCLK_RETURN: REFCLK has been present for 1 ms. -/
def execRefclkReturn (s : State) : Host.Outcome State Fault Refusal :=
  let s := clkSet (begin s) (fun c => { c with refOk := true, rosc := false })
  .next (if s.clk.state = 3 then clkSet s (fun c => { c with state := 1 }) else clkTry s)

/-- A write of a synthesiser register by PF0, in the modes of R319. -/
def clkWrite (s : State) (pf : Pf) (a : Nat) (f : State → State) : State :=
  hostPf0 s pf a (fun s =>
    if s.sys.mode = .md2 || s.sys.mode = .md10 || s.sys.mode = .md11 then f s
    else accessErr (raise s fnCLK 4 0 0) pf a 4)

/-- CLK_CFG_WRITE. -/
def execClkCfgWrite (pf : Pf) (v : Word) (s : State) : Host.Outcome State Fault Refusal :=
  .next (clkWrite (begin s) pf 0x10010 (fun s => redEval s (clkRestart (regPut s 0x10010 0 0 (field v 0 0)))))

/-- CLK_OUT_WRITE: a change of EN of CK_ACQ alone gates or ungates it, and every other accepted write restarts acquisition (R319, R321). -/
def execClkOutWrite (pf : Pf) (k : Fin 7) (v : Word) (s : State) : Host.Outcome State Fault Refusal :=
  let a := 0x10100 + 4 * k.val
  .next (clkWrite (begin s) pf a (fun s =>
    let old := regGet s a
    let en := if k.val = 3 ∧ s.sys.mode = .md11 then bit v 31 else bit old 31
    let only := field v 21 16 = field old 21 16 && en ≠ bit old 31
    let s1 := regPut (regPut s a 21 16 (field v 21 16)) a 31 31 (b2n en)
    if !only then redEval s (clkRestart s1)
    else if en then adcRestart s1 else adcIdle s1))

/-! ### Supplies and RESET_N (R44, R456, R464) -/

/-- MD_0 through a fault of the core rail: whether the logic side could still send OUT_SAFE before its power was gone is open; where it could not,
each output keeps its level until its coupler has been silent for SIL_TIMEOUT (R446). -/
def coreFault (s : State) : State :=
  let (b, s) := freshBelow s 2
  let t := enterMd0 s
  if b = 1 then fioSet t (fun f => { f with cut := true, level := s.fio.level, safe := s.fio.safe }) else t

/-- SUPPLY_FAULT: a rail is outside its reset window. -/
def execSupplyFault (rail : Fin 12) (s : State) : Host.Outcome State Fault Refusal :=
  let s := begin s
  let s := { s with mon := { s.mon with rails := s.mon.rails ||| 2 ^ rail.val } }
  .next (if rail.val = 0 then coreFault s else enterMd0 s)

/-- SUPPLY_VALID: every rail has lain inside its window for 1 ms; from the first time on the management port answers (R451). -/
def execSupplyValid (s : State) : Host.Outcome State Fault Refusal :=
  let s := begin s
  .next (clkTry { s with mon := { s.mon with rails := 0, served := true } })

/-- RESET_N_LOW. -/
def execResetNLow (s : State) : Host.Outcome State Fault Refusal :=
  let s := begin s
  .next (enterMd0 { s with mon := { s.mon with resetN := false } })

/-- RESET_N_RELEASE. -/
def execResetNRelease (s : State) : Host.Outcome State Fault Refusal :=
  let s := begin s
  .next (clkTry { s with mon := { s.mon with resetN := true } })

end Sys2Proof.Machine
end

