-- ==== Sys2Proof/Machine/Frst.lean ====
section
/-!
DEFINITION. Function resets: what may be reset when, what each reset does, and its completion (R36 to R40).
-/
namespace Sys2Proof.Machine

/-- The reset is permitted in the mode, apart from whether the unit switches (R40). -/
def frstMode (s : State) (fn : Nat) : Bool :=
  let m := s.sys.mode
  if fn = fnHIF ∨ fn = fnSAF then false
  else if fn = fnSYS then m = .md2 || m = .md3 || m = .md10
  else if fn = fnTIM ∨ fn = fnBLK ∨ fn = fnFIO then m = .md2 || m = .md3 || m = .md10 || m = .md11
  else if fn = fnCLK ∨ fn = fnRKS ∨ fn = fnPTS ∨ fn = fnSEC then m = .md2 || m = .md10 || m = .md11
  else if fn = fnRED then decide (2 ≤ m.code) && !tokenHeld s
  else decide (2 ≤ m.code)

/-- The functions whose reset is refused while the unit is switching (R40). -/
def frstStill : List Nat := [fnSYS, fnCLK, fnTIM, fnHIF, fnRKS, fnBLK, fnPTS, fnSEC, fnSAF, fnFIO]

/-- The reset is executed where it is asked for now. -/
def frstOk (s : State) (fn : Nat) : Bool := frstMode s fn && !(frstStill.contains fn && switching s)

/-- Window offsets whose registers a reset of the function leaves alone: SYS_FRST and its fellows, the region registers, the ring
registers, and the settings and banks of FLT (R40, R404). -/
def frstKeep (fn off : Nat) : Bool :=
  (fn = fnSYS && decide (0x100 ≤ off) && decide (off < 0x110)) || (fn = fnRKS && decide (0x1000 ≤ off) && decide (off < 0x1700))
    || (fn = fnSTK && decide (0x1000 ≤ off) && decide (off < 0x1800)) || (fn = fnFLT && decide (0x100 ≤ off))

/-- A worker that serves an operation ends it with an error. -/
def workFail (s : State) (w op status : Nat) : State := working s w op (fun _ s => workerResult s w ⟨status, 0, 0, 0⟩)

/-- SYS: the scheduled-action table is emptied. Its registers have taken their reset values before, so the SYS_SA_DONE bits of the entries that
end here stand afterwards (DESIGN CHOICE: R40 gives no order). -/
def frstSys (s : State) : State :=
  let s := saCancelAll s
  { s with sa := List.replicate 64 SaEntry.empty }

/-- CLK: the synthesiser acquires again, and REFMODE takes the level of its strap. -/
def frstClk (s : State) : State := clkRestart (regPut s 0x10010 0 0 (b2n s.clk.refMode))

/-- A copy of worker 10 reaches the ricks and not the bulk store. -/
def copiesRick (s : State) : Bool :=
  match (workerOf s 10).service with
  | some i => decide (argOf i.b 0 < 0x10000000)
  | none => false

/-- RKS: the error counters are cleared, RKS_PWR takes its reset value, and accesses to ricks under way end with an error: copies from and
to them, and reads of the event log in rick 12. -/
def frstRks (s : State) : State :=
  let s := memSet s (fun m => { m with parity := 0, deny := 0 })
  let s := (List.range 12).foldl (fun s k => rickTo s k 2) s
  let s := if copiesRick s then workFail (workFail s 10 4 7) 10 5 7 else s
  workFail s 0 1 7

/-- BLK: the store is zeroed anew, and the recorder loses its records. -/
def frstBlk (s : State) : State :=
  recBlkReset (memSet (devForget s 0x10000000 0x20000000) (fun m => { m with blkReady := false, scrub := false }))

/-- SEC: a load or verification in progress is aborted, and a pending attestation is refused. -/
def frstSec (s : State) : State :=
  let s := imgAbort s
  let s := secSet s (fun c => { c with ucLoading := none, ucStat := 0, arcRes := 0, arcPend := none, keyRes := 0, rcvRes := 0 })
  secFree (workFail s 7 9 5)

/-- FAB: the nodes reload from the active slot, and a staging is discarded with ABORTED (R93). FAB_LAST_EVT and FAB_LAST_NODE read zero
afterwards, and MD_3 (bankDown) keeps them (DESIGN CHOICE: R128 says of neither what the two registers read after it). -/
def frstFab (s : State) : State :=
  let s := stageDrop s
  let old := imgOf s
  let s := imgSet s (fun i => { i with live := i.live.map (fun _ => readImage s.sec.active (imgSlotOf s s.sec.active).bytes) })
  let s := imageFollow s old
  { s with fab := { Fab.reset with idx := s.fab.idx, skew := s.fab.skew } }

/-- SWG: the machine soft-starts from measured values (R151). -/
def frstSwg (s : State) : State := swgWait { s with swg := Swg.reset, swgOld := Swg.reset } false

/-- RDL: a run in progress is aborted, the account is invalid, and the failed map, the identification results, the counts since MD_0 and the
precharge sequence are kept, its timers starting afresh (R183, R188, R189, R198). -/
def frstRdl (s : State) : State :=
  let s := rdlGo (idEnd 6) (rdlClose s)
  let r := s.rdl
  let sms := r.sms.map (fun x => (x.1, { Sm.fresh with changes := x.2.changes, est := x.2.est, dev := x.2.dev }))
  let arms := r.arms.map (fun x => { Arm.reset with cCount := x.cCount, cVal := x.cVal })
  let new := { Rdl.reset with
    sms := sms.filter (fun x => x.2 ≠ Sm.fresh), failed := r.failed, dirty := r.dirty
    pre := { r.pre with run := 0, hist := [], acctBad := 0 }, arms := arms, idStat := r.idStat, idKind := r.idKind, idSeq := r.idSeq
    idFresh := r.idFresh, idSeqLat := r.idSeqLat, idL := r.idL, idCLat := r.idCLat, idLLat := r.idLLat }
  { s with rdl := rdlSoftStart new, rdlOld := rdlSoftStart new }

/-- The effect of a reset on its function. -/
def frstEffect (s : State) (fn : Nat) : State :=
  match fn with
  | 0 => frstSys s
  | 1 => frstClk s
  | 2 => timReset s
  | 3 => ethReset s
  | 5 => stkReset s
  | 6 => frstRks s
  | 7 => frstBlk s
  | 9 => frstSec s
  | 10 => frstFab s
  | 11 => frstSwg s
  | 12 => frstRdl s
  | 13 => crdReset s
  | 14 => redReset s
  | 15 => ggdReset s
  | 16 => pwmReset s
  | 17 => adcReset s
  | 18 => fltReset s
  | 19 => recReset s
  | 21 => fioReset s
  | 22 => monReset s
  | _ => s

/-- Block and release of a reset while the unit is switching (R40). -/
def frstReact (s : State) (fn : Nat) : State :=
  if !switching s then s
  else if fn = fnFAB ∨ fn = fnSWG ∨ fn = fnRDL ∨ fn = fnCRD ∨ fn = fnGGD then blockRelease s
  else if fn = fnPWM ∧ ddToken s = true then blockRelease s
  else s

/-- The entry of a request: outcome 0 executed, 1 refused (R38). -/
def frstLog (s : State) (fn outcome : Nat) : State := logNow s fnSYS 0x82 (argAt 0 fn + argAt 1 outcome)

/-- One request is carried out, or refused (R37, R38). -/
def frstOne (ok : Bool) (s : State) (fn : Nat) : State :=
  if s.frst.inReset.testBit fn then s
  else if !ok then frstLog (regSet s 0x108 (regGet s 0x108 ||| at_ 1 fn)) fn 1
  else
    let s := frstReact s fn
    let s := { s with regs := regsFrst fn (frstKeep fn) s.regs }
    let s := frstEffect s fn
    let s := regInc { s with frst := { s.frst with inReset := s.frst.inReset ||| 2 ^ fn } } 0x10C 15 0
    frstLog (tpcFollow (fioEval s)) fn 0

/-- The requests of a mask, in ascending order; each is decided on its own, against the state that the write finds (R36, R37). -/
def frstMask (s : State) (mask : Nat) : State :=
  (List.range 23).foldl (fun t fn => if mask.testBit fn then frstOne (frstOk s fn) t fn else t) s

/-- FUNCTION_RESET: a write of SYS_FRST. During a transition the requests are held by function: a second request for a function that is held
already is the same held request, decided and logged once (DESIGN CHOICE: R37 does not say what a repeat does). -/
def execFunctionReset (pf : Pf) (v : Word) (s : State) : Host.Outcome State Fault Refusal :=
  .next (hostPf0 (begin s) pf 0x100 (fun s =>
    let m := v.toNat % 2 ^ 23
    if s.sys.trans.isSome then { s with frst := { s.frst with held := s.frst.held ||| m } }
    else redEval s (frstMask s m)))

/-- The requests held through a transition are decided once it has completed (R37). -/
def frstHeld (s : State) : State :=
  if s.sys.trans.isSome || s.frst.held = 0 then s
  else redEval s (frstMask { s with frst := { s.frst with held := 0 } } s.frst.held)

/-- What a function does as it becomes ready. -/
def frstReady (s : State) (fn : Nat) : State :=
  if fn = fnCRD then crdStart s
  else if fn = fnRED then redStart s
  else if fn = fnSTK then (let (u, s) := stamp s; settleAll s u)
  else s

/-- What a function needs before it is ready (R38): the bulk store is zeroed (R417), and the synthesiser has locked again (R40). -/
def frstMay (s : State) (fn : Nat) : Bool := (fn ≠ fnBLK || s.mem.blkReady || s.sys.mode = .md3) && (fn ≠ fnCLK || s.clk.state = 2)

/-- FUNCTION_RESET_DONE: the function has reinitialised and is ready, and is the one most recently reset. -/
def execFunctionResetDone (fn : Fin 23) (s : State) : Host.Outcome State Fault Refusal :=
  let s := begin s
  .next (if s.frst.inReset.testBit fn && frstMay s fn then
    let s := regPut { s with frst := { s.frst with inReset := s.frst.inReset - 2 ^ fn.val } } 0x10C 20 16 fn
    tpcFollow (fioEval (frstReady s fn))
  else s)

/-- MODE_TRANSITION_DONE: the entry action of a transition to or from MD_3 completes, and held resets are decided (R37, R48). -/
def execModeTransitionDone (s : State) : Host.Outcome State Fault Refusal :=
  let s := begin s
  .next (if s.sys.trans = some .toBanked ∨ s.sys.trans = some .fromBanked then frstHeld (transDone s) else s)

end Sys2Proof.Machine
end

