-- ==== Sys2Proof/Machine/FabRows.lean ====
section
/-!
DEFINITION. Commands of the control fabric: what its nodes report, a lockstep mismatch, and the capture of a node (R104, R114 to
R116, R123, R127, R129, R473).
-/
namespace Sys2Proof.Machine

/-! ### What a node reports -/

/-- One FAB_EVT flag of a node is raised, counted, and named as the last node event (R128). -/
def fabFlag (r : NodeRec) (s : State) (n : Nat) : State :=
  let s := setFlag s fnFAB n
  let s := { s with fab := { s.fab with lastEvt := n, lastNode := r.id } }
  match n with
  | 0 => regInc s 0xA0048 15 0
  | 1 => regInc s 0xA0048 31 16
  | 4 => regInc s 0xA004C 15 0
  | 5 => regInc s 0xA004C 31 16
  | _ => s

/-- The reaction of a node that is out of order (R116, R127): while the unit is switching, a safe stop where the node is part of the
safety function, and a block and release otherwise. -/
def nodeReact (r : NodeRec) (s : State) : State :=
  if !switching s then s else if nodeSafety r then safeStop s 1 7 else blockRelease s

/-- The entry of an action's entry or end (R115). -/
def logNodeAct (r : NodeRec) (s : State) (x : Nat × Nat) : State :=
  logNow s fnFAB 0x82 (argAt 0 r.id + argAt 2 r.sym + argAt 4 x.1 + argAt 5 x.2)

/-- The entry of an event SINK (R473). -/
def logSink (r : NodeRec) (s : State) (w : SigW) : State :=
  logNow s fnFAB 0x83 (argAt 0 ((nodeEnd r).2 % 256) + argAt 2 r.id + argAt 4 (ofSigned 32 w.m) + argAt 8 (ofSigned 8 w.e))

/-- What one evaluation reported happens. -/
def fabApply (s : State) (x : FabEvt) : State :=
  let s := x.evt.flags.foldl (fabFlag x.node) s
  let s := match x.evt.act with
    | some a => logNodeAct x.node s a
    | none => s
  let s := match x.evt.sink with
    | some w => logSink x.node s w
    | none => s
  if x.evt.flags.contains 2 then nodeReact x.node s else s

/-- Node `id` as the image in force has it, where the mode evaluates it. -/
def nodeIn (s : State) (id : Nat) : Option NodeRec :=
  let env := fabEnv s s.fab.cells
  match nodeRec (imgOf s) id with
  | some r => if inSet env.tainted env.eval r then some r else none
  | none => none

/-- The cell of a node. -/
def cellOf (s : State) (id : Nat) : Cell := tabGet Cell.fresh s.fab.cells id

/-- The cell of a node is replaced. -/
def cellSet (s : State) (id : Nat) (c : Cell) : State := { s with fab := { s.fab with cells := tabSet Cell.fresh s.fab.cells id c } }

/-- A compensator enters its loss action for a cause: 0 loss, 1 freeze (R114, R115). A TRIP invalidates the output. -/
def nodeLoses (s : State) (r : NodeRec) (cause : Nat) : State :=
  let c := cellOf s r.id
  let a := nodeU r 0x3D 1 + 1
  let c1 := { c with act := a, cause := cause
                     frozen := if cause = 1 then c.last else c.frozen
                     loss := if cause = 0 then max c.loss (nodeU r 0x40 2) else c.loss
                     freeze := if cause = 1 then max c.freeze (nodeU r 0x42 2) else c.freeze }
  let c2 := if a = 3 then cellInvalid c1 else c1
  fabApply (cellSet s r.id c2) ⟨r, ⟨cause :: (if a = 3 then [2] else []), some (cause, a), none⟩⟩

/-- A compensator in normal action that the mode evaluates. -/
def nodeNormal (s : State) (id : Nat) : Option NodeRec :=
  match nodeIn s id with
  | some r => if r.type = 1 && (cellOf s id).act = 0 && (cellOf s id).evald then some r else none
  | none => none

/-- NODE_FEEDBACK_LOSS. -/
def execNodeFeedbackLoss (node : Fin 8192) (s : State) : Host.Outcome State Fault Refusal :=
  let s := begin s
  .next (match nodeNormal s node with
    | some r => nodeLoses s r 0
    | none => s)

/-- NODE_FREEZE: there is no freeze where FREEZE_N is zero. -/
def execNodeFreeze (node : Fin 8192) (s : State) : Host.Outcome State Fault Refusal :=
  let s := begin s
  .next (match nodeNormal s node with
    | some r => if nodeU r 0x42 2 = 0 then s else nodeLoses s r 1
    | none => s)

/-- The downshift of a stage (R104): the exponent falls by one and every mantissa doubles. -/
def downshifted (c : Cell) : Cell :=
  { c with stage := c.stage - 1, hist := c.hist.map (2 * ·), down := 0
           outs := c.outs.map (fun w => if w.v then ⟨2 * w.m, w.e - 1, true⟩ else w) }

/-- Whether a stage may shift down: it stands above OUT_EXP, and every mantissa in it is below 0.25 (R104). -/
def mayDownshift (r : NodeRec) (c : Cell) : Bool :=
  nodeStaged r && c.evald && decide (r.outExp < c.stage) &&
    ((c.outs.filter (·.v)).map (·.m) ++ c.hist).all (fun m => decide (m.natAbs < 2 ^ 29))

/-- NODE_DOWNSHIFT. -/
def execNodeDownshift (node : Fin 8192) (s : State) : Host.Outcome State Fault Refusal :=
  let s := begin s
  .next (match nodeIn s node with
    | some r => if mayDownshift r (cellOf s node) then cellSet s node (downshifted (cellOf s node)) else s
    | none => s)

/-- The fill of a sequence decomposition ends (R123): its outputs stand valid, where its inputs are. -/
def filled (valid : Bool) (c : Cell) : Cell :=
  { c with fill := 0, outs := formOuts c.outs valid c.stage c.hist }

/-- XFORM_FILL_END. -/
def execXformFillEnd (node : Fin 8192) (s : State) : Host.Outcome State Fault Refusal :=
  let s := begin s
  .next (match nodeIn s node with
    | some r =>
      let c := cellOf s node
      if r.type = 5 && r.sub = 4 && c.evald && decide (0 < c.fill) then
        cellSet s node (filled ((nodeIns (fabEnv s s.fab.cells) s.fab.cells r).all (·.v)) c)
      else s
    | none => s)

/-! ### Lockstep (R30, R127, R135, R185) -/

/-- What an overrun does at the valve ports (R30, R184): the next frames carry the bits of the last completed tick, and the riddle engine
has not advanced. A map that was written to its record meanwhile is written again. -/
def rdlHold (s : State) : State :=
  { s with
    sys := { s.sys with repeatNext := true }
    rdl := { s.rdlOld with dirty := s.rdl.dirty || s.rdlOld.dirty || decide (s.rdl.failed ≠ s.rdlOld.failed) } }

/-- What an overrun does (R30): the valve ports as above, and the compare values of the tick are dropped. -/
def overrunHold (s : State) : State :=
  let s := rdlHold s
  { s with ggd := { s.ggd with chans := s.ggd.chans.map (fun c => { c with cmp := none }) } }

/-- The swing engine's words as its SRC nodes take them. -/
def swgWords (s : State) (g : Swg) : List (Nat × SigW) :=
  let l := swgOutputs (swgEnv s) g
  (List.range l.length).map (fun e => (sigKey 2 e 0, nth SigW.none l e))

/-- The riddle engine's words as its SRC nodes take them. -/
def rdlWords (s : State) (r : Rdl) : List (Nat × SigW) :=
  (rdlOutputs (rdlEnv s) r).map (fun x => (sigKey 3 x.1 x.2.1, x.2.2))

/-- The words of both engines stand as given. -/
def supplyWords (s : State) (g : Swg) (r : Rdl) : State :=
  { s with fab := { s.fab with src := putWords s.fab.src (swgWords s g ++ rdlWords s r) } }

/-- One phase of the fabric without the nodes of some tiles. -/
def evalPhaseBut (env : FabEnv) (ph : Nat) (tiles : List Nat) (run : FabRun) : FabRun :=
  ((phaseNodes env.img ph).filter (fun r => !tiles.contains (r.id / 64))).foldl (evalNode env) run

/-- One phase of the tick in which the tiles of `ms` mismatch: up to its phase a tile's nodes are evaluated, and from there on they present
the words held before the tick (R127). -/
def mismatchPhase (env : FabEnv) (ms : List Miss) (ph : Nat) (run : FabRun) : FabRun :=
  let past := (ms.filter (fun x => decide (x.phase < ph) || (x.phase = ph && x.early))).map (·.tile)
  let now := (ms.filter (fun x => x.phase = ph && !x.early)).map (·.tile)
  let held := fun (tiles : List Nat) (cells : Tab Cell) => tiles.foldl (fun t k => reloadTile env.start t env.img k) cells
  let run := evalPhaseBut { env with start := held past env.start } ph (past ++ now) { run with cells := held past run.cells }
  { run with cells := held now run.cells }

/-- The cells of the tick as its mismatches leave them: the tick is evaluated again from the cells that it began with (R127). -/
def mismatchCells (s : State) (srcA srcB : Tab SigW) : Tab Cell :=
  let env := fabEnv s s.fab.before
  let run0 : FabRun := ⟨s.fab.before, s.fab.sinkOld, []⟩
  let runA := mismatchPhase { env with src := srcA } s.fab.miss 1 run0
  (mismatchPhase { env with src := srcB } s.fab.miss 3 runA).cells

/-- The record of a mismatch (R128). -/
def lsStat (s : State) (r : NodeRec) : State :=
  let s := regInc s 0xA0050 31 16
  let s := regPut s 0xA0050 15 15 (b2n (nodeSafety r))
  regPut s 0xA0050 12 0 r.id

/-- A lockstep mismatch of the fabric at a node. The consumers of the tick saw the words of the last completed tick, so the swing engine
has advanced on those. -/
def fabMismatch (s : State) (r : NodeRec) : State :=
  let (early, s) := freshBelow s 2
  let s0 := { s with
    rdl := s.rdlOld, fab := { s.fab with sink := s.fab.sinkOld, miss := s.fab.miss ++ [⟨r.id / 64, r.phase, early = 1⟩] } }
  let g := (swgTick (swgEnv s0) s.swgOld).1
  let swg := { g with arm := s.swg.arm, cap := s.swg.cap, lat := s.swg.lat, seq := s.swg.seq }
  let before := supplyWords s0 s.swgOld s.rdlOld
  let after := supplyWords s0 swg s.rdlOld
  let cells := mismatchCells s0 before.fab.src after.fab.src
  let s1 := overrunHold { after with swg := swg, rdl := s.rdl, fab := { after.fab with cells := cells } }
  nodeReact r (lsStat (fabFlag r s1 9) r)

/-- FAB_LOCKSTEP_MISMATCH. -/
def execFabLockstepMismatch (node : Fin 8192) (s : State) : Host.Outcome State Fault Refusal :=
  let s := begin s
  .next (match nodeIn s node with
    | some r => fabMismatch s r
    | none => s)

/-! ### Reading a node (R129) -/

/-- A write of FAB_PEEK_CTL: the node is armed, in place of one already armed. -/
def peekArmWrite (s : State) (v : Word) : State :=
  let s := regPut s 0xA0200 12 0 (field v 12 0)
  { s with fab := { s.fab with peekArm := some (field v 12 0) } }

/-- PEEK_ARM. -/
def execPeekArm (pf : Pf) (v : Word) (s : State) : Host.Outcome State Fault Refusal :=
  .next (hostAccess (begin s) pf fnFAB (fun s => peekArmWrite s v))

/-- FAB_PEEK_STAT as it reads. -/
def peekStat (s : State) (fresh : Bool) : Word := flagAt fresh 8 ||| at_ (s.fab.peekSeq % 16) 4 ||| at_ s.fab.latched.act 0

/-- The first read after a capture latches it. -/
def peekLatch (s : State) : State :=
  match s.fab.capture with
  | some c => { s with fab := { s.fab with capture := none, latched := c } }
  | none => s

/-- PEEK_STAT_READ. -/
def execPeekStatRead (pf : Pf) (s : State) : Host.Outcome State Fault Refusal :=
  .next (hostRead (begin s) pf fnFAB (fun s =>
    let fresh := s.fab.capture.isSome
    let s := peekLatch s
    { s with rdata := peekStat s fresh }))

end Sys2Proof.Machine
end

