-- ==== Sys2Proof/Machine/SwgRows.lean ====
section
/-!
DEFINITION. Commands of the swing engine: what it times, its lockstep mismatch, and the capture of its state (R135, R143, R150,
R155 to R157, R161, R165).
-/
namespace Sys2Proof.Machine

/-- A change of the swing engine between ticks stands in both of the states that it may go on from. -/
def swgBoth (f : Swg → Swg) (s : State) : State := { s with swg := f s.swg, swgOld := f s.swgOld }

/-- The engine's trackers run (R150): with the synthesiser locked, in MD_2 and MD_4 to MD_9. -/
def swgTracks (s : State) : Bool := s.clk.state = 2 && (s.sys.mode = .md2 || s.sys.mode.forms)

/-- One of the two trackers: the grid tracker or the bus tracker. -/
def trackOf (grid : Bool) (g : Swg) : Tracker := if grid then g.grd else g.bus

/-- One of the two trackers changed. -/
def trackUpd (grid : Bool) (f : Tracker → Tracker) (g : Swg) : Swg := if grid then { g with grd := f g.grd } else { g with bus := f g.bus }

/-- TRACKER_LOCK: a seeded tracker that is not locked becomes locked (R150). -/
def execTrackerLock (grid : Bool) (s : State) : Host.Outcome State Fault Refusal :=
  let s := begin s
  .next (if swgTracks s && (trackOf grid s.swg).seeded && !(trackOf grid s.swg).locked then
      swgBoth (trackUpd grid (fun t => { t with locked := true, count := max t.count (20000000 / tickNs s) })) s
    else s)

/-- A tracker loses lock and starts counting anew. -/
def trackLose (t : Tracker) : Tracker := { t with locked := false, count := 0 }

/-- ENERGY_HOLD_END: the held account gives way to the reserve (R143), and ENERGY_INV is raised once. -/
def execEnergyHoldEnd (s : State) : Host.Outcome State Fault Refusal :=
  let s := begin s
  let n := pNat (imgOf s) 0x0735
  .next (if !s.swg.inp.acctOk && decide (s.swg.inp.acctLoss ≤ n) then
      raise (swgBoth (fun g => { g with inp := { g.inp with acctLoss := n + 1 } }) s) fnSWG 1 0 0
    else s)

/-- The engine waits for the close conditions in MD_6 (R155). -/
def closeWaits (s : State) : Bool := s.sys.mode = .md6 && s.swg.cond.brkState = 2

/-- SYNC_HOLD_DONE: the hold has run, and the engine predicts the close command; without a prediction in this tick it predicts again
in the next (R155, R156). -/
def execSyncHoldDone (s : State) : Host.Outcome State Fault Refusal :=
  let s := begin s
  let env := swgEnv s
  let run := max s.swg.cond.holdRun ((st env 0x072C + env.tickNs - 1) / env.tickNs)
  let held := fun (g : Swg) => { g with cond := { g.cond with holdRun := run } }
  .next (if closeWaits s then
      match predict env s.swg.grd s.swg.mach with
      | some t => saBreaker (swgBoth (fun g => let g := held g
          { g with cond := { g.cond with brkState := 3, attempts := min (g.cond.attempts + 1) 255 } }) s) t
      | none => swgBoth held s
    else s)

/-- CLOSE_WINDOW_EXPIRE: the window closes without a confirmed close (R156). -/
def execCloseWindowExpire (s : State) : Host.Outcome State Fault Refusal :=
  let s := begin s
  .next (if s.sys.mode = .md6 && s.swg.cond.brkState = 4 then
      let s := swgBoth (fun g => { g with cond := { g.cond with brkState := 6, winEnd := none } }) s
      [SwgFx.breaker 4 s.swg.mach.dth (slip (swgEnv s) s.swg.grd s.swg.mach), SwgFx.flag 5].foldl swgEffect s
    else s)

/-- ISLAND_DETECTED: the criterion is met in MD_7 (R157): the flag, the count, and the grid loss that the vote takes up. -/
def execIslandDetected (s : State) : Host.Outcome State Fault Refusal :=
  let s := begin s
  let env := swgEnv s
  .next (if s.sys.mode = .md7 && !s.swg.cond.island && decide (sp env 0x0731 ≠ 0) then
      let run := (st env 0x0732 + env.tickNs - 1) / env.tickNs
      swgEffect (swgBoth (fun g => { g with cond := { g.cond with island := true, islRun := max g.cond.islRun run } }) s) .island
    else s)

/-- The trackers that run on an input lose lock once its hold has ended (R150, R161). -/
def holdTracks (env : SwgEnv) (ep : Nat) (g : Swg) : Swg :=
  let (ga, gb) := gridEp env
  let g := if ep = 4 || ep = 5 then { g with bus := trackLose g.bus } else g
  if ep = ga || ep = gb then { g with grd := trackLose g.grd } else g

/-- The image has a SINK for the input, and its word is invalid. -/
def inputGone (s : State) (ep : Nat) : Bool := hasSink (imgOf s) 2 ep 0 && inBad s.swg.inp ep

/-- SWG_INPUT_HOLD_END: an invalid input has been held for LOSS_N ticks, and LOSS is raised (R161). -/
def execSwgInputHoldEnd (ep : Fin 16) (s : State) : Host.Outcome State Fault Refusal :=
  let s := begin s
  let env := swgEnv s
  let n := pNat (imgOf s) 0x0735
  .next (if inputGone s ep && decide (nth 0 s.swg.inp.loss ep ≤ n) then
      let s := swgBoth (fun g => holdTracks env ep { g with inp := { g.inp with loss := setNth g.inp.loss ep (n + 1) } }) s
      swgEffect s (.loss ep)
    else s)

/-- SWG_INPUT_LOSS_LIMIT: an invalid input for which R161 lists a reaction, while the unit is switching. -/
def execSwgInputLossLimit (ep : Fin 16) (s : State) : Host.Outcome State Fault Refusal :=
  let s := begin s
  .next (if inputGone s ep && lossReacts ep && switching s then swgEffect s .react else s)

/-- SWG_LOCKSTEP_MISMATCH (R135): the engine stands as before the tick with a soft-start pending, its consumers saw the words of the last
completed tick, and the ports act as in an overrun. -/
def execSwgLockstepMismatch (s : State) : Host.Outcome State Fault Refusal :=
  let s := begin s
  .next (if s.clk.state = 2 && decide (2 ≤ s.sys.mode.code) && s.sys.mode ≠ .md3 && !s.frst.inReset.testBit fnSWG then
      let old := { s.swgOld with arm := s.swg.arm, cap := s.swg.cap, lat := s.swg.lat, seq := s.swg.seq }
      let x := supplyWords { s with swg := old, rdl := s.rdlOld } old s.rdlOld
      let env := fabEnv x x.fab.before
      let run := evalPhase env 3 (evalPhase env 1 ⟨x.fab.before, x.fab.sink, []⟩)
      let s := overrunHold { x with rdl := s.rdl, fab := { x.fab with cells := run.cells, sink := run.sink } }
      let s := swgWait s false
      let s := raise { s with swgOld := s.swg } fnSWG 8 0 0
      if switching s then swgEffect s .react else s
    else s)

/-! ### The capture (R165) -/

/-- A write of SWG_SNAP_CTL. -/
def snapArmWrite (s : State) (v : Word) : State :=
  if bit v 0 then swgBoth (fun g => { g with arm := true }) s else s

/-- SWG_SNAP_ARM. -/
def execSwgSnapArm (pf : Pf) (v : Word) (s : State) : Host.Outcome State Fault Refusal :=
  .next (hostAccess (begin s) pf fnSWG (fun s => snapArmWrite s v))

/-- SWG_SNAP_STAT as it reads. -/
def snapStat (s : State) (fresh : Bool) : Word := flagAt fresh 8 ||| at_ (s.swg.seq % 16) 4 ||| at_ s.swg.lat.state 0

/-- The first read after a capture latches it. -/
def snapLatch (s : State) : State :=
  match s.swg.cap with
  | some c => swgBoth (fun g => { g with cap := none, lat := c, seq := s.swg.seq }) s
  | none => s

/-- SWG_SNAP_STAT_READ. -/
def execSwgSnapStatRead (pf : Pf) (s : State) : Host.Outcome State Fault Refusal :=
  .next (hostRead (begin s) pf fnSWG (fun s =>
    let fresh := s.swg.cap.isSome
    let s := snapLatch s
    { s with rdata := snapStat s fresh }))

end Sys2Proof.Machine
end

