-- ==== Sys2Proof/Machine/RdlRows.lean ====
section
/-!
DEFINITION. Commands of the riddle engine: submodules, limits of invalid inputs, identification runs, captures, its lockstep mismatch
and the timers of the precharge sequence (R168, R169, R177, R185, R187, R189, R192, R194, R198).
-/
namespace Sys2Proof.Machine

/-- The engine runs, and the arm is enabled. -/
def rdlArm (s : State) (a : Nat) : Bool :=
  s.clk.state = 2 && rdlRuns s.sys.mode.code && !s.frst.inReset.testBit fnRDL && armOn (imgOf s) a

/-! ### Submodules (R168, R169) -/

/-- A submodule that becomes FAILED in a deblocked arm takes the choice BYPASS. -/
def smBypass (a i : Nat) (r : Rdl) : Rdl × List RdlFx :=
  if (armOf r a).deb && (smOf r a i).choice ≠ 1 then
    ({ r with sms := tabUpd Sm.fresh r.sms (smKey a i) (fun m =>
        { m with choice := 1, age := 0, dwell := 0, changes := satInc 32 m.changes }) }, [RdlFx.count a 1 0 0])
  else (r, [])

/-- SM_MEAS_LOSS: an UNKNOWN submodule becomes FAILED with reason MEAS. -/
def execSmMeasLoss (arm : Fin 6) (sm : Fin 512) (s : State) : Host.Outcome State Fault Refusal :=
  let s := begin s
  .next (if rdlArm s arm && decide (sm.val < armSms (imgOf s) arm) && (smOf s.rdl arm sm).unknown && smReason s.rdl arm sm = 0 then
      rdlGo (fun r => let x := smFail arm sm 3 r
        let y := smBypass arm sm x.1
        (y.1, x.2 ++ y.2)) s
    else s)

/-- RDL_FAIL_RES after a command. -/
def failRes (s : State) (st : Nat) : State := rdlBoth (fun r => { r with failRes := st }) s

/-- Modes that accept a SET, and modes that accept a CLEAR (R169). -/
def failMode (cmd : Nat) (m : Mode) : Bool := if cmd = 1 then decide (2 ≤ m.code) else m = .md2 || m = .md10 || m = .md11

/-- A write of RDL_FAIL_CMD: 1 SET, 2 CLEAR, 3 CLEAR_ARM; an accepted one takes effect in the next phase D. -/
def failWrite (s : State) (key cmd arm sm : Nat) : State :=
  let img := imgOf s
  if key ≠ 0x4643 then failRes s 3
  else if cmd = 0 ∨ cmd > 3 then s
  else if !armOn img arm || (cmd ≠ 3 && decide (armSms img arm ≤ sm)) then failRes s 4
  else if !failMode cmd s.sys.mode then failRes s 2
  else if cmd ≠ 1 && (List.range (armSms img arm)).any (fun i => (smOf s.rdl arm i).choice ≠ 0) then failRes s 5
  else failRes (rdlBoth (fun r => { r with cmds := r.cmds ++ [(cmd, arm, sm)] }) s) 1

/-- SM_SET. -/
def execSmSet (pf : Pf) (key : BitVec 16) (arm : Fin 8) (sm : Fin 512) (s : State) : Host.Outcome State Fault Refusal :=
  .next (hostPf0 (begin s) pf 0xC0300 (fun s => failWrite s key.toNat 1 arm sm))

/-- SM_CLEAR. -/
def execSmClear (pf : Pf) (key : BitVec 16) (arm : Fin 8) (sm : Fin 512) (s : State) : Host.Outcome State Fault Refusal :=
  .next (hostPf0 (begin s) pf 0xC0300 (fun s => failWrite s key.toNat 2 arm sm))

/-- SM_CLEAR_ARM. -/
def execSmClearArm (pf : Pf) (key : BitVec 16) (arm : Fin 8) (s : State) : Host.Outcome State Fault Refusal :=
  .next (hostPf0 (begin s) pf 0xC0300 (fun s => failWrite s key.toNat 3 arm 0))

/-! ### Limits of invalid inputs (R177) -/

/-- Ticks that cover a time in ns. -/
def ticksFor (s : State) (ns : Nat) : Nat := (ns + tickNs s - 1) / tickNs s

/-- The arm selects: in MD_5 to MD_9 where its port may switch, and in MD_11 as an arm of the leg of an inductance run. -/
def armSelects (s : State) (a : Nat) : Bool :=
  rdlArm s a && ((s.sys.mode.forms && s.sys.mode ≠ .md4 && (armOf s.rdl a).deb) ||
    (s.sys.mode = .md11 && (match s.rdl.run with
      | some run => !run.cap && decide (a / 2 = run.leg)
      | none => false)))

/-- A flag of an arm with its reaction, which follows while the unit is switching (R177, R185). -/
def limitEnd (s : State) (n a : Nat) : State :=
  let s := raise s fnRDL n a 0
  if switching s then blockRelease s else s

/-- One arm of the engine changed. -/
def armBoth (a : Nat) (f : Arm → Arm) (s : State) : State := rdlBoth (fun r => { r with arms := updNth r.arms a f }) s

/-- DEM_LOSS_LIMIT. -/
def execDemLossLimit (arm : Fin 6) (s : State) : Host.Outcome State Fault Refusal :=
  let s := begin s
  .next (if armSelects s arm && !(sinkWord s 0 0 arm).v then
      let s := armBoth arm (fun x => { x with demBad := max x.demBad (pNat (imgOf s) 0x0810) }) s
      limitEnd s 0 arm
    else s)

/-- ARM_CURRENT_LOSS_LIMIT. -/
def execArmCurrentLossLimit (arm : Fin 6) (s : State) : Host.Outcome State Fault Refusal :=
  let s := begin s
  .next (if armSelects s arm && !(sinkWord s 6 0 arm).v then
      let s := armBoth arm (fun x => { x with iBad := max x.iBad (ticksFor s (pNat (imgOf s) 0x0811)) }) s
      limitEnd s 1 arm
    else s)

/-- UPLINK_HOLD_END: a held uplink set counts as invalid, and with it the account (R177, R180). -/
def execUplinkHoldEnd (arm : Fin 6) (s : State) : Host.Outcome State Fault Refusal :=
  let s := begin s
  let hold := pNat (imgOf s) 0x080D
  .next (if rdlArm s arm && (portSet s arm).isNone && decide ((armOf s.rdl arm).upBad ≤ hold) then
      let s := armBoth arm (fun x => { x with upBad := hold + 1 }) s
      let s := rdlGo (fun r => ({ r with acctOk := false, acctInv := true }, if r.acctInv then [] else [RdlFx.flag 3 0 0])) s
      { s with fab := { s.fab with src := putWords s.fab.src (rdlWords s s.rdl) } }
    else s)

/-- UPLINK_LOSS_LIMIT. -/
def execUplinkLossLimit (arm : Fin 6) (s : State) : Host.Outcome State Fault Refusal :=
  let s := begin s
  .next (if rdlArm s arm && (portSet s arm).isNone then
      let s := armBoth arm (fun x => { x with upBad := max x.upBad (ticksFor s (pNat (imgOf s) 0x080E)) }) s
      limitEnd s 2 arm
    else s)

/-- RDL_LOCKSTEP_MISMATCH (R185): the tick's results are discarded, and the engine soft-starts at the next. -/
def execRdlLockstepMismatch (s : State) : Host.Outcome State Fault Refusal :=
  let s := begin s
  .next (if s.clk.state = 2 && rdlRuns s.sys.mode.code && !s.frst.inReset.testBit fnRDL then
      let s := rdlBoth rdlSoftStart (rdlHold s)
      let s := { s with fab := { s.fab with src := putWords s.fab.src (rdlWords s s.rdl) } }
      limitEnd s 8 0
    else s)

/-! ### Identification (R187, R192, R194) -/

/-- RDL_ID_STAT.STATUS of a refused command. -/
def idStatus (s : State) (st : Nat) : State := rdlBoth (fun r => { r with idStat := st }) s

/-- A write of RDL_ID_CTL: 1 CAP, 2 IND, 3 ABORT. -/
def idWrite (s : State) (key cmd leg : Nat) : State :=
  if key ≠ 0x4944 then idStatus s 9
  else if cmd = 3 then rdlGo (idEnd 6) s
  else if cmd ≠ 1 ∧ cmd ≠ 2 then s
  else if s.rdl.run.isSome then idStatus s 10
  else if cmd = 1 then if s.sys.mode = .md4 then rdlBoth (idStart true 0) s else idStatus s 7
  else if s.sys.mode ≠ .md11 then idStatus s 7
  else if s.crd.svc.isSome then idStatus s 10
  else if indOk (rdlEnv s) s.rdl leg then rdlBoth (idStart false leg) s else idStatus s 8

/-- CAP_RUN_START. -/
def execCapRunStart (pf : Pf) (key : BitVec 16) (s : State) : Host.Outcome State Fault Refusal :=
  .next (hostPf0 (begin s) pf 0xC0600 (fun s => idWrite s key.toNat 1 0))

/-- IND_RUN_START. -/
def execIndRunStart (pf : Pf) (key : BitVec 16) (leg : Fin 4) (s : State) : Host.Outcome State Fault Refusal :=
  .next (hostPf0 (begin s) pf 0xC0600 (fun s => idWrite s key.toNat 2 leg))

/-- ID_RUN_ABORT. -/
def execIdRunAbort (pf : Pf) (key : BitVec 16) (s : State) : Host.Outcome State Fault Refusal :=
  .next (hostPf0 (begin s) pf 0xC0600 (fun s => idWrite s key.toNat 3 0))

/-- RDL_ID_C_a of the results that stand. -/
def idCWord (x : Arm) : Nat :=
  x.cCount * 2 ^ 20 + satNat 20 (alignBy x.cVal (-(Config.engineFrac : Int))).toNat

/-- RDL_ID_L_x of the results that stand. -/
def idLWord (x : Nat × Nat) : Nat := min x.1 255 * 2 ^ 24 + x.2

/-- The first read after a run has ended latches the results. -/
def idLatch (r : Rdl) : Rdl :=
  { r with idFresh := false, idSeqLat := r.idSeq, idCLat := r.arms.map idCWord, idLLat := r.idL.map idLWord }

/-- RDL_ID_STAT as it reads. -/
def idStatWord (s : State) (fresh : Bool) : Word :=
  at_ s.rdl.idStat 16 ||| flagAt fresh 8 ||| at_ (s.rdl.idSeqLat % 16) 4 ||| at_ s.rdl.idKind 0

/-- ID_STAT_READ. -/
def execIdStatRead (pf : Pf) (s : State) : Host.Outcome State Fault Refusal :=
  .next (hostRead (begin s) pf fnRDL (fun s =>
    let fresh := s.rdl.idFresh && s.rdl.run.isNone
    let s := if fresh then rdlBoth idLatch s else s
    { s with rdata := idStatWord s fresh }))

/-! ### Captures (R198) -/

/-- A write of RDL_SM_SEL. -/
def smSelWrite (s : State) (v : Word) : State :=
  rdlBoth (fun r => { r with sel := some (field v 11 9, field v 8 0) }) (regPut s 0xC0200 11 0 (field v 11 0))

/-- SM_CAPTURE_ARM. -/
def execSmCaptureArm (pf : Pf) (v : Word) (s : State) : Host.Outcome State Fault Refusal :=
  .next (hostAccess (begin s) pf fnRDL (fun s => smSelWrite s v))

/-- RDL_SM_STAT as it reads. -/
def smStatWord (s : State) (fresh : Bool) : Word := flagAt fresh 8 ||| at_ (s.rdl.capSeqLat % 16) 4

/-- The first read after a capture latches it. -/
def smLatch (s : State) : State :=
  match s.rdl.cap with
  | some c => rdlBoth (fun r => { r with cap := none, lat := c, capSeqLat := s.rdl.capSeq, capSeq := s.rdl.capSeq }) s
  | none => s

/-- SM_STAT_READ. -/
def execSmStatRead (pf : Pf) (s : State) : Host.Outcome State Fault Refusal :=
  .next (hostRead (begin s) pf fnRDL (fun s =>
    let fresh := s.rdl.cap.isSome
    let s := smLatch s
    { s with rdata := smStatWord s fresh }))

/-! ### The precharge sequence (R189) -/

/-- PRE_BYP_CONF_EXPIRE: the confirmation of a bypass has not come. -/
def execPreBypConfExpire (s : State) : Host.Outcome State Fault Refusal :=
  let s := begin s
  .next (if s.rdl.pre.state = 2 && decide (pNat (imgOf s) 0x011A ≠ 16) then preGoes (preFail 1) s else s)

/-- The arm voltages have settled over the ticks since the settling timer started. -/
def preSettled (s : State) : Bool :=
  let p := s.rdl.pre
  let q := Config.engineFrac
  match p.hist.head?, p.hist.getLast? with
  | some new, some old =>
    decide (pBfp q (imgOf s) 0x011C ≤ p.vmin) &&
      (armsOn (imgOf s)).all (fun a => decide ((nth 0 new a - nth 0 old a).natAbs < (fxRat q 5 1000).natAbs))
  | _, _ => false

/-- PRE_SETTLE_DONE: the settling timer has run, and precharge is complete where the voltages are settled. -/
def execPreSettleDone (s : State) : Host.Outcome State Fault Refusal :=
  let s := begin s
  .next (if s.rdl.pre.state = 3 && preSettled s then
      preGoes (fun p => let x := preGo 4 0 p; (x.1, x.2 ++ [RdlFx.flag 12 0 0])) s
    else s)

/-- PRE_OUTPUT_RELEASE: both outputs that a release into MD_3 left ON turn OFF. -/
def execPreOutputRelease (s : State) : Host.Outcome State Fault Refusal :=
  let s := begin s
  .next (if s.rdl.pre.relPend then preGoes (fun p => ({ p with relPend := false }, [RdlFx.outputs false false])) s else s)

end Sys2Proof.Machine
end

