-- ==== Sys2Proof/Machine/HostIf.lean ====
section
/-!
DEFINITION. The PCI Express endpoint (R381 to R387): link, function resets, configuration writes, failed reads of host memory and
unmasked vectors.
-/
namespace Sys2Proof.Machine

/-- The endpoint changed. -/
def hifSet (s : State) (f : Hif → Hif) : State := { s with hif := f s.hif }

/-! ### Reads of host memory that fail (R385, R386) -/

/-- The reads of host memory that register commands of a function started end: those of the image and microcode loads, which PF0 starts, with
their DMA status, and a recorder READ, which either function starts, ABORTED. -/
def dmaGone (s : State) (pf : Pf) : State :=
  let s := if pf = .pf1 then s
    else
      let s := loadFail s
      let s := if s.sec.ucLoading.isSome then ucEnd s 8 else s
      if s.sec.rcv.isSome then rcvEnd s 8 else s
  if s.rcd.rdPf = pf then readDone s 7 else s

/-- A read of host memory is in progress for a user. -/
def dmaBusy (s : State) (u : DmaUser) : Bool :=
  match u with
  | .imageLoad => imgLoading s
  | .ucodeLoad => s.sec.ucLoading.isSome
  | .recovery => s.sec.rcv.isSome
  | .recorderRead => rdBusy s
  | .ringFetch r => mayFetch s r
  | .worker w =>
    match (workerOf s w).service, (workerOf s w).result with
    | some i, none => opOf i.b ∈ [0x02, 0x05, 0x07, 0x08]  -- the opcodes that read the buffer of the host
    | _, _ => false

/-- The request that a failed read served ends with its DMA status. -/
def dmaEnd (s : State) (u : DmaUser) : State :=
  match u with
  | .imageLoad => loadFail s
  | .ucodeLoad => ucEnd s 8
  | .recovery => rcvEnd s 8
  | .recorderRead => readDone s 6
  | .ringFetch r => ringHalt s r 2
  | .worker w => workerResult s w ⟨7, 0, 0, 0⟩

/-- DMA_ERROR. -/
def execDmaError (u : DmaUser) (s : State) : Host.Outcome State Fault Refusal :=
  let s := begin s
  .next (if dmaBusy s u then raise (dmaEnd s u) fnHIF 3 0 0 else s)

/-! ### Link and function resets (R384, R385) -/

/-- A function's configuration, vector table and pending bits return to their reset values, and its rings halt. -/
def pfReset (s : State) (pf : Pf) : State :=
  let s := setPf s pf PfCfg.reset
  let (u, s) := stamp s
  let s := ringsDrop s u (fun r => ringPf s r = pf)
  dmaGone s pf

/-- PCIE_FLR: a function-level reset; it needs the link. -/
def execPcieFlr (pf : Pf) (s : State) : Host.Outcome State Fault Refusal :=
  let s := begin s
  .next (if s.hif.up then
      let s := regInc (pfReset s pf) 0x40048 31 16
      raise s fnHIF (if pf = .pf0 then 0 else 1) 0 0
    else s)

/-- PCIE_LINK_DOWN: a hot reset, a loss of the link, or a fundamental reset. -/
def execPcieLinkDown (s : State) : Host.Outcome State Fault Refusal :=
  let s := begin s
  .next (if s.hif.up then
      let s := hifSet s (fun h => { h with up := false, gen := 0, width := 0 })
      regInc (pfReset (pfReset s .pf0) .pf1) 0x40048 15 0
    else s)

/-- GEN_CAP as it bounds the generation. -/
def genCap (s : State) : Nat := max 1 (min 4 (regF s 0x40014 2 0))

/-- PCIE_LINK_UP: the link has trained on a generation that GEN_CAP allows; it trains after MD_1 has ended, and in a halted MD_1. -/
def execPcieLinkUp (gen : Fin 4) (width : Fin 3) (s : State) : Host.Outcome State Fault Refusal :=
  let s := begin s
  .next (if !s.hif.up && decide (s.sys.mode ≠ .md0) && (decide (s.sys.mode ≠ .md1) || s.sys.halt) then
      raise (hifSet s (fun h => { h with up := true, gen := min (gen + 1) (genCap s), width := 2 ^ width.val })) fnHIF 2 0 0
    else s)

/-- A write of HIF_LINK_CTL: GEN_CAP is stored, and RETRAIN retrains a link that is up. The generation is then one that the cap
allows and that the other side decides. -/
def linkCtlWrite (s : State) (v : Word) : State :=
  let s := regPut s 0x40014 2 0 (field v 2 0)
  if bit v 3 && s.hif.up then
    let (g, s) := freshBelow s (genCap s)
    hifSet s (fun h => { h with gen := g + 1 })
  else s

/-- LINK_RETRAIN: a write of HIF_LINK_CTL, which retrains the link where it has RETRAIN set. -/
def execLinkRetrain (pf : Pf) (v : Word) (s : State) : Host.Outcome State Fault Refusal :=
  .next (hostPf0 (begin s) pf 0x40014 (fun s => linkCtlWrite s v))

/-! ### Configuration space and vectors (R382, R387) -/

/-- The constants of a function's configuration space (R381, R382), which a configuration read returns. -/
structure ConfigIdent where
  vendor     : Nat
  device     : Nat
  classCode  : Nat
  revision   : Nat
  subsystem  : Nat × Nat
  bar0       : Nat
  bar2       : Nat
  vectors    : Nat
  maxPayload : Nat
  maxRead    : Nat
deriving DecidableEq, Repr

/-- R381, R382: the constants of a function; BAR0 and BAR2 in bytes. The Revision ID is the stepping. -/
def configIdent (pf : Pf) : ConfigIdent :=
  { vendor := 0x1F3A, device := if pf = .pf0 then 0x0940 else 0x0941, classCode := 0x118000, revision := ownStep, subsystem := Config.subsystemIds
    bar0 := 8 * 1024 * 1024, bar2 := 8 * 1024, vectors := 64, maxPayload := 512, maxRead := 4096 }

/-- One field of a function's configuration takes a value. -/
def cfgPut (f : CfgField) (c : PfCfg) : PfCfg :=
  match f with
  | .powerState b => { c with d3hot := b }
  | .memSpace b => { c with memSp := b }
  | .busMaster b => { c with busM := b }
  | .msixEnable b => { c with msixEn := b }
  | .vector k a d => { c with table := tabSet (0, 0) c.table k (a, d) }

/-- A request that changes the configuration reaches a function: one of configuration space in D3hot too, one to the MSI-X table as a BAR access. -/
def cfgReaches (s : State) (pf : Pf) (f : CfgField) : Bool :=
  match f with
  | .vector _ _ _ => pfAnswers s pf
  | _ => s.hif.up

/-- CONFIG_SPACE_WRITE: configuration requests reach both functions whenever the link is up, in D3hot too. -/
def execConfigSpaceWrite (pf : Pf) (f : CfgField) (s : State) : Host.Outcome State Fault Refusal :=
  let s := begin s
  .next (if cfgReaches s pf f then setPf s pf (cfgPut f (pfOf s pf)) else unsupported s)

/-- MSIX_UNMASK: the mask bit of a vector is cleared, and a pending message is sent. -/
def execMsixUnmask (pf : Pf) (vec : Fin 64) (s : State) : Host.Outcome State Fault Refusal :=
  let s := begin s
  .next (if pfAnswers s pf then
      let b := BitVec.ofNat 64 (1 <<< vec.val)
      let c := pfOf s pf
      let s' := setPf s pf { c with mask := c.mask &&& ~~~b }
      if c.pend.getLsbD vec && c.msixEn && c.busM then send (setPf s pf { c with mask := c.mask &&& ~~~b, pend := c.pend &&& ~~~b }) (vectorMsg s pf vec)
      else s'
    else unsupported s)

end Sys2Proof.Machine
end

