-- ==== Sys2Proof/Machine/Tick.lean ====
section
/-!
DEFINITION. The tick (R28 to R31, R47, R60): what happens at a tick boundary, and the phases of the tick that starts there.
-/
namespace Sys2Proof.Machine

/-! ### The boundary (R28, R322) -/

/-- The next boundary in ns: the next multiple of the tick, but none closer than half a tick. -/
def nextBound (s : State) : Nat :=
  let t := tickNs s
  let v := (tbOf s (sysTb s)).val
  let b := (v / (65536 * t) + 1) * t
  if 2 * (b * 65536 - v) < t * 65536 then b + t else b

/-- The boundary that is next in time falls too close, and is skipped (R28). -/
def boundSkipped (s : State) : Bool :=
  let t := tickNs s
  decide (nextBound s ≠ ((tbOf s (sysTb s)).val / (65536 * t) + 1) * t)

/-- The SYS time base was stepped since the last boundary. -/
def sysStepped (s : State) : Bool := decide ((tbOf s (sysTb s)).val ≠ s.sys.bound * 65536)

/-- What counts CK_AON, whatever the time bases do: the wait for the next report, the ages of the snapshots and the hours of operation
(R353, R366, R432). -/
def aonTime (s : State) (ns : Nat) : State :=
  let s := if s.sys.mode = .md1 then s else secSet s (fun c => { c with attWait := c.attWait - ns })
  let s := redSet s (fun r => { r with rxAge := r.rxAge + ns, snap := r.snap.map (fun n => { n with age := n.age + ns }) })
  proofTime s ns

/-- Time passes up to the boundary at b. -/
def timeTo (s : State) (b : Nat) : State :=
  let l := s.tim.loc / 65536
  let s := timAdvance s (b * 65536 - (tbOf s (sysTb s)).val)
  let s := sysSet s (fun y => { y with bound := b, tickCnt := y.tickCnt + 1 })
  aonTime s (s.tim.loc / 65536 - l)

/-! ### Frames (R30, R31, R40, R348) -/

/-- RED_TAKE_US at the first deblocking frame of a takeover. -/
def takeTime (s : State) : State :=
  if s.red.takeOpen && valveDeb s then
    redSet (regSet s 0xE0050 (at_ (min ((s.tim.loc - s.red.claimAt) / 65536000) 0xFFFFFFFF) 0)) (fun r => { r with takeOpen := false })
  else s

/-- A transition that waits for its first deblock or charging command ends once that has gone out (R48, R355). -/
def firstOut (s : State) : State :=
  let out := decide (s.sys.mode = .md4) || valveDeb s || !(List.range 6).any (fun p => portUsed s p)
  if (s.sys.trans = some .firstCommand || s.sys.trans = some .restore) && out then transDone s else s

/-- What follows the frames that blocked the ports: the token is released, and a unit that goes to MD_3 powers down. -/
def afterBlock (s : State) : State :=
  let s := releaseNow (sysSet s (fun y => { y with blockNext := false })) s.sys.relCause
  if s.sys.mode = .md3 && s.sys.trans = some .toBanked then bankDown s else s

/-- The frames of the boundary leave. A safe stop that came after phase F blocks at the next ones. -/
def framesLeave (s : State) (idx : Nat) (build offs : List (Fin 48)) : State :=
  let blocking := s.sys.blockNext
  let s := if blocking && tokenHeld s && pairUnit s && s.sys.mode.forms then snapCapture s true else s
  let s := crdFrames s idx build offs
  let late := s.sys.late
  let s := sysSet s (fun y => { y with repeatNext := false, late := false })
  let s := firstOut (takeTime s)
  let s := if blocking then afterBlock s else s
  if late then sysSet s (fun y => { y with blockNext := true, relCause := 4 }) else s

/-! ### Votes and scheduled actions (R47, R60 to R62, R95 to R98) -/

/-- The rows whose decision abandons a commit of the same boundary (R98). -/
def abandons (r : Option Row) : Bool :=
  match r with
  | some .safe => true
  | some .blockRelease => true
  | some .faultForm => true
  | some .faultIsland => true
  | _ => false

/-- The restore of a takeover begins as its mode is voted (R354, R355). -/
def restoreVoted (s : State) (r : Option Row) : State :=
  if r = some .claimed && s.red.restored then
    match s.red.snap with
    | some n => restoreApply s n.bytes
    | none => s
  else s

/-- The token of a single unit is taken once its entry to MD_2 has blocked the ports (R339). -/
def takeToken (s : State) : State :=
  if s.red.takeDue && !s.sys.blockNext then singleTake (redSet s (fun r => { r with takeDue := false })) else s

/-- Groups whose divider a commit changed start afresh. -/
def skewFollow (old : Image) (s : State) : State :=
  let d := rgDivs old
  let e := rgDivs (imgOf s)
  { s with fab := { s.fab with skew := (List.range 4).map (fun g => if nth 1 d g = nth 1 e g then nth none s.fab.skew g else none) } }

/-- The reaction to an input of the swing engine that has been invalid for LOSS_LIMIT, while the unit is switching (R161). -/
def swgLimits (s : State) (tPrev : Nat) : State :=
  if switching s && swgLossLimit (swgEnv s) s.swg.inp tPrev then blockRelease s else s

/-- A claim that the host's command began at this boundary is a cause of rank 4, which the requests that come to the same vote lose to (R49, R358). -/
def claimPrevails (s : State) : State :=
  if s.sys.trans.isSome then s
  else
    let reqs := voteRequests s
    let s := sysSet s (fun y => { y with requests := [], held := none })
    let (s, cs) := reqs.foldl requestCand (s, [])
    cs.foldl (fun s c => match c.req with
      | some r => reqStatus s r 4
      | none => s) s

/-- Everything that is decided at the boundary; `partner` is whether the partner commits at it. -/
def boundaryVote (s : State) (tPrev : Nat) (partner : Bool) : State :=
  let run := saRun s tPrev s.sys.bound
  let (s, row) := vote run.st
  let s := restoreVoted s row
  let old := imgOf s
  let s := saCommits s run.commit (abandons row)
  let s := if partner then partnerCommit s (abandons row) else s
  let s := skewFollow old s
  let s := saModes (saParams s run.params) run.modes
  takeToken (tmrResync (frstHeld s))

/-! ### Phases (R29, R106, R107) -/

/-- RG_SKEW for the groups that are due, and the ticks in which they are evaluated (R106). -/
def skewTick (s : State) : State :=
  let divs := rgDivs (imgOf s)
  if evalSet s < 2 then { s with fab := { s.fab with skew := List.replicate 4 none } }
  else
    (List.range 4).foldl (fun s g =>
      if s.fab.idx % nth 1 divs g ≠ 0 then s
      else
        let bad := match nth none s.fab.skew g with
          | some c => decide (s.sys.tickCnt ≠ c + nth 1 divs g)
          | none => false
        let s := { s with fab := { s.fab with skew := setNth s.fab.skew g (some s.sys.tickCnt) } }
        if bad then setFlag s fnFAB 8 else s) s

/-- A node stands in a phase and its rate group is due. -/
def dueIn (env : FabEnv) (ph id : Nat) : Bool :=
  match nodeRec env.img id with
  | some r => r.phase = ph && nodeDue env r
  | none => false

/-- A node as a capture takes it at the end of its phase (R129). -/
def nodeCapture (env : FabEnv) (cells : Tab Cell) (id : Nat) : Capture :=
  let out := match nodeRec env.img id with
    | some r => !inSet env.tainted env.eval r
    | none => true
  captureOf env.img cells out id

/-- The armed node is captured where its phase has run. -/
def peekTake (env : FabEnv) (ph : Nat) (s : State) : State :=
  match s.fab.peekArm with
  | some id =>
    if dueIn env ph id then
      { s with fab := { s.fab with peekArm := none, capture := some (nodeCapture env s.fab.cells id), peekSeq := (s.fab.peekSeq + 1) % 16 } }
    else s
  | none => s

/-- One phase of the fabric with what it delivers and reports. -/
def fabPhase (s : State) (ph : Nat) : State :=
  let env := fabEnv s s.fab.before
  let run := evalPhase env ph ⟨s.fab.cells, s.fab.sink, []⟩
  let s := { s with fab := { s.fab with cells := run.cells, sink := run.sink } }
  let s := run.evts.foldl fabApply s
  peekBatch (peekTake env ph s) (fun id => dueIn env ph id) (fun id => nodeCapture env s.fab.cells id)

/-- The Latch phase: what the chains, the ports and the field inputs supply (R29); the outputs take what their SINKs delivered in the tick that has
ended (R442). -/
def latchPhase (s : State) : State :=
  let src := putWords s.fab.src (latchWords s)
  let fab := (List.range 16).map (fun n => sinkWord s 4 0 n)
  fioSet { s with fab := { s.fab with src := src, latch := src, before := s.fab.cells, sinkOld := s.fab.sink, miss := [] } } (fun f => { f with fab := fab })

/-- The capture of the swing engine at the end of a phase S in which it ran (R165). -/
def swgTake (s : State) : State :=
  if s.swg.arm && swgTracks s then
    { s with swg := { s.swg with arm := false, cap := some (swgCapture Config.engineFrac s.swg), seq := (s.swg.seq + 1) % 16 } }
  else s

/-- Ticks that fill a time in ns; at least one. -/
def everyTicks (s : State) (ns : Nat) : Nat := max 1 (ns / tickNs s)

/-- The snapshots of the end of phase S (R349, R351). -/
def snapshots (s : State) : State :=
  let holds := tokenHeld s && s.sys.mode.forms
  let s := if holds && s.fab.idx % everyTicks s 1000000 = 0 then snapCapture s false else s
  if s.fab.idx % everyTicks s 100000000 ≠ 0 then s
  else if holds then
    match s.red.stream with
    | some t => ringWrite s t.bytes
    | none => s
  else if s.sys.mode = .md3 then
    match s.red.snap with
    | some n => ringWrite s n.bytes
    | none => s
  else s

/-- Phase S. -/
def phaseS (s : State) : State :=
  let s := { s with swgOld := s.swg }
  let s := if s.frst.inReset.testBit fnSWG then s
    else
      let s := swgSeed s
      swgTake (swgApply s (swgTick (swgEnv s) s.swg))
  let s := snapshots s
  { s with fab := { s.fab with src := putWords s.fab.src (swgWords s s.swg) } }

/-- Phase D. What it asks for happens as its tick ends. -/
def phaseD (s : State) : State :=
  let s := svcTick { s with rdlOld := s.rdl }
  let s := if s.frst.inReset.testBit fnRDL then s else (let x := rdlTick (rdlEnv s) s.rdl; { s with rdl := { x.1 with fx := x.2 } })
  { s with fab := { s.fab with src := putWords s.fab.src (rdlWords s s.rdl) } }

/-- Phase F, as far as it checks and converts; the frames it builds leave at the next boundary. -/
def phaseF (s : State) : State := (List.range 24).foldl (gatePhaseF (fun ep n => sinkWord s 1 ep n)) s

/-- The tick that starts at the boundary; in MD_3 the domains of the phases are off, and the ring is written (R41, R351). -/
def tickPhases (s : State) : State :=
  if s.sys.mode = .md3 then snapshots s
  else phaseF (phaseD (fabPhase (phaseS (fabPhase (latchPhase (skewTick s)) 1)) 3))

/-- A port of a restored unit carries what the engine chose once it has been UP with a valid uplink set at one latch; the restore is over once every
used port has (R355). -/
def restoredUp (s : State) : State :=
  let met := (List.range 6).foldl (fun m p => if (portOf s p).state = 4 && (portOf s p).upset then m ||| 2 ^ p else m) s.red.met
  if !s.red.restored then s
  else redSet s (fun r => { r with met := met, restored := !(List.range 6).all (fun p => !portUsed s p || met.testBit p) })

/-! ### The commands -/

/-- A tick boundary outside MD_0 and MD_1. The chunk of a tick belongs to a snapshot captured before it (R349). -/
def boundary (s : State) (tPrev : Nat) (us : List Uplink) (build offs : List (Fin 48)) (partner : Bool) : State :=
  let idx := s.sys.bound / tickNs s
  let old := s.red.stream.map (·.seq)
  let s := framesLeave s idx build offs
  let s := if s.red.stream.map (·.seq) = old then streamTick s else s
  let claim := s.red.cmd = some 1
  let s := redCommand s
  let s := if claim && s.red.cmdRes = 1 then claimPrevails s else s
  let s := boundaryVote (swgLimits s tPrev) tPrev partner
  let n := s.sys.bound / tickNs s
  let s := gateBoundary { s with fab := { s.fab with idx := n } } n
  let s := restoredUp (crdLatch s us idx)
  let s := tickPhases (recSet s (fun c => { c with tick := 0 }))
  crdAfter (redBoundary s)

/-- A step of the SYS time base at this boundary that puts Cord SEQ outside the window of a valve-base unit: backward, or over more than 32,767
ticks; the unit that holds the token then advances its epoch (R333). -/
def stepEpoch (s : State) : State :=
  let v := (tbOf s (sysTb s)).val
  if tokenHeld s && (decide (v < s.sys.bound * 65536) || decide (nextBound s / tickNs s > s.sys.bound / tickNs s + 1 + 32767)) then epochAdvance s
  else s

/-- TICK_BOUNDARY: with the synthesiser locked and outside MD_0. `uplinks` are the frames received since the last boundary, `build` the lanes
whose builders disagree and `offs` those whose OFFSET they write differently; `note` has how many boundaries passed unseen while the outputs
were gated, and whether the partner commits. -/
def execTickBoundary (uplinks : List Uplink) (build : List (Fin 48)) (offs : List (Fin 48)) (note : TickNote) (s : State) :
    Host.Outcome State Fault Refusal :=
  let s0 := begin s
  .next (if s0.sys.mode = .md0 || s0.clk.state ≠ 2 then s0
    else
      let b := nextBound s0 + (if s0.clk.gap then note.skip * tickNs s0 else 0)
      let tPrev := if sysStepped s0 then b - tickNs s0 else s0.sys.bound
      let s := timeTo (rdlClose (if boundSkipped s0 then adcRestart s0 else s0)) b
      let s := clkSet (lossLog s) (fun c => { c with gap := false })
      let s := mapPost (loadTick (if s.sys.mode = .md1 then boundaryVote s tPrev false else boundary s tPrev uplinks build offs note.partner))
      redEval s0 (fioEval (domsEval (stepEpoch (timBoundary s s0.sys.mode)))))

/-- The unit runs the phases of a tick. -/
def tickRuns (s : State) : Bool := s.clk.state = 2 && decide (2 ≤ s.sys.mode.code) && decide (s.sys.mode ≠ .md3)

/-- Whether an overrun is the second within 16 ticks of one before (R30). -/
def overrunPair (s : State) : Bool :=
  match s.sys.ovrAt with
  | some c => decide (s.sys.tickCnt ≤ c + 16)
  | none => false

/-- TICK_OVERRUN: phase `ph` (A, S, B, D, F) of the present tick has missed its deadline. -/
def execTickOverrun (ph : Fin 5) (s : State) : Host.Outcome State Fault Refusal :=
  let s0 := begin s
  .next (if !tickRuns s0 || s0.sys.ovrAt = some s0.sys.tickCnt then s0
    else
      let second := overrunPair s0
      let s := overrunHold s0
      let s := { s with fab := { s.fab with src := putWords s.fab.src (rdlWords s s.rdl) } }
      let s := regPut (regInc s 0x110 31 16) 0x110 10 8 (ph.val + 1)
      let s := logNow s fnSYS 0x86 (argAt 0 (ph.val + 1) + argAt 1 (b2n second))
      let s := sysSet s (fun y => { y with ovrAt := some y.tickCnt })
      redEval s0 (if second then portOff (blockRelease s) 3 else s))

/-- SYS_TB_MISMATCH: the two copies of the SYS time base differ (R365). -/
def execSysTbMismatch (s : State) : Host.Outcome State Fault Refusal := .next (blockRelease (begin s))

end Sys2Proof.Machine
end

