-- ==== Sys2Proof/Machine/ViewsA.lean ====
section
/-!
DEFINITION. What the registers of functions 0 to 9 read as: the RO fields report the state (R18), and the stored bits stand
beside them. None where the register holds stored bits alone.
-/
namespace Sys2Proof.Machine

/-- A number as a word. -/
def wordOf (v : Nat) : Word := BitVec.ofNat 32 v

/-- A signed number as a word, saturating. -/
def wordSat (x : Int) : Word := wordOf (ofSigned 32 (clampInt (-(2 ^ 31)) (2 ^ 31 - 1) x))

/-- One half of a 64-bit number. -/
def half64 (v : Nat) (upper : Bool) : Word := wordOf (if upper then v / 2 ^ 32 else v)

/-- The tag of a function (R24). -/
def tagOf (fn : Nat) : String :=
  nth "" ["SYS", "CLK", "TIM", "ETH", "HIF", "STK", "RKS", "BLK", "PTS", "SEC", "FAB", "SWG", "RDL", "CRD", "RED", "GGD", "PWM",
    "ADC", "FLT", "REC", "SAF", "FIO", "MON"] fn

/-- TAG_ID (R24). -/
def idWord (fn : Nat) : Word := at_ fn 24 ||| wordOf (leNat (ascii (tagOf fn)))

/-- SYS_MODE (R41). -/
def modeWord (s : State) : Word :=
  let y := s.sys
  orAll [flagAt s.red.lease 17, flagAt (tokenHeld s) 16, at_ y.cause 12, flagAt y.halt 11, flagAt y.held.isSome 9,
    flagAt (y.trans.isSome || y.live.isSome) 8, at_ y.prev.code 4, at_ y.mode.code 0]

/-- Word `off` of a scheduled-action entry (R57). -/
def saWord (e : SaEntry) (off : Nat) : Word :=
  match off with
  | 0 => e.ns
  | 4 => e.secl
  | 8 => e.sech
  | 12 => saCtl e
  | 16 => e.arg
  | 20 => e.val
  | 24 => at_ e.res 4 ||| at_ e.status 0
  | 28 => e.delay
  | _ => 0

/-- SYS. -/
def viewSys (s : State) (o : Nat) : Option Word :=
  match inRows o 0x1000 0x20 64 with
  | some (k, w) => some (saWord (nth SaEntry.empty s.sa k) w)
  | none =>
    match o with
    | 0x20 => some (modeWord s)
    | 0x28 => some (at_ s.sys.resTarget 8 ||| at_ s.sys.resSeq 4 ||| at_ s.sys.resStatus 0)
    | 0x104 => some (wordOf s.frst.inReset)
    | 0x110 => some (regGet s 0x110 ||| at_ s.sys.tickCode 0)
    | 0x118 => some (half64 s.sys.tickCnt false)
    | 0x11C => some (half64 s.sys.tickCnt true)
    | 0x200 => some (half64 (bitsOf 64 (fun k => (nth SaEntry.empty s.sa k).armed)) false)
    | 0x204 => some (half64 (bitsOf 64 (fun k => (nth SaEntry.empty s.sa k).armed)) true)
    | _ => none

/-- CLK: the dividers are those of R25. -/
def viewClk (s : State) (o : Nat) : Option Word :=
  match inRows o 0x100 4 7 with
  | some (k, _) => some (regGet s (0x10100 + 4 * k) ||| at_ (nth 0 [8, 16, 4, 25, 4, 20, 50] k) 0)
  | none =>
    if o = 0x14 then some (orAll [at_ (satNat 16 s.clk.acqUs) 16, flagAt s.clk.rosc 5, flagAt s.clk.refOk 4, at_ s.clk.state 0]) else none

/-- TIM_TB_STAT_b. -/
def tbStat (s : State) (b : Nat) : Word :=
  let t := tbOf s b
  let src := match tbSrc s b with
    | 1 => if t.dom = 0 then 1 else 2
    | 2 => 3
    | _ => 0
  orAll [flagAt t.never 7, flagAt t.pendSt 6, flagAt t.slew 5, flagAt t.hold 4, flagAt t.trace 3,
    flagAt ((s.clk.state ≠ 2 || s.sys.mode = .md3) && s.sys.mode ≠ .md0) 2, at_ src 0]

/-- A time difference of 2^−16 ns in ns, as a word. -/
def nsWord (x : Int) : Word := wordSat (roundDiv x 65536)

/-- TIM; the four value words are those that the last read of TIM_TB_FRAC_b latched. -/
def viewTim (s : State) (o : Nat) : Option Word :=
  match inRows o 0x100 0x40 4 with
  | some (b, w) =>
    let t := tbOf s b
    let v := time96 t.lat
    match w with
    | 0 => some (wordOf (v % 65536))
    | 4 => some (wordOf (v / 2 ^ 16))
    | 8 => some (wordOf (v / 2 ^ 48))
    | 12 => some (wordOf (v / 2 ^ 80 % 65536))
    | 16 => some (tbStat s b)
    | 20 => some (nsWord t.err)
    | 24 => some (wordSat t.rho)
    | _ => none
  | none =>
    match inRows o 0x200 0x40 2 with
    | some (d, w) =>
      let x := domOf s d
      match w with
      | 0 => some (orAll [at_ x.cls 24, at_ (ofSigned 16 x.utc) 8, at_ x.port 4, at_ x.state 0])
      | 8 => some (half64 x.gm false)
      | 12 => some (half64 x.gm true)
      | 16 => some (nsWord x.resid)
      | 20 => some (nsWord (nth 0 x.pd 0))
      | 24 => some (nsWord (nth 0 x.pd 1))
      | _ => none
    | none => if o = 0x10 then some (at_ s.tim.sys 0) else if o = 0x24 then some (at_ s.tim.stepRes 0) else none

/-- ETH. -/
def viewEth (s : State) (o : Nat) : Option Word :=
  match inRows o 0x100 0x10 2 with
  | some (p, 0) =>
    some ((if hasSect (imgOf s) 0x0D then at_ (pNatAt (imgOf s) 0x0D0E p) 1 else 0) ||| flagAt (nth false s.tim.link p) 0)
  | _ => none

/-- HIF. -/
def viewHif (s : State) (o : Nat) : Option Word :=
  if o = 0x10 then some (if s.hif.up then orAll [flagAt true 8, at_ s.hif.width 4, at_ s.hif.gen 0] else 0) else none

/-- The worker is powered in the mode (R402): those of the ports, of the recorder and of the fabric only where the stoker serves every opcode. -/
def workerOn (m : Mode) (w : Nat) : Bool :=
  match m with
  | .md0 | .md3 => false
  | .md1 => w ∈ [0, 6, 7, 8, 10, 11]
  | _ => true

/-- STK_WK_STAT_w. -/
def workerStat (s : State) (w : Nat) : Word :=
  let k := workerOf s w
  let reg := (w = 5 && rdBusy s) || (w = 7 && secBusy s)
  let st := if !workerOn s.sys.mode w then 0 else if k.service.isSome then 2 else if reg then 3 else 1
  at_ st 30 ||| flagAt k.next.isSome 29 |||
    (match k.service with
      | some i => at_ i.ring 18 ||| at_ i.b.flow.toNat 0
      | none => 0)

/-- STK. -/
def viewStk (s : State) (o : Nat) : Option Word :=
  let halts := bitsOf 64 (fun r => (ringOf s r).halted)
  match inRows o 0x200 4 12, inRows o 0x800 4 64, inRows o 0x1000 0x20 64 with
  | some (w, 0), _, _ => some (workerStat s w)
  | _, some (r, 0), _ => some (at_ (ringOf s r).cause 0)
  | _, _, some (r, 0x14) => some (wordOf (ringOf s r).pi)
  | _, _, some (r, 0x18) => some (wordOf (ringOf s r).ci)
  | _, _, _ =>
    match o with
    | 0x10 => some (at_ (serviceOf s.sys.mode) 12 ||| at_ (bitsOf 12 (fun w => (workerOf s w).service.isSome)) 0)
    | 0x60 => some (half64 halts false)
    | 0x64 => some (half64 halts true)
    | 0x104 => some (flagAt (traceFull s) 16 ||| at_ s.stk.trNext 0)
    | _ => none

/-- RKS. -/
def viewRks (s : State) (o : Nat) : Option Word :=
  match o with
  | 0x14 => some (orAll ((List.range 16).map (fun k => at_ (nth 2 s.mem.pwr k) (2 * k))))
  | 0x48 => some (at_ s.mem.deny 16 ||| at_ s.mem.parity 0)
  | 0x4C => some (wordOf s.mem.rgnGen)
  | _ => none

/-- BLK. -/
def viewBlk (s : State) (o : Nat) : Option Word :=
  match o with
  | 0x10 => some (flagAt s.mem.scrub 1 ||| flagAt s.mem.blkReady 0)
  | 0x1C => some s.mem.ueAddr
  | _ => none

/-- PTS. -/
def viewPts (s : State) (o : Nat) : Option Word := if o = 0x14 then some (wordOf (s.peat.wear / 1000)) else none

/-- Words of image slot k from SEC_IMG_SLOT_s on (R91). Their reset value is 0: they read 0 until Kindle has read the peat store's records
(R427; DEDUCED). -/
def slotWord (s : State) (k w : Nat) : Word :=
  if !s.sec.idKnown then 0 else
  let x := nth ImgSlot.empty s.peat.slots k
  let full := x.bytes ≠ []
  let le := fun off => if full then wordOf (leAt x.bytes off 4) else 0
  match w with
  | 0 => orAll [flagAt (slotStaged s k) 5, flagAt (x.valid && (readImage k x.bytes).swap) 4, flagAt x.confirmed 3,
      flagAt (s.peat.bootSlot = k) 2, flagAt (slotActive s k) 1, flagAt x.valid 0]
  | 4 => if full then wordOf (readImage k x.bytes).build else 0
  | 8 => le 0x40
  | 12 => if full then wordOf (readImage k x.bytes).cv else 0
  | _ => 0

/-- Words of key table entry e: the two key identities (R425), once Kindle has read the table (R427). -/
def keyIdWord (s : State) (e w : Nat) : Word :=
  if !s.sec.idKnown then 0 else
  match (s.peat.keys.find? (fun x => x.1 = e)).map (·.2) with
  | none => 0
  | some k =>
    if w < 16 then wordOf (leAt (ecdsaId k.ecdsa) w 4) else wordOf (leAt (lmsId k.lms) (w - 16) 4)

/-- SEC. -/
def viewSec (s : State) (o : Nat) : Option Word :=
  match inRows o 0x120 0x10 2, inRows o 0x200 4 128, inRows o 0x400 4 64, inRows o 0x600 0x20 4 with
  | some (k, w), _, _, _ => some (slotWord s k w)
  | _, some (w, 0), _, _ => some (if s.sec.idKnown then wordOf (leAt identity (4 * w) 4) else 0)
  | _, _, some (n, 0), _ => some (if s.sec.idKnown then wordOf (tabGet 0 s.peat.arc n) else 0)
  | _, _, _, some (e, w) => some (keyIdWord s e w)
  | _, _, _, _ =>
    match o with
    | 0x10 => some (orAll [at_ s.sec.bootOther 16, at_ s.sec.bootFirst 8, flagAt (s.sec.bootImg = 1) 5, flagAt (s.sec.ucSlot = 1) 4,
        at_ s.sec.bootRes 0])
    | 0x28 => some (at_ s.sec.arcRes 0)
    | 0x34 => some (at_ s.sec.rcvRes 0)
    | 0x54 => some (at_ s.sec.keyRes 0)
    | 0x74 => some (at_ s.sec.ucStat 0)
    | 0x78 => some (if !s.sec.idKnown then 0 else flagAt (2 ^ 25 ≤ s.peat.leaf) 31 ||| at_ (lmsLeaves - s.peat.leaf) 0)
    | 0x7C => some (wordOf ((s.sec.attWait + 999999) / 1000000))
    | 0x114 => some (orAll [at_ s.sec.imgKib 16, at_ s.sec.imgSlot 12, at_ s.sec.imgState 8, at_ s.sec.imgStatus 0])
    | _ => none

end Sys2Proof.Machine
end

