-- ==== Sys2Proof/Machine/ViewsB.lean ====
section
/-!
DEFINITION. What the registers of functions 10 to 22 read as, and the value of any register as the host reads it (R14 to R18).
-/
namespace Sys2Proof.Machine

/-- How many node cells satisfy p, saturating at 255. -/
def cellCount (s : State) (p : Cell → Bool) : Nat :=
  satNat 8 ((imgOf s).nodes.filter (fun r => r.type = 1 && p (tabGet Cell.fresh s.fab.cells r.id))).length

/-- FAB. -/
def viewFab (s : State) (o : Nat) : Option Word :=
  let c := s.fab.latched
  match inRows o 0x20 4 4, inRows o 0x210 8 4 with
  | some (g, 0), _ =>
    let d := nth 1 (rgDivs (imgOf s)) g
    some (at_ (s.fab.idx % d) 16 ||| at_ d 0)
  | _, some (j, w) =>
    let x := nth SigW.none c.outs j
    some (if w = 0 then wordOf (ofSigned 32 x.m) else flagAt x.v 8 ||| at_ (ofSigned 8 x.e) 0)
  | _, _ =>
    match o with
    | 0x10 => some (orAll [at_ (cellCount s (fun x => x.act = 1 || x.act = 2)) 16, at_ (cellCount s (fun x => x.act = 3)) 8,
        at_ (evalSet s) 0])
    | 0x54 => some (at_ s.fab.lastEvt 28 ||| at_ s.fab.lastNode 0)
    | 0x104 => some (orAll [at_ s.img.status 16, at_ s.img.state 8, at_ s.img.stSlot 5, at_ s.sec.active 4, at_ s.img.plane 0])
    | 0x108 => some (at_ s.img.soft 16 ||| at_ s.img.moved 0)
    | 0x10C => some (at_ s.img.drop 0)
    | 0x204 => some (peekStat s s.fab.capture.isSome)
    | 0x208 => some (at_ (ofSigned 8 c.exp) 0)
    | 0x20C => some (at_ c.freeze 16 ||| at_ c.loss 0)
    | _ => none

/-- SWG_STAT. E_INV reads 1 from the account's first invalid tick on, before ENERGY_INV is raised (DESIGN CHOICE: R143's "meanwhile" could also
be the time after LOSS_N). -/
def swgStat (s : State) : Word :=
  let g := s.swg
  let c := g.cond
  orAll [flagAt c.dead 20, flagAt c.live 19, flagAt (!g.inp.acctOk && decide (0 < g.inp.acctLoss)) 18, flagAt c.ceilRamp 17, flagAt c.inrush 16, flagAt g.grd.locked 15,
    flagAt g.bus.locked 14, flagAt c.pLim 13, flagAt c.eFloor 12, flagAt c.eLim 11, flagAt c.island 10, flagAt c.clear 9,
    flagAt c.fault 8, at_ g.state 0]

/-- SWG. -/
def viewSwg (s : State) (o : Nat) : Option Word :=
  match inRows o 0x110 4 12 with
  | some (j, 0) => some (wordOf (nth 0 s.swg.lat.words j))
  | _ =>
    match o with
    | 0x10 => some (swgStat s)
    | 0x14 => some (flagAt s.swg.inp.acctOk 16 ||| at_ s.swg.inp.valid 0)
    | 0x20 => some (at_ (min s.swg.cond.attempts 255) 8 ||| at_ s.swg.cond.brkState 0)
    | 0x104 => some (snapStat s s.swg.cap.isSome)
    | 0x108 => some (half64 s.swg.lat.theta false)
    | 0x10C => some (half64 s.swg.lat.theta true)
    | _ => none

/-- Every submodule of the arm receives BLOCK. -/
def armBlocked (s : State) (a : Nat) : Bool :=
  armOn (imgOf s) a && (List.range (armSms (imgOf s) a)).all (fun i => (smOf s.rdl a i).choice = 0)

/-- RDL_STAT. -/
def rdlStat (s : State) : Word :=
  let r := s.rdl
  let on := armOn (imgOf s)
  let act := if !rdlRuns s.sys.mode.code || s.frst.inReset.testBit fnRDL then 0
    else if r.run.isSome then 3 else if 5 ≤ s.sys.mode.code ∧ s.sys.mode.code ≤ 9 then 2 else 1
  orAll [at_ act 25, flagAt r.acctOk 24, at_ (bitsOf 6 (armBlocked s)) 16,
    at_ (bitsOf 6 (fun a => on a && (armOf r a).seen && decide (0 < (armOf r a).upBad))) 8, at_ (bitsOf 6 (fun a => on a && (armOf r a).short)) 0]

/-- A fixed-point number of the engine as an unsigned word with f fraction bits. -/
def fxView (x : Int) (f : Nat) : Word := wordOf (satNat 32 (alignBy x ((f : Int) - (Config.engineFrac : Int))).toNat)

/-- Word w of an arm's registers. -/
def armWord (s : State) (a w : Nat) : Option Word :=
  let x := armOf s.rdl a
  let n := armSms (imgOf s) a
  match w with
  | 0 => some (orAll [at_ (ofSigned 11 x.nIns) 21, at_ ((List.range n).filter (fun i => smReason s.rdl a i ≠ 0)).length 11,
      at_ (armAvail (imgOf s) s.rdl a).length 0])
  | 4 => some (fxView (if x.wnom > 0 then fxDiv Config.engineFrac x.w x.wnom else 0) 30)
  | 8 => some (fxView (armMean (rdlEnv s) s.rdl a) 30)
  | _ => none

/-- RDL. -/
def viewRdl (s : State) (o : Nat) : Option Word :=
  let r := s.rdl
  match inRows o 0x100 0x20 6, inRows o 0x400 0x40 6, inRows o 0x610 4 6, inRows o 0x630 4 3 with
  | some (a, w), _, _, _ => armWord s a w
  | _, some (a, w), _, _ => some (wordOf (bitsOf 32 (fun b => armOn (imgOf s) a && smReason r a (w / 4 * 32 + b) ≠ 0)))
  | _, _, some (a, 0), _ => some (wordOf (nth 0 r.idCLat a))
  | _, _, _, some (x, 0) => some (wordOf (nth 0 r.idLLat x))
  | _, _, _, _ =>
    match o with
    | 0x10 => some (rdlStat s)
    | 0x18 => some (fxView r.acctW 32)
    | 0x1C => some (fxView r.acctN 32)
    | 0x20 => some (orAll [at_ r.pre.cause 12, at_ (satNat 8 (alignBy r.pre.vmin (7 - (Config.engineFrac : Int))).toNat) 4, at_ r.pre.state 0])
    | 0x204 => some (smStatWord s r.cap.isSome)
    | 0x208 => some (wordOf r.lat.w0)
    | 0x20C => some (wordOf r.lat.w1)
    | 0x210 => some (wordOf r.lat.w2)
    | 0x304 => some (at_ r.failRes 0)
    | 0x604 => some (idStatWord s (r.idFresh && r.run.isNone))
    | _ => none

/-- CRD_PORT_STAT_p and the words after it. -/
def portWord (s : State) (p w : Nat) : Option Word :=
  let x := portOf s p
  match w with
  | 0 => some (orAll [at_ (bitsOf 8 (fun j => (laneOf s (8 * p + j)).state = 7 && (laneOf s (8 * p + j)).count ≠ 0)) 24,
      at_ x.lp 20, at_ x.cause 16, at_ x.mapId 8, at_ x.state 0])
  | 4 => some (wordOf x.dp)
  | 12 => some (wordOf x.epoch)
  | _ => none

/-- CRD_LANE_STAT_n. -/
def laneStat (l : Lane) : Word :=
  orAll [at_ l.fom 24, at_ l.fomVbu 16, at_ l.cause 12, at_ (min l.retries 15) 8, at_ l.gen 6, at_ l.state 0]

/-- CRD. -/
def viewCrd (s : State) (o : Nat) : Option Word :=
  let bits := fun (f : Port → Bool) => bitsOf 6 (fun p => f (portOf s p))
  match inRows o 0x100 0x20 6, inRows o 0x400 0x40 6, inRows o 0x850 4 13, inRows o 0x1000 0x10 48 with
  | some (p, w), _, _, _ => portWord s p w
  | _, some (p, w), _, _ => some (wordOf (leAt (portOf s p).cap w 4))
  | _, _, some (w, 0), _ => some (wordOf (leAt s.crd.mgtLat (4 * w) 4))
  | _, _, _, some (n, 4) => some (laneStat (laneOf s n))
  | _, _, _, some (n, 8) => some (wordOf (laneOf s n).dl)
  | _, _, _, _ =>
    match o with
    | 0x10 => some (orAll [at_ (bits (fun x => x.upset)) 16, at_ (bits (fun x => x.state = 5)) 8, at_ (bits (fun x => x.state = 4)) 0])
    | 0x84 => some (at_ s.crd.cmdRes 0)
    | 0x98 => some (at_ s.crd.svcRes 0)
    | 0x804 => some (mgtResWord s s.crd.mgtFresh)
    | _ => none

/-- RED_STAT. -/
def redStat (s : State) : Word :=
  let r := s.red
  let theirs := r.hbHere && (match r.hb with | some h => h.flags.getLsbD 4 | none => false)
  orAll [flagAt (snapUsable s) 17, flagAt (ppUp s) 16, flagAt (r.hbkReq || (r.state = .holder && theirs)) 15, flagAt (synced s) 14,
    flagAt (preferred s) 13, flagAt r.unitSel 12, flagAt r.lease 11, flagAt (tknOut s) 10, flagAt r.tknIn 9, flagAt r.hbHere 8,
    at_ r.pstate 4, at_ (redCode r.state) 0]

/-- RED. -/
def viewRed (s : State) (o : Nat) : Option Word :=
  match o with
  | 0x10 => some (redStat s)
  | 0x14 => some (wordOf s.red.epoch)
  | 0x18 => some (wordOf s.red.epochP)
  | 0x1C => some (match s.red.snap with
      | some n => at_ (satNat 16 (n.age / 10000)) 16 ||| at_ (n.seq % 65536) 0
      | none => at_ 0xFFFF 16)
  | 0x24 => some (at_ s.red.cmdRes 0)
  | 0x54 => some (match ringNewest s with
      | some k => flagAt true 12 ||| at_ k 0
      | none => 0)
  | _ => none

/-- GGD. -/
def viewGgd (s : State) (o : Nat) : Option Word :=
  match inRows o 0x100 0x10 24 with
  | some (n, 12) => some (orAll [at_ (chanOf s n).cause 16, at_ (chanOf s n).tries 8, at_ (chanOf s n).state 0])
  | some _ => none
  | none =>
    match o with
    | 0x10 => some (flagAt s.ggd.ht 24 ||| at_ (bitsOf 24 (fun n => (chanOf s n).trp)) 0)
    | 0x84 => some (at_ s.ggd.clrRes 0)
    | _ => none

/-- PWM: the shadow and active sets are those of the channels. -/
def viewPwm (s : State) (o : Nat) : Option Word :=
  match inRows o 0x100 0x40 24 with
  | some (n, w) =>
    let c := chanOf s n
    match w with
    | 0x00 => some (regGet s (chCtlA n) ||| flagAt (chPriv s n) 5)
    | 0x08 => some (wordOf c.rise)
    | 0x0C => some (wordOf c.fall)
    | 0x10 => some (wordOf c.aRise)
    | 0x14 => some (wordOf c.aFall)
    | 0x18 => some (orAll [at_ c.rseq 24, at_ c.wseq 16, flagAt c.pend 8])
    | 0x1C => some (wordOf (chPerSet s n))
    | 0x20 => some (if hasSect (imgOf s) 0x0A then wordOf (chPhs s n) else 0)
    | _ => none
  | none => if o = 0x18 then some (flagAt (mayStat s) 8 ||| at_ s.ggd.laSeq 0) else none

/-- ADC. -/
def viewAdc (s : State) (o : Nat) : Option Word :=
  let c := s.adc.cal
  let p := fun k => nth ⟨0, 0, 0, 0, false, false, false⟩ s.adc.pls k
  match inRows o 0x400 8 32 with
  | some (i, w) =>
    let (z, k) := calCoef s i (field (chainOf s i).cfg 16 15)
    some (if w = 0 then at_ (ofSigned 24 (roundShift z 8)) 8 else wordOf (ofSigned 32 k))
  | none =>
    match o with
    | 0x14 => some (orAll [at_ (holdPhi s) 16, flagAt (bit (regGet s 0x110018) 31) 9, flagAt s.adc.refFault 8, flagAt s.adc.refRdy 0])
    | 0x20 => some (orAll [flagAt (p 1).act 5, flagAt (p 1).exp 4, flagAt (p 1).fail 3, flagAt (p 0).act 2, flagAt (p 0).exp 1,
        flagAt (p 0).fail 0])
    | 0x28 => some (at_ (p 0).c1 16 ||| at_ (p 0).c0 0)
    | 0x2C => some (at_ (p 1).c1 16 ||| at_ (p 1).c0 0)
    | 0x108 => some (calStatWord s (c.fresh && c.stat ≠ 1))
    | 0x10C => some (at_ (ofSigned 24 (roundShift c.latMean 8)) 8)
    | 0x110 => some (at_ (satNat 16 c.latSpread) 0)
    | _ => none

/-- FLT_CH_STAT_i. -/
def chStat (c : Chain) : Word :=
  let left := match c.fade with
    | some (f, j) => f - j
    | none => 0
  orAll [at_ (satNat 16 c.inv) 16, flagAt c.win 15, flagAt (c.held.isSome || c.want.isSome) 14, flagAt c.fade.isSome 13, flagAt c.bank 12,
    at_ left 0]

/-- FLT. -/
def viewFlt (s : State) (o : Nat) : Option Word :=
  match inRows o 0x100 0x20 32 with
  | some (i, 4) => some (chStat (chainOf s i))
  | some (i, 8) => some (chainOf s i).lat
  | some (i, 12) => some (resStatWord (chainOf s i) (chainOf s i).fresh)
  | some _ => none
  | none => if o = 0x50 then some (at_ s.adc.wrCh 8 ||| at_ s.adc.wrRes 0) else none

/-- Word w of the directory entry of a record slot. -/
def dirWord (r : RSlot) (w : Nat) : Word :=
  match w with
  | 0 => at_ r.state 28 ||| at_ (leAt r.header 6 2) 0
  | 4 => wordOf r.num
  | 8 => wordOf (leAt r.header 0x28 12 / 2 ^ 48)
  | _ => wordOf (leAt r.header 0x28 12 / 2 ^ 16)

/-- REC. -/
def viewRec (s : State) (o : Nat) : Option Word :=
  let c := s.rcd
  match inRows o 0x1000 0x10 256 with
  | some (k, w) => some (dirWord (slotOf s k) w)
  | none =>
    match o with
    | 0x10 => some (orAll [at_ ((List.range 256).filter (fun k => (slotOf s k).state = 2)).length 23, at_ c.rate 19, flagAt c.full 18,
        flagAt c.clamp 17, at_ c.slot 8, at_ c.state 0])
    | 0x24 => some (at_ c.ctlRes 0)
    | 0x10C => some (at_ c.rdSlot 8 ||| at_ c.rdStat 0)
    | 0x110 => some (wordOf c.rdLen)
    | 0x204 => some (orAll [flagAt c.fFresh 8, at_ c.fSeqLat 4, at_ c.fStat 0])
    | 0x208 => some (wordOf (nth 0 c.fLat 0))
    | 0x20C => some (wordOf (nth 0 c.fLat 1))
    | 0x210 => some (wordOf (nth 0 c.fLat 2))
    | 0x214 => some (wordOf (nth 0 c.fLat 3))
    | _ => none

/-- SAF. -/
def viewSaf (s : State) (o : Nat) : Option Word :=
  let f := s.saf
  let rs := match f.rstate with
    | .released => 0
    | .pressed => 1
    | .stuck => 2
  match o with
  | 0x10 => some (orAll [regGet s 0x140010, at_ rs 20, flagAt (8760 ≤ s.peat.proof) 9, flagAt (f.cplA || f.cplB) 8, flagAt f.disc 7, flagAt (cvOk s) 6,
      flagAt f.confArm 5, flagAt f.ack 4, flagAt f.chanB 2, flagAt f.chanA 1, flagAt f.lock 0])
  | 0x24 => some (at_ f.res 0)
  | 0x30 => some (s.peat.checkVal.getD 0)
  | 0x4C => some (wordOf s.peat.proof)
  | _ => none

/-- FIO. -/
def viewFio (s : State) (o : Nat) : Option Word :=
  let f := s.fio
  match o with
  | 0x10 => some (orAll [flagAt f.link 31, flagAt (fioFault f) 30, flagAt f.uv 29, flagAt f.low 28, at_ f.mv 0])
  | 0x14 => some (at_ (fioValid s) 16 ||| at_ f.lvl 0)
  | 0x18 => some (at_ (fioBreak s) 0)
  | 0x24 => some (at_ f.outRes 0)
  | 0x28 => some (at_ f.host 0)
  | 0x2C => some (at_ f.safe 16 ||| at_ f.level 0)
  | _ => none

/-- MON. -/
def viewMon (s : State) (o : Nat) : Option Word :=
  match inRows o 0x200 4 32 with
  | some (w, 0) => some (wordOf (leAt s.mon.latH (4 * w) 4))
  | _ => if o = 0x48 then some (flagAt s.mon.busy 8 ||| at_ (0x58 + s.mon.strap) 0) else none

/-- What a register whose RO bits report the state reads as, by function. -/
def viewOf (s : State) (fn o : Nat) : Option Word :=
  match fn with
  | 0 => viewSys s o
  | 1 => viewClk s o
  | 2 => viewTim s o
  | 3 => viewEth s o
  | 4 => viewHif s o
  | 5 => viewStk s o
  | 6 => viewRks s o
  | 7 => viewBlk s o
  | 8 => viewPts s o
  | 9 => viewSec s o
  | 10 => viewFab s o
  | 11 => viewSwg s o
  | 12 => viewRdl s o
  | 13 => viewCrd s o
  | 14 => viewRed s o
  | 15 => viewGgd s o
  | 16 => viewPwm s o
  | 17 => viewAdc s o
  | 18 => viewFlt s o
  | 19 => viewRec s o
  | 20 => viewSaf s o
  | 21 => viewFio s o
  | 22 => viewMon s o
  | _ => none

/-- What the register at a BAR0 offset shows: the identity words of R24, what the state shows where the register reports it, and the stored
bits elsewhere (R18). -/
def regShown (s : State) (a : Nat) : Word :=
  if a % 0x10000 = 0 then idWord (a / 0x10000)
  else if a % 0x10000 = 4 then 1
  else (viewOf s (a / 0x10000) (a % 0x10000)).getD (regGet s a)

/-- The bits of a register word that a read returns: those with a code other than WO (R16, R18). -/
def readMask (d : RegDef) (upper : Bool) : Word := halfOf upper (d.rw ||| d.rws ||| d.w1c ||| d.ro)

/-- The value of the register at a BAR0 offset, as a read returns it: zero at a reserved address and in reserved and WO bits (R16, R18). -/
def regView (s : State) (a : Nat) : Word :=
  match regDefOf a with
  | none => 0
  | some (d, _, upper) => regShown s a &&& readMask d upper

end Sys2Proof.Machine
end

