-- ==== Sys2Proof/Machine/HostBus.lean ====
section
/-!
DEFINITION. The host's accesses to BAR0 as such (R13 to R19, R382, R383, R387): where a write goes, how 64-bit registers are read
and written, the event registers, and accesses that have no register.
-/
namespace Sys2Proof.Machine

/-- What a command does to the state. -/
abbrev Meaning := State → Host.Outcome State Fault Refusal

/-- A code that names no command has no effect; a PF0-only register still refuses PF1 (R19). -/
def noCommand (pf : Pf) (a : Nat) : Meaning := fun s => .next (hostPf0 (begin s) pf a id)

/-! ### Registers whose writes are rows of their own -/

/-- SEC_IMG_CTL. -/
def imgCtlRow (pf : Pf) (v : Word) : Meaning :=
  let slot := finF 2 v 4 4
  match field v 3 0 with
  | 1 => execImgLoad pf (keyOf v) slot
  | 2 => execImgErase pf (keyOf v) slot
  | 3 => execImgAbort pf (keyOf v)
  | 4 => execImgBootNext pf (keyOf v) slot
  | _ => noCommand pf 0x90100

/-- FAB_IMG_CTL. -/
def fabCtlRow (pf : Pf) (v : Word) : Meaning :=
  match field v 3 0 with
  | 1 => execImgStage pf (keyOf v) (finF 2 v 4 4)
  | 2 => execImgCommit pf (keyOf v) (bit v 5)
  | 3 => execImgUnstage pf (keyOf v)
  | 4 => execImgConfirm pf (keyOf v)
  | _ => noCommand pf 0xA0100

/-- SEC_RCV_CTL; ENROLL comes as its own row, with the bytes that its DMA read returns. -/
def rcvCtlRow (pf : Pf) (v : Word) : Meaning :=
  match field v 3 0 with
  | 1 => execLoadImage pf (keyOf v) (finF 2 v 4 4)
  | 2 => execLoadUcode pf (keyOf v) (finF 2 v 4 4)
  | 4 => execRestart pf (keyOf v)
  | _ => noCommand pf 0x90030

/-- SEC_UC_CTL. -/
def ucCtlRow (pf : Pf) (v : Word) : Meaning :=
  match field v 3 0 with
  | 1 => execUcLoad pf (keyOf v) (finF 2 v 4 4)
  | 2 => execUcBootNext pf (keyOf v) (finF 2 v 4 4)
  | 3 => execUcConfirm pf (keyOf v)
  | _ => noCommand pf 0x90070

/-- RDL_FAIL_CMD. -/
def failRow (pf : Pf) (v : Word) : Meaning :=
  match field v 14 12 with
  | 1 => execSmSet pf (keyOf v) (finF 8 v 11 9) (finF 512 v 8 0)
  | 2 => execSmClear pf (keyOf v) (finF 8 v 11 9) (finF 512 v 8 0)
  | 3 => execSmClearArm pf (keyOf v) (finF 8 v 11 9)
  | _ => noCommand pf 0xC0300

/-- RDL_ID_CTL. -/
def idRow (pf : Pf) (v : Word) : Meaning :=
  match field v 3 0 with
  | 1 => execCapRunStart pf (keyOf v)
  | 2 => execIndRunStart pf (keyOf v) (finF 4 v 5 4)
  | 3 => execIdRunAbort pf (keyOf v)
  | _ => noCommand pf 0xC0600

/-- CRD_CMD. -/
def crdCmdRow (pf : Pf) (v : Word) : Meaning :=
  match field v 15 12 with
  | 1 => execRetrainLane pf (keyOf v) (finF 64 v 5 0)
  | 2 => execRetrainPort pf (keyOf v) (finF 8 v 8 6)
  | 3 => execRemap pf (keyOf v) (finF 8 v 8 6)
  | _ => noCommand pf 0xD0080

/-- CRD_SVC_CTL. -/
def svcRow (pf : Pf) (v : Word) : Meaning :=
  match field v 15 14 with
  | 1 => execSvcPulse pf (keyOf v) (finF 4 v 13 12) (finF 8 v 11 9) (finF 512 v 8 0)
  | 2 => execSvcStop pf (keyOf v)
  | _ => noCommand pf 0xD0090

/-- RED_CTL. -/
def redRow (pf : Pf) (v : Word) : Meaning :=
  match field v 3 0 with
  | 1 => execRedClaim pf (keyOf v)
  | 2 => execRedRelease pf (keyOf v)
  | 3 => execHbkInhibit pf (keyOf v)
  | 4 => execHbkAllow pf (keyOf v)
  | _ => noCommand pf 0xE0020

/-- GGD_CLR. -/
def clrRow (pf : Pf) (v : Word) : Meaning :=
  match field v 15 12 with
  | 1 => execClearCh pf (keyOf v) (finF 32 v 4 0)
  | 2 => execClearGroup pf (keyOf v) (finF 32 v 4 0)
  | 3 => execClearPort pf (keyOf v) (finF 32 v 4 0)
  | _ => noCommand pf 0xF0080

/-- ADC_CAL_CTL. -/
def calRow (pf : Pf) (v : Word) : Meaning :=
  let c := finF 32 v 12 8
  match field v 2 0 with
  | 1 => execCalZero pf (keyOf v) c
  | 2 => execCalFull pf (keyOf v) c
  | 3 => execCalCommit pf (keyOf v) c
  | 4 => execCalEnd pf (keyOf v) c
  | 5 => execCalDefault pf (keyOf v) c
  | _ => noCommand pf 0x110100

/-- REC_CTL. -/
def recRow (pf : Pf) (v : Word) : Meaning :=
  match field v 15 12 with
  | 1 => execRecArm pf (keyOf v)
  | 2 => execRecStop pf (keyOf v)
  | 3 => execRecSwtrig pf (keyOf v) (finF 16 v 3 0)
  | _ => noCommand pf 0x130020

/-- REC_RD_CTL. -/
def recRdRow (pf : Pf) (v : Word) : Meaning :=
  let k := finF 256 v 7 0
  match field v 15 12 with
  | 1 => execRecRead pf (keyOf v) k
  | 2 => execRecErase pf (keyOf v) k
  | 3 => execRecEraseAll pf (keyOf v) k
  | _ => fun s => .next (begin s)

/-- TIM_STEP_CTL. -/
def stepRow (pf : Pf) (v : Word) : Meaning :=
  match field v 3 2 with
  | 1 => execStepRel pf (keyOf v) (finF 4 v 1 0)
  | 2 => execAlign pf (keyOf v) (finF 4 v 1 0)
  | _ => noCommand pf 0x20020

/-- SAF_RST_CTL. -/
def safRow (pf : Pf) (v : Word) : Meaning :=
  match field v 3 0 with
  | 1 => execSafAck pf (keyOf v)
  | 2 => execSafCancel pf (keyOf v)
  | _ => noCommand pf 0x140020

/-- The registers that stand alone in their function. -/
def singleRow (pf : Pf) (a : Nat) (v : Word) : Option Meaning :=
  match a with
  | 0x24 => some (execModeRequest pf v)
  | 0x30 => some (execModuleReset pf v)
  | 0x100 => some (execFunctionReset pf v)
  | 0x10010 => some (execClkCfgWrite pf v)
  | 0x20020 => some (stepRow pf v)
  | 0x20030 => some (execDomselWrite pf v)
  | 0x40014 => some (execLinkRetrain pf v)
  | 0x50100 => some (execTraceClear pf v)
  | 0x60010 => some (execRickPower pf v)
  | 0x70014 => some (execScrubNow pf v)
  | 0x90020 => some (execArcAdvance pf (keyOf v) (finF 64 v 5 0))
  | 0x90030 => some (rcvCtlRow pf v)
  | 0x90070 => some (ucCtlRow pf v)
  | 0x90100 => some (imgCtlRow pf v)
  | 0xA0100 => some (fabCtlRow pf v)
  | 0xA0200 => some (execPeekArm pf v)
  | 0xB0100 => some (execSwgSnapArm pf v)
  | 0xC0200 => some (execSmCaptureArm pf v)
  | 0xC0300 => some (failRow pf v)
  | 0xC0600 => some (idRow pf v)
  | 0xD0080 => some (crdCmdRow pf v)
  | 0xD0090 => some (svcRow pf v)
  | 0xD0800 => some (execMgtRequest pf (keyOf v) (finF 8 v 15 13) (finF 128 v 12 6) (finF 64 v 5 0))
  | 0xE0020 => some (redRow pf v)
  | 0xF0080 => some (clrRow pf v)
  | 0x100014 => some (execLoadallArm pf v)
  | 0x110010 => some (execRefBufferWrite pf v)
  | 0x110100 => some (calRow pf v)
  | 0x130020 => some (recRow pf v)
  | 0x130108 => some (recRdRow pf v)
  | 0x130200 => some (execRecMeasFetch pf v)
  | 0x140020 => some (safRow pf v)
  | 0x140028 => some (if field v 3 0 = 1 then execCvConfirm pf (keyOf v) else noCommand pf a)
  | 0x150020 => some (execFioOutWr pf v)
  | _ => none

/-- The rows of registers with a row of their own. -/
def arrayRow (pf : Pf) (a : Nat) (v : Word) : Option Meaning :=
  match inRows a 0x1000 0x20 64, inRows a 0x10100 4 7, inRows a 0x51000 0x20 64, inRows a 0x61000 0x10 112, inRows a 0xD1000 0x10 48 with
  | some (k, 12), _, _, _, _ => some (execSaArm pf (Fin.ofNat 64 k) v)
  | some (k, off), _, _, _, _ => some (fun s => .next (hostAccess (begin s) pf fnSYS (fun s => saWordWrite s pf k off v)))
  | _, some (k, 0), _, _, _ => some (execClkOutWrite pf (Fin.ofNat 7 k) v)
  | _, _, some (r, 16), _, _ => some (execRingEnable pf (Fin.ofNat 64 r) v)
  | _, _, some (r, 20), _, _ => some (execRingPiWrite pf (Fin.ofNat 64 r) v)
  | _, _, _, some (k, w), _ =>
    if w < 12 then some (execRgnWrite pf (Fin.ofNat 7 (k / 16)) (Fin.ofNat 16 (k % 16)) (Fin.ofNat 3 (w / 4)) v) else none
  | _, _, _, _, some (n, 0) => some (execLaneDisable pf (Fin.ofNat 48 n) v)
  | _, _, _, _, _ =>
    match inRows a 0x120100 0x20 32, inRows a 0x121000 4 64, inRows a 0x122000 4 4096 with
    | some (i, 0), _, _ => some (execChCfgWrite pf (Fin.ofNat 32 i) v)
    | some (i, 28), _, _ => some (execShSwapRequest pf (Fin.ofNat 32 i) v)
    | _, some (k, 0), _ => some (execShBankWrite pf (Fin.ofNat 32 (k / 2)) (k % 2 = 1) 64 v)
    | _, _, some (k, 0) => some (execShBankWrite pf (Fin.ofNat 32 (k / 128)) (k / 64 % 2 = 1) (Fin.ofNat 65 (k % 64)) v)
    | _, _, _ => none

/-- The row that a write of a register is. -/
def rowOf (pf : Pf) (a : Nat) (v : Word) : Option Meaning :=
  match singleRow pf a v with
  | some f => some f
  | none => arrayRow pf a v

/-! ### Event registers (R387) -/

/-- The function has the registers TAG_EVT and TAG_EVT_EN at 0x40 and 0x44. -/
def hasEvt (fn : Nat) : Bool := fn ≠ fnSYS && fn ≠ fnETH && fn ≠ fnPWM && decide (fn < 23)

/-- A write of TAG_EVT clears the flags written 1, and one of TAG_EVT_EN stores the enables; each sends the function's interrupt where
a flag is left both set and enabled. -/
def evtWrite (s : State) (fn : Nat) (en : Bool) (v : Word) : State :=
  let a := regA fn 0x40
  let m := match regDefOf (a + 4) with
    | some (d, _, _) => halfOf false d.rw
    | none => 0
  let s := if en then regSet s (a + 4) (v &&& m) else regSet s a (regGet s a &&& ~~~v)
  if regGet s a &&& regGet s (a + 4) ≠ 0 then msixBoth s fn else s

/-! ### Registers without a row of their own -/

/-- A word of a register is stored under its access code (R18): RW and RWS bits take the value, W1C bits written 1 clear. -/
def storeWord (s : State) (a : Nat) (d : RegDef) (h : Bool) (v : Word) : State :=
  let old := regGet s a
  regSet s a (mergeMask old v (halfOf h (d.rw ||| d.rws)) &&& ~~~(v &&& halfOf h d.w1c))

/-- PWM_CH_CTL_n: SRC is writable in MD_11 only (R251), and a channel that is no longer enabled goes to OFF (R252). -/
def chCtlWrite (s : State) (n : Nat) (v : Word) : State :=
  let a := chCtlA n
  let s := regPut s a 0 0 (field v 0 0)
  let s := if s.sys.mode = .md11 then regPut s a 4 4 (field v 4 4) else s
  portSettle s

/-- ADC_TRG and the window registers: in MD_2 and MD_11 only (R291). -/
def fltSetWrite (s : State) (a i : Nat) (v m : Word) : State :=
  if fltMode s.sys.mode then wrRes (regSet s a (v &&& m)) i 1 else wrRefuse s i 2

/-- A write of a 32-bit register that has no row of its own. -/
def plainWrite (s : State) (a : Nat) (d : RegDef) (h : Bool) (v : Word) : State :=
  let fn := a / 0x10000
  match inRows a 0x51000 0x20 64, inRows a 0x100100 0x40 24, inRows a 0x120100 0x20 32 with
  | some (r, 28), _, _ =>
    if ringOn s r || decide (field v 4 0 < 4) || decide (16 < field v 4 0) then s else storeWord s a d h v
  | _, some (n, 0), _ => chCtlWrite s n v
  | _, _, some (i, w) => if w = 16 || w = 20 || w = 24 then fltSetWrite s a i v 0xFFFFFF else storeWord s a d h v
  | _, _, _ =>
    if a = 0x110018 then fltSetWrite s a 0 v 0x83EFFFFF
    else if hasEvt fn && a % 0x10000 = 0x40 then evtWrite s fn false v
    else if hasEvt fn && a % 0x10000 = 0x44 then evtWrite s fn true v
    else storeWord s a d h v

/-! ### 64-bit registers (R15) -/

/-- The lower word of a 64-bit register is held until the upper word is written; that of a shadow register which the host may not write is an
access error (R249, R250). -/
def holdLower (s : State) (pf : Pf) (a : Nat) (v : Word) : State :=
  let bar := match inRows a 0x100100 0x40 24 with
    | some (n, 8) => shadowBar s pf n
    | _ => none
  match bar with
  | some k => accessErr s pf a k
  | none => { s with hold64 := tabSet none s.hold64 a (some v) }

/-- The upper word commits both: with the held lower word, or, where none is held, with the register's current lower word, and with zeros
for a register of access W1C. A write that the shadow registers bar has no effect, and what another function holds stays (R249). `a` is the
offset of the lower word. -/
def commitUpper (s : State) (pf : Pf) (a : Nat) (d : RegDef) (v : Word) : Host.Outcome State Fault Refusal :=
  let held := tabGet none s.hold64 a
  let low := held.getD (if d.w1c ≠ 0 then 0 else regView s a)
  let s0 := s
  let s := { s with hold64 := tabErase s.hold64 a }
  match inRows a 0x100100 0x40 24, inRows a 0x51000 0x20 64 with
  | some (n, 8), _ =>
    execShadowWrite pf (Fin.ofNat 24 n) (low.extractLsb' 0 24) (v.extractLsb' 0 24) (if (shadowBar s0 pf n).isSome then s0 else s)
  | _, some (r, _) => .next (if ringOn s r then s else storeWord (storeWord s a d false low) (a + 4) d true v)
  | _, _ => .next (storeWord (storeWord s a d false low) (a + 4) d true v)

/-- The offset lies in the window of a function that is powered down or gated: an access of any kind there is no access error (R16, R383).
Offsets above the last function belong to no domain. -/
def windowShut (s : State) (a : Nat) : Bool := decide (a / 0x10000 < 23) && !windowOpen s (a / 0x10000)

/-- A write of the bus to a BAR0 offset. SYS_MRST answers PF1 itself (R54). -/
def busWrite (s0 : State) (pf : Pf) (a : Nat) (v : Word) : Host.Outcome State Fault Refusal :=
  let s := begin s0
  if !pfAnswers s pf then .next (unsupported s)
  else if windowShut s a then .next s
  else if a % 4 ≠ 0 then .next (accessErr s pf a 0)
  else
    match regDefOf a with
    | none => .next (accessErr s pf a 2)
    | some (d, _, h) =>
      if d.pf0 && pf = .pf1 && a ≠ 0x30 then .next (accessErr s pf a 1)
      else
        match rowOf pf a v with
        | some f => f s
        | none =>
          if d.wide then (if h then commitUpper s pf (a - 4) d v else .next (holdLower s pf a v))
          else .next (plainWrite s a d h v)

/-- REG_WRITE (R18). -/
def execRegWrite (pf : Pf) (addr : BitVec 23) (v : Word) (s : State) : Host.Outcome State Fault Refusal := busWrite s pf addr.toNat v

/-- REG64_LOWER_WRITE (R15). -/
def execReg64LowerWrite (pf : Pf) (addr : BitVec 23) (v : Word) (s : State) : Host.Outcome State Fault Refusal := busWrite s pf addr.toNat v

/-- REG64_UPPER_WRITE (R15). -/
def execReg64UpperWrite (pf : Pf) (addr : BitVec 23) (v : Word) (s : State) : Host.Outcome State Fault Refusal := busWrite s pf addr.toNat v

/-- EVT_REG_WRITE (R387); the windows without event registers hold something else, or nothing, at these offsets. -/
def execEvtRegWrite (pf : Pf) (fn : Fin 23) (en : Bool) (v : Word) (s : State) : Host.Outcome State Fault Refusal :=
  if hasEvt fn then .next (hostAccess (begin s) pf fn (fun s => evtWrite s fn en v))
  else busWrite s pf (regA fn (if en then 0x44 else 0x40)) v

/-! ### Reads -/

/-- The row that a read of a register is. -/
def readRowOf (pf : Pf) (a : Nat) : Option Meaning :=
  match a with
  | 0xA0204 => some (execPeekStatRead pf)
  | 0xB0104 => some (execSwgSnapStatRead pf)
  | 0xC0204 => some (execSmStatRead pf)
  | 0xC0604 => some (execIdStatRead pf)
  | 0xD0804 => some (execMgtResRead pf)
  | 0x110108 => some (execCalStatRead pf)
  | 0x130204 => some (execRecMeasStatRead pf)
  | _ =>
    match inRows a 0x20100 0x40 4, inRows a 0x120100 0x20 32, inRows a 0x160200 4 32 with
    | some (b, 0), _, _ => some (execTbFracRead pf (Fin.ofNat 4 b))
    | _, some (i, 12), _ => some (execFltResStatRead pf (Fin.ofNat 32 i))
    | _, _, some (w, 0) => some (execMonLiveRead pf (Fin.ofNat 32 w))
    | _, _, _ => none

/-- A read of the bus: the lower word of a 64-bit register latches its upper word, and the next read of the upper word returns it. -/
def busRead (s0 : State) (pf : Pf) (a : Nat) : Host.Outcome State Fault Refusal :=
  let s := begin s0
  if !pfAnswers s pf then .next (unsupported s)
  else if windowShut s a then .next { s with rdata := 0xFFFFFFFF }
  else if a % 4 ≠ 0 then .next { accessErr s pf a 0 with rdata := 0xFFFFFFFF }
  else
    match regDefOf a with
    | none => .next { accessErr s pf a 2 with rdata := 0 }
    | some (d, _, h) =>
      match readRowOf pf a with
      | some f => f s
      | none =>
        if d.wide && !h then
          .next { s with rdata := regView s a, latch64 := tabSet none s.latch64 (a + 4) (some (regView s (a + 4))) }
        else if d.wide then
          .next { s with rdata := (tabGet none s.latch64 a).getD (regView s a), latch64 := tabErase s.latch64 a }
        else .next { s with rdata := regView s a }

/-- REG64_LOWER_READ (R15). -/
def execReg64LowerRead (pf : Pf) (addr : BitVec 23) (s : State) : Host.Outcome State Fault Refusal := busRead s pf addr.toNat

/-- REG_BAD_ACCESS (R14, R16): a size other than a word, or a reserved address. -/
def execRegBadAccess (pf : Pf) (addr : BitVec 23) (acc : BadAccess) (s : State) : Host.Outcome State Fault Refusal :=
  let s := begin s
  let a := addr.toNat
  .next (if !pfAnswers s pf then unsupported s
    else
      match acc with
      | .sizeRead => if windowShut s a then { s with rdata := 0xFFFFFFFF } else { accessErr s pf a 0 with rdata := 0xFFFFFFFF }
      | .sizeWrite => if windowShut s a then s else accessErr s pf a 0
      | .reservedRead => if windowShut s a then { s with rdata := 0xFFFFFFFF } else { accessErr s pf a 2 with rdata := 0 }
      | .reservedWrite _ => if windowShut s a then s else accessErr s pf a 2)

end Sys2Proof.Machine
end

