-- ==== Sys2Proof/Machine/Dispatch.lean ====
section
/-!
DEFINITION. The dispatch of every command to its one meaning.
-/
namespace Sys2Proof.Machine

def exec (i : Instr) (s : State) : Host.Outcome State Fault Refusal :=
  match i with
  | .tickBoundary uplinks build offs note => Sys2Proof.Machine.execTickBoundary uplinks build offs note s
  | .tickOverrun ph => Sys2Proof.Machine.execTickOverrun ph s
  | .modeTransitionDone => Sys2Proof.Machine.execModeTransitionDone s
  | .modeRequest pf v => Sys2Proof.Machine.execModeRequest pf v s
  | .moduleReset pf v => Sys2Proof.Machine.execModuleReset pf v s
  | .functionReset pf v => Sys2Proof.Machine.execFunctionReset pf v s
  | .functionResetDone fn => Sys2Proof.Machine.execFunctionResetDone fn s
  | .tmrReplicaDiffer rep => Sys2Proof.Machine.execTmrReplicaDiffer rep s
  | .tmrTwoOfTwoDiffer => Sys2Proof.Machine.execTmrTwoOfTwoDiffer s
  | .tmrNoMajority => Sys2Proof.Machine.execTmrNoMajority s
  | .saArm pf k v => Sys2Proof.Machine.execSaArm pf k v s
  | .saDisarm pf k v => Sys2Proof.Machine.execSaDisarm pf k v s
  | .imgLoad pf key slot => Sys2Proof.Machine.execImgLoad pf key slot s
  | .imgLoadDone dmaOk bytes => Sys2Proof.Machine.execImgLoadDone dmaOk bytes s
  | .imgErase pf key slot => Sys2Proof.Machine.execImgErase pf key slot s
  | .imgEraseDone => Sys2Proof.Machine.execImgEraseDone s
  | .imgAbort pf key => Sys2Proof.Machine.execImgAbort pf key s
  | .imgBootNext pf key slot => Sys2Proof.Machine.execImgBootNext pf key slot s
  | .imgStage pf key slot => Sys2Proof.Machine.execImgStage pf key slot s
  | .imgStageDone => Sys2Proof.Machine.execImgStageDone s
  | .imgUnstage pf key => Sys2Proof.Machine.execImgUnstage pf key s
  | .imgCommit pf key solo => Sys2Proof.Machine.execImgCommit pf key solo s
  | .imgConfirm pf key => Sys2Proof.Machine.execImgConfirm pf key s
  | .slotReportRx bytes => Sys2Proof.Machine.execSlotReportRx bytes s
  | .nodeFeedbackLoss node => Sys2Proof.Machine.execNodeFeedbackLoss node s
  | .nodeFreeze node => Sys2Proof.Machine.execNodeFreeze node s
  | .nodeDownshift node => Sys2Proof.Machine.execNodeDownshift node s
  | .xformFillEnd node => Sys2Proof.Machine.execXformFillEnd node s
  | .fabLockstepMismatch node => Sys2Proof.Machine.execFabLockstepMismatch node s
  | .peekArm pf v => Sys2Proof.Machine.execPeekArm pf v s
  | .peekStatRead pf => Sys2Proof.Machine.execPeekStatRead pf s
  | .swgLockstepMismatch => Sys2Proof.Machine.execSwgLockstepMismatch s
  | .trackerLock grid => Sys2Proof.Machine.execTrackerLock grid s
  | .energyHoldEnd => Sys2Proof.Machine.execEnergyHoldEnd s
  | .rampTargetReached => Sys2Proof.Machine.execRampTargetReached s
  | .inrushLimitExpire => Sys2Proof.Machine.execInrushLimitExpire s
  | .syncHoldDone => Sys2Proof.Machine.execSyncHoldDone s
  | .closeWindowExpire => Sys2Proof.Machine.execCloseWindowExpire s
  | .syncLimitExpire => Sys2Proof.Machine.execSyncLimitExpire s
  | .islandDetected => Sys2Proof.Machine.execIslandDetected s
  | .faultCondition => Sys2Proof.Machine.execFaultCondition s
  | .recoveryMet => Sys2Proof.Machine.execRecoveryMet s
  | .rtLimitExpire => Sys2Proof.Machine.execRtLimitExpire s
  | .swgInputHoldEnd ep => Sys2Proof.Machine.execSwgInputHoldEnd ep s
  | .swgInputLossLimit ep => Sys2Proof.Machine.execSwgInputLossLimit ep s
  | .swgSnapArm pf v => Sys2Proof.Machine.execSwgSnapArm pf v s
  | .swgSnapStatRead pf => Sys2Proof.Machine.execSwgSnapStatRead pf s
  | .smMeasLoss arm sm => Sys2Proof.Machine.execSmMeasLoss arm sm s
  | .smSet pf key arm sm => Sys2Proof.Machine.execSmSet pf key arm sm s
  | .smClear pf key arm sm => Sys2Proof.Machine.execSmClear pf key arm sm s
  | .smClearArm pf key arm => Sys2Proof.Machine.execSmClearArm pf key arm s
  | .demLossLimit arm => Sys2Proof.Machine.execDemLossLimit arm s
  | .armCurrentLossLimit arm => Sys2Proof.Machine.execArmCurrentLossLimit arm s
  | .uplinkHoldEnd arm => Sys2Proof.Machine.execUplinkHoldEnd arm s
  | .uplinkLossLimit arm => Sys2Proof.Machine.execUplinkLossLimit arm s
  | .rdlLockstepMismatch => Sys2Proof.Machine.execRdlLockstepMismatch s
  | .capRunStart pf key => Sys2Proof.Machine.execCapRunStart pf key s
  | .indRunStart pf key leg => Sys2Proof.Machine.execIndRunStart pf key leg s
  | .idRunAbort pf key => Sys2Proof.Machine.execIdRunAbort pf key s
  | .idStatRead pf => Sys2Proof.Machine.execIdStatRead pf s
  | .smCaptureArm pf v => Sys2Proof.Machine.execSmCaptureArm pf v s
  | .smStatRead pf => Sys2Proof.Machine.execSmStatRead pf s
  | .preBypConfExpire => Sys2Proof.Machine.execPreBypConfExpire s
  | .preSettleDone => Sys2Proof.Machine.execPreSettleDone s
  | .preOutputRelease => Sys2Proof.Machine.execPreOutputRelease s
  | .prechgLimitExpire => Sys2Proof.Machine.execPrechgLimitExpire s
  | .stopLimitExpire => Sys2Proof.Machine.execStopLimitExpire s
  | .serviceLimitExpire => Sys2Proof.Machine.execServiceLimitExpire s
  | .laneT0Done lane => Sys2Proof.Machine.execLaneT0Done lane s
  | .capabilityRx lane rec_ => Sys2Proof.Machine.execCapabilityRx lane rec_ s
  | .laneEyeResult lane own vbu => Sys2Proof.Machine.execLaneEyeResult lane own vbu s
  | .delayTrainingDone lane samples => Sys2Proof.Machine.execDelayTrainingDone lane samples s
  | .mapAckRx lane mapId result => Sys2Proof.Machine.execMapAckRx lane mapId result s
  | .lanePhaseTimeout lane => Sys2Proof.Machine.execLanePhaseTimeout lane s
  | .laneRetryTimer lane => Sys2Proof.Machine.execLaneRetryTimer lane s
  | .portTrainTimeout port => Sys2Proof.Machine.execPortTrainTimeout port s
  | .laneLinkError lane => Sys2Proof.Machine.execLaneLinkError lane s
  | .rtrRx lane => Sys2Proof.Machine.execRtrRx lane s
  | .rateErr lane => Sys2Proof.Machine.execRateErr lane s
  | .dlyExchangeTimer lane => Sys2Proof.Machine.execDlyExchangeTimer lane s
  | .dlyRspRx lane exch rtt turn => Sys2Proof.Machine.execDlyRspRx lane exch rtt turn s
  | .eyeMeasure lane fom => Sys2Proof.Machine.execEyeMeasure lane fom s
  | .laneWakeDone wake => Sys2Proof.Machine.execLaneWakeDone wake s
  | .laneWakeTimeout lane => Sys2Proof.Machine.execLaneWakeTimeout lane s
  | .laneDisable pf lane v => Sys2Proof.Machine.execLaneDisable pf lane v s
  | .retrainLane pf key lane => Sys2Proof.Machine.execRetrainLane pf key lane s
  | .retrainPort pf key port => Sys2Proof.Machine.execRetrainPort pf key port s
  | .remap pf key port => Sys2Proof.Machine.execRemap pf key port s
  | .mgtRequest pf key port len tag => Sys2Proof.Machine.execMgtRequest pf key port len tag s
  | .mgtResponseRx port tag data => Sys2Proof.Machine.execMgtResponseRx port tag data s
  | .mgtEventRx lane head data => Sys2Proof.Machine.execMgtEventRx lane head data s
  | .mgtFomRx lane fom => Sys2Proof.Machine.execMgtFomRx lane fom s
  | .mgtAckRx lane ack nak => Sys2Proof.Machine.execMgtAckRx lane ack nak s
  | .mgtRetryTimer lane => Sys2Proof.Machine.execMgtRetryTimer lane s
  | .mgtReqTimeout port => Sys2Proof.Machine.execMgtReqTimeout port s
  | .mgtResRead pf => Sys2Proof.Machine.execMgtResRead pf s
  | .svcPulse pf key choice port sm => Sys2Proof.Machine.execSvcPulse pf key choice port sm s
  | .svcStop pf key => Sys2Proof.Machine.execSvcStop pf key s
  | .svcPulseEnd => Sys2Proof.Machine.execSvcPulseEnd s
  | .periodBoundary ch => Sys2Proof.Machine.execPeriodBoundary ch s
  | .edgeRelease ch => Sys2Proof.Machine.execEdgeRelease ch s
  | .pwmLockstepMismatch ch => Sys2Proof.Machine.execPwmLockstepMismatch ch s
  | .pinReadbackFault pin => Sys2Proof.Machine.execPinReadbackFault pin s
  | .cmpLoss ch => Sys2Proof.Machine.execCmpLoss ch s
  | .loadallArm pf v => Sys2Proof.Machine.execLoadallArm pf v s
  | .shadowWrite pf ch rise fall => Sys2Proof.Machine.execShadowWrite pf ch rise fall s
  | .refreshEnd ch => Sys2Proof.Machine.execRefreshEnd ch s
  | .bsCut ch => Sys2Proof.Machine.execBsCut ch s
  | .tripFiltered ch off => Sys2Proof.Machine.execTripFiltered ch off s
  | .blankEnd ch => Sys2Proof.Machine.execBlankEnd ch s
  | .tripRetry ch => Sys2Proof.Machine.execTripRetry ch s
  | .retryWindowClose ch => Sys2Proof.Machine.execRetryWindowClose ch s
  | .hardTrip => Sys2Proof.Machine.execHardTrip s
  | .clearCh pf key index => Sys2Proof.Machine.execClearCh pf key index s
  | .clearGroup pf key index => Sys2Proof.Machine.execClearGroup pf key index s
  | .clearPort pf key index => Sys2Proof.Machine.execClearPort pf key index s
  | .chainOutput chain codes => Sys2Proof.Machine.execChainOutput chain codes s
  | .dcbHoldEnd chain => Sys2Proof.Machine.execDcbHoldEnd chain s
  | .shFadeEnd chain => Sys2Proof.Machine.execShFadeEnd chain s
  | .invalidCountEnd chain => Sys2Proof.Machine.execInvalidCountEnd chain s
  | .chainMismatch chain => Sys2Proof.Machine.execChainMismatch chain s
  | .refReady => Sys2Proof.Machine.execRefReady s
  | .refFault => Sys2Proof.Machine.execRefFault s
  | .refRecover => Sys2Proof.Machine.execRefRecover s
  | .refBufferWrite pf v => Sys2Proof.Machine.execRefBufferWrite pf v s
  | .plsCheck pair codes frame => Sys2Proof.Machine.execPlsCheck pair codes frame s
  | .plsFault pair exp => Sys2Proof.Machine.execPlsFault pair exp s
  | .plsClear pair => Sys2Proof.Machine.execPlsClear pair s
  | .calZero pf key chain => Sys2Proof.Machine.execCalZero pf key chain s
  | .calFull pf key chain => Sys2Proof.Machine.execCalFull pf key chain s
  | .calMeasDone => Sys2Proof.Machine.execCalMeasDone s
  | .calCommit pf key chain => Sys2Proof.Machine.execCalCommit pf key chain s
  | .calEnd pf key chain => Sys2Proof.Machine.execCalEnd pf key chain s
  | .calDefault pf key chain => Sys2Proof.Machine.execCalDefault pf key chain s
  | .calStatRead pf => Sys2Proof.Machine.execCalStatRead pf s
  | .chCfgWrite pf chain v => Sys2Proof.Machine.execChCfgWrite pf chain v s
  | .shBankWrite pf chain bank tap v => Sys2Proof.Machine.execShBankWrite pf chain bank tap v s
  | .shSwapRequest pf chain v => Sys2Proof.Machine.execShSwapRequest pf chain v s
  | .fltResStatRead pf chain => Sys2Proof.Machine.execFltResStatRead pf chain s
  | .recStart => Sys2Proof.Machine.execRecStart s
  | .recSet drained => Sys2Proof.Machine.execRecSet drained s
  | .recAutoTimeout => Sys2Proof.Machine.execRecAutoTimeout s
  | .recCloseDone => Sys2Proof.Machine.execRecCloseDone s
  | .recArm pf key => Sys2Proof.Machine.execRecArm pf key s
  | .recStop pf key => Sys2Proof.Machine.execRecStop pf key s
  | .recSwtrig pf key unit => Sys2Proof.Machine.execRecSwtrig pf key unit s
  | .recRead pf key slot => Sys2Proof.Machine.execRecRead pf key slot s
  | .recReadDone ok => Sys2Proof.Machine.execRecReadDone ok s
  | .recErase pf key slot => Sys2Proof.Machine.execRecErase pf key slot s
  | .recEraseAll pf key slot => Sys2Proof.Machine.execRecEraseAll pf key slot s
  | .recMeasFetch pf v => Sys2Proof.Machine.execRecMeasFetch pf v s
  | .recMeasFetchDone => Sys2Proof.Machine.execRecMeasFetchDone s
  | .recMeasStatRead pf => Sys2Proof.Machine.execRecMeasStatRead pf s
  | .synthLock us => Sys2Proof.Machine.execSynthLock us s
  | .synthAcqTimeout => Sys2Proof.Machine.execSynthAcqTimeout s
  | .clockLoss ref => Sys2Proof.Machine.execClockLoss ref s
  | .refclkReturn => Sys2Proof.Machine.execRefclkReturn s
  | .clkCfgWrite pf v => Sys2Proof.Machine.execClkCfgWrite pf v s
  | .clkOutWrite pf k v => Sys2Proof.Machine.execClkOutWrite pf k v s
  | .syncMsgRx dom port m => Sys2Proof.Machine.execSyncMsgRx dom port m s
  | .announceRx dom port a => Sys2Proof.Machine.execAnnounceRx dom port a s
  | .announceTimeout dom port => Sys2Proof.Machine.execAnnounceTimeout dom port s
  | .pdelayReqRx port dom seq src corr turn => Sys2Proof.Machine.execPdelayReqRx port dom seq src corr turn s
  | .pdelayReqTimer port => Sys2Proof.Machine.execPdelayReqTimer port s
  | .pdelayRespRx port rtt turn => Sys2Proof.Machine.execPdelayRespRx port rtt turn s
  | .holdoverLimit tb => Sys2Proof.Machine.execHoldoverLimit tb s
  | .stepRel pf key tb => Sys2Proof.Machine.execStepRel pf key tb s
  | .align pf key tb => Sys2Proof.Machine.execAlign pf key tb s
  | .domselWrite pf v => Sys2Proof.Machine.execDomselWrite pf v s
  | .tbFracRead pf tb => Sys2Proof.Machine.execTbFracRead pf tb s
  | .ethLinkChange port up => Sys2Proof.Machine.execEthLinkChange port up s
  | .ethRxFrame port frame => Sys2Proof.Machine.execEthRxFrame port frame s
  | .heartbeatRx bytes arrival => Sys2Proof.Machine.execHeartbeatRx bytes arrival s
  | .heartbeatLoss => Sys2Proof.Machine.execHeartbeatLoss s
  | .tknIReleased => Sys2Proof.Machine.execTknIReleased s
  | .tknIClaiming => Sys2Proof.Machine.execTknIClaiming s
  | .tknReadbackFault => Sys2Proof.Machine.execTknReadbackFault s
  | .silentClaim => Sys2Proof.Machine.execSilentClaim s
  | .orphanClaim => Sys2Proof.Machine.execOrphanClaim s
  | .claimGuardExpire => Sys2Proof.Machine.execClaimGuardExpire s
  | .leaseLapse => Sys2Proof.Machine.execLeaseLapse s
  | .releasedTimeout => Sys2Proof.Machine.execReleasedTimeout s
  | .redClaim pf key => Sys2Proof.Machine.execRedClaim pf key s
  | .redRelease pf key => Sys2Proof.Machine.execRedRelease pf key s
  | .hbkInhibit pf key => Sys2Proof.Machine.execHbkInhibit pf key s
  | .hbkAllow pf key => Sys2Proof.Machine.execHbkAllow pf key s
  | .snapChunkRx c => Sys2Proof.Machine.execSnapChunkRx c s
  | .snapChunkRetry chunk => Sys2Proof.Machine.execSnapChunkRetry chunk s
  | .restoreTimeout => Sys2Proof.Machine.execRestoreTimeout s
  | .planeCopyRebuildDone => Sys2Proof.Machine.execPlaneCopyRebuildDone s
  | .hbkRequest => Sys2Proof.Machine.execHbkRequest s
  | .sbInput ch demand => Sys2Proof.Machine.execSbInput ch demand s
  | .sbDiscrepancy => Sys2Proof.Machine.execSbDiscrepancy s
  | .couplerTest passA passB => Sys2Proof.Machine.execCouplerTest passA passB s
  | .rstSafePress => Sys2Proof.Machine.execRstSafePress s
  | .rstSafeRelease ms => Sys2Proof.Machine.execRstSafeRelease ms s
  | .rstStuck => Sys2Proof.Machine.execRstStuck s
  | .rstStuckClear => Sys2Proof.Machine.execRstStuckClear s
  | .safAck pf key => Sys2Proof.Machine.execSafAck pf key s
  | .safCancel pf key => Sys2Proof.Machine.execSafCancel pf key s
  | .ackExpire => Sys2Proof.Machine.execAckExpire s
  | .cvConfirm pf key => Sys2Proof.Machine.execCvConfirm pf key s
  | .proofDue => Sys2Proof.Machine.execProofDue s
  | .pcieFlr pf => Sys2Proof.Machine.execPcieFlr pf s
  | .pcieLinkDown => Sys2Proof.Machine.execPcieLinkDown s
  | .linkRetrain pf v => Sys2Proof.Machine.execLinkRetrain pf v s
  | .dmaError u => Sys2Proof.Machine.execDmaError u s
  | .msixUnmask pf vec => Sys2Proof.Machine.execMsixUnmask pf vec s
  | .evtRegWrite pf fn en v => Sys2Proof.Machine.execEvtRegWrite pf fn en v s
  | .ringEnable pf ring v => Sys2Proof.Machine.execRingEnable pf ring v s
  | .ringDisable pf ring v => Sys2Proof.Machine.execRingDisable pf ring v s
  | .ringPiWrite pf ring v => Sys2Proof.Machine.execRingPiWrite pf ring v s
  | .billetFetch ring bs => Sys2Proof.Machine.execBilletFetch ring bs s
  | .billetComplete w => Sys2Proof.Machine.execBilletComplete w s
  | .nop => Sys2Proof.Machine.execNop s
  | .evlogRead => Sys2Proof.Machine.execEvlogRead s
  | .ethTx port frame => Sys2Proof.Machine.execEthTx port frame s
  | .ethRxPost port => Sys2Proof.Machine.execEthRxPost port s
  | .memRead => Sys2Proof.Machine.execMemRead s
  | .memWrite data => Sys2Proof.Machine.execMemWrite data s
  | .ptsRead => Sys2Proof.Machine.execPtsRead s
  | .peekBatch ids => Sys2Proof.Machine.execPeekBatch ids s
  | .peekBatchTimeout => Sys2Proof.Machine.execPeekBatchTimeout s
  | .hash data => Sys2Proof.Machine.execHash data s
  | .attest => Sys2Proof.Machine.execAttest s
  | .traceRead => Sys2Proof.Machine.execTraceRead s
  | .traceClear pf v => Sys2Proof.Machine.execTraceClear pf v s
  | .rickPower pf v => Sys2Proof.Machine.execRickPower pf v s
  | .rickPowerDone rick => Sys2Proof.Machine.execRickPowerDone rick s
  | .rgnWrite pf m k w v => Sys2Proof.Machine.execRgnWrite pf m k w v s
  | .blkReady => Sys2Proof.Machine.execBlkReady s
  | .scrubNow pf v => Sys2Proof.Machine.execScrubNow pf v s
  | .scrubPeriod => Sys2Proof.Machine.execScrubPeriod s
  | .scrubDone => Sys2Proof.Machine.execScrubDone s
  | .peatLineWriteDone kind ok => Sys2Proof.Machine.execPeatLineWriteDone kind ok s
  | .arcAdvance pf key idx => Sys2Proof.Machine.execArcAdvance pf key idx s
  | .keyApply pf key dmaOk bytes => Sys2Proof.Machine.execKeyApply pf key dmaOk bytes s
  | .ucLoad pf key slot => Sys2Proof.Machine.execUcLoad pf key slot s
  | .ucLoadDone dmaOk bytes => Sys2Proof.Machine.execUcLoadDone dmaOk bytes s
  | .ucBootNext pf key slot => Sys2Proof.Machine.execUcBootNext pf key slot s
  | .ucConfirm pf key => Sys2Proof.Machine.execUcConfirm pf key s
  | .loadImage pf key slot => Sys2Proof.Machine.execLoadImage pf key slot s
  | .loadUcode pf key slot => Sys2Proof.Machine.execLoadUcode pf key slot s
  | .enroll pf key dmaOk bytes => Sys2Proof.Machine.execEnroll pf key dmaOk bytes s
  | .recoveryLoadDone dmaOk bytes => Sys2Proof.Machine.execRecoveryLoadDone dmaOk bytes s
  | .restart pf key => Sys2Proof.Machine.execRestart pf key s
  | .kindleDone selfTestOk => Sys2Proof.Machine.execKindleDone selfTestOk s
  | .supplyFault rail => Sys2Proof.Machine.execSupplyFault rail s
  | .supplyValid => Sys2Proof.Machine.execSupplyValid s
  | .supplyWarn rail => Sys2Proof.Machine.execSupplyWarn rail s
  | .tempWarn die => Sys2Proof.Machine.execTempWarn die s
  | .resetNLow => Sys2Proof.Machine.execResetNLow s
  | .fioInputChange inp samples => Sys2Proof.Machine.execFioInputChange inp samples s
  | .fioFilterFilled samples => Sys2Proof.Machine.execFioFilterFilled samples s
  | .inputBreak inp => Sys2Proof.Machine.execInputBreak inp s
  | .inputBreakEnd inp => Sys2Proof.Machine.execInputBreakEnd inp s
  | .fieldSupplyLow mv => Sys2Proof.Machine.execFieldSupplyLow mv s
  | .fieldSupplyOk mv => Sys2Proof.Machine.execFieldSupplyOk mv s
  | .fieldOutputFault present => Sys2Proof.Machine.execFieldOutputFault present s
  | .fieldLinkSilent => Sys2Proof.Machine.execFieldLinkSilent s
  | .fieldSilence mask => Sys2Proof.Machine.execFieldSilence mask s
  | .fieldConfigResend => Sys2Proof.Machine.execFieldConfigResend s
  | .fioOutWr pf v => Sys2Proof.Machine.execFioOutWr pf v s
  | .mgtWriteTxn ptr data => Sys2Proof.Machine.execMgtWriteTxn ptr data s
  | .mgtReadTxn n => Sys2Proof.Machine.execMgtReadTxn n s
  | .mgtBusTimeout => Sys2Proof.Machine.execMgtBusTimeout s
  | .monLiveRefresh m => Sys2Proof.Machine.execMonLiveRefresh m s
  | .monLiveRead pf w => Sys2Proof.Machine.execMonLiveRead pf w s
  | .reg64LowerRead pf addr => Sys2Proof.Machine.execReg64LowerRead pf addr s
  | .reg64LowerWrite pf addr v => Sys2Proof.Machine.execReg64LowerWrite pf addr v s
  | .reg64UpperWrite pf addr v => Sys2Proof.Machine.execReg64UpperWrite pf addr v s
  | .regBadAccess pf addr acc => Sys2Proof.Machine.execRegBadAccess pf addr acc s
  | .regWrite pf addr v => Sys2Proof.Machine.execRegWrite pf addr v s
  | .resetNRelease => Sys2Proof.Machine.execResetNRelease s
  | .pcieLinkUp gen width => Sys2Proof.Machine.execPcieLinkUp gen width s
  | .brkPulseEnd => Sys2Proof.Machine.execBrkPulseEnd s
  | .trpInactive ch => Sys2Proof.Machine.execTrpInactive ch s
  | .hardTripInactive => Sys2Proof.Machine.execHardTripInactive s
  | .sysTbMismatch => Sys2Proof.Machine.execSysTbMismatch s
  | .configSpaceWrite pf f => Sys2Proof.Machine.execConfigSpaceWrite pf f s
  | .cvConfirmExpire => Sys2Proof.Machine.execCvConfirmExpire s

end Sys2Proof.Machine
end

