-- ==== Sys2Proof/Safety.lean ====
section
/-!
DEFINITION. What a well-kept state is: the sparse stores are in their canonical form, the ricks that the manual always powers are
ON, and each engine has its instances. Every command keeps it, whatever state it starts from.
-/
namespace Sys2Proof.Machine

/-- Device memory is in canonical form: addresses rise strictly, and no entry is the zero that an unlisted byte reads as (R407). -/
abbrev Memory.wf (t : Tab Byte) : Bool := tabWf (fun _ => 0) t

/-- The register file is in canonical form: offsets rise strictly, and no entry is the register's reset value (R18). -/
abbrev Regs.wf (t : Tab Word) : Bool := tabWf regReset t

/-- The event log's ring is in canonical form (R415). -/
abbrev EvLog.wf (l : EvLog) : Bool := tabWf (fun _ => 0) l.ring

/-- There are sixteen ricks, and ricks 12, 14 and 15, which no register and no mode turns off, are ON (R408, R409). -/
def Ricks.wf (p : List Nat) : Bool := decide (p.length = 16) && [12, 14, 15].all (fun k => nth 2 p k = 2)

/-- There are 24 gate channels (R238). -/
abbrev Ggd.wf (g : Ggd) : Prop := g.chans.length = 24

/-- There are 50 lanes and six valve ports (R199, R212). -/
abbrev Crd.wf (c : Crd) : Prop := c.lanes.length = 50 ∧ c.ports.length = 6

/-- There are 32 filter chains and two plausibility pairs (R273, R287). -/
abbrev Adc.wf (a : Adc) : Prop := a.chains.length = 32 ∧ a.pls.length = 2

/-- There are four time bases, two trackers and two Ethernet ports (R322, R324, R325). -/
abbrev Tim.wf (t : Tim) : Prop := t.tbs.length = 4 ∧ t.doms.length = 2 ∧ t.link.length = 2

/-- The tables of rings and of ready billets are in canonical form, and there are twelve workers (R388, R398, R402). -/
abbrev Stk.wf (k : Stk) : Prop :=
  tabWf (fun _ => Ring.reset) k.rings = true ∧ tabWf (fun _ => ([] : List Item)) k.ready = true ∧ k.workers.length = 12

/-- The engines have one entry for each of their instances, and there are 64 scheduled actions (R57). -/
abbrev State.Shape (s : State) : Prop :=
  s.sa.length = 64 ∧ s.txRd.length = 50 ∧ s.crd.wf ∧ s.ggd.wf ∧ s.adc.wf ∧ s.tim.wf ∧ s.stk.wf

/-- The state of the stores is well kept. -/
def State.Inv (s : State) : Prop :=
  Memory.wf s.mem.dev = true ∧ Regs.wf s.regs = true ∧ s.log.wf = true ∧ Ricks.wf s.mem.pwr = true ∧ s.Shape

/-- No anti-rollback counter of the peat store has gone back from `p` to `q` (R424); a counter holds 32 bits. -/
def ArcLe (p q : Peat) : Prop := ∀ k, min (tabGet 0 p.arc k) (2 ^ 32 - 1) ≤ tabGet 0 q.arc k

/-- From `s` to `t` nothing changed but what reports change: what leaves the module, pending interrupt bits, stored bits of registers, the
count of denied accesses, the event log and the model's counter of free values. -/
def Reported (s t : State) : Prop :=
  t = { s with
    out := t.out, free := t.free, regs := t.regs, log := t.log, mem := { s.mem with deny := t.mem.deny }
    hif := { s.hif with pf0 := { s.hif.pf0 with pend := t.hif.pf0.pend }, pf1 := { s.hif.pf1 with pend := t.hif.pf1.pend } } }

/-- A command answers a next state, and of that state `P` holds. -/
def Gives (c : Instr) (s : State) (P : State → Prop) : Prop := ∃ t, exec c s = .next t ∧ P t

/-- The stored bits of every register outside the listed offsets are the same. -/
def RegsBut (l : List Nat) (s t : State) : Prop := ∀ a, a ∉ l → regGet t a = regGet s a

/-- The event flag `b` of function fn is set; of the other stored bits only those of the listed registers changed, and the flag of an access
that the region registers denied to the log (R412). -/
def Flagged (fn b : Nat) (l : List Nat) (s t : State) : Prop :=
  regGet t (regA fn 0x40) = regGet s (regA fn 0x40) ||| at_ 1 b ∧ RegsBut (regA fn 0x40 :: regA fnRKS 0x40 :: l) s t

/-- The state becomes `x`, with reports and with what the running disparity of the lanes' transmitters has become; of the stored bits of `s` only those of the listed registers changed, and the flag of an access
that the region registers denied to the log (R412). -/
def Becomes (x : State) (l : List Nat) (s t : State) : Prop := Reported { x with txRd := t.txRd } t ∧ RegsBut (regA fnRKS 0x40 :: l) s t

/-- The state becomes `x`, with reports, and then the rules of R212 are applied to port p. -/
def Judged (x : State) (l : List Nat) (p : Nat) (s t : State) : Prop := ∃ u, Becomes x l s u ∧ t = portJudge u p

/-- A safe stop with a flag of SAF_EVT and a CAUSE of SAF_STAT took `s` to `t` (R370): the lock-out is set and counted; from any mode but
MD_10 the unit enters MD_10 with its next frames blocked, or blocked one boundary later, and no scheduled entry stays armed. In MD_1 it waits
for the end of Kindle (R372). -/
def SafeStopped (flag cause : Nat) (s t : State) : Prop :=
  if s.sys.mode = .md0 then t = s
  else if s.sys.mode = .md1 then t = { s with saf := { s.saf with due := s.saf.due ||| 2 ^ cause } }
  else
    t.saf.lock = true ∧ bit (regGet t (regA fnSAF 0x40)) flag = true ∧ regF t 0x140010 31 28 = cause
    ∧ regF t 0x140048 15 0 = satInc 16 (regF s 0x140048 15 0) ∧ t.sys.mode = .md10
    ∧ t.clk = s.clk ∧ t.mem.dev = s.mem.dev ∧ t.peat.slots = s.peat.slots
    ∧ (s.sys.mode = .md10 → Reported { s with saf := { s.saf with lock := true } } t)
    ∧ (s.sys.mode ≠ .md10 → (t.sys.blockNext || t.sys.late) = true ∧ ∀ k, k < 64 → (nth SaEntry.empty t.sa k).armed = false)

/-- What MD_0 begins with after a state whose monitor has become m (R44, R54, R423, R446, R452): the peat store, whose writes in progress end as
`peatCut` has it, the levels at the pins, the management port with the live block, and the field die with its conditions and its configuration stay;
a button that is held counts as pressed before; everything else is as reset leaves it. -/
def State.inMd0 (s : State) (m : Mon) : State :=
  let c := peatCut s
  { State.reset with
    pending := s.pending, free := c.free, peat := c.peat, ggd := { Ggd.reset with ht := s.ggd.ht }
    fio := { Fio.reset with
      fault := s.fio.fault, uv := s.fio.uv, low := s.fio.low, mv := s.fio.mv, level := s.fio.level, silent := s.fio.silent, cut := s.fio.cut
      config := s.fio.config, dieEn := if s.img.live = none then s.fio.dieEn else bitsOf 16 (outEn s)
      dieSafe := if s.img.live = none then s.fio.dieSafe else (List.range 16).map (outSafe s) }
    mon := { Mon.reset with
      rails := m.rails, resetN := m.resetN, strap := m.strap, live := m.live, lat := m.lat, fresh := m.fresh, seq := m.seq, ptr := m.ptr
      busy := m.busy, served := m.served }
    red := { Red.reset s.red.unitSel with tknIn := s.red.tknIn }
    saf := { Saf.reset with sbA := s.saf.sbA, sbB := s.saf.sbB, btn := s.saf.btn, rstate := if s.saf.btn then .pressed else .released }
    clk := { Clk.reset with refOk := s.clk.refOk, rosc := !s.clk.refOk, refMode := s.clk.refMode } }

/-- Every field output at the level that its rank gives it, none of them commanded. -/
def State.outputsSafe (u : State) : State := { u with fio := { u.fio with level := bitsOf 16 (fun n => (outRank u n).2), safe := 0xFFFF } }

/-- The channel with a blanking window from u on, opened where its enable rises; it also defers a trip that was active before (R254). -/
def Chan.windowed (c : Chan) (u e : Int) : Chan :=
  { c with blanks := c.blanks ++ [(u, e)], deferred := if c.trp && c.deferred.isNone then some e else c.deferred }

/-- After a change of channel n at time t, a hold of its pair whose overlap is over has ended, and the partner's enable rises again (R239, R240). -/
def State.paired (s : State) (n : Nat) (t : Int) : State :=
  match xPartner s n with
  | none => updChan s n (fun c => { c with hold := false })
  | some m =>
    if (chanOf s n).hold = true ∧ overlapAt s n = none then
      updChan (updChan s n (fun c => { c with hold := false })) m (fun p =>
        let q : Chan := { p with hold := false }
        if p.ena then q.windowed t (t + gpFine s 0x0A09 m) else q)
    else s

/-- An edge to level lv at time t: ENA is released anew after the dead time, PUL changes half of it after the edge from the level that its pin
has, and a blanking window opens where ENA rises (R239, R254). -/
def State.edged (s : State) (n : Nat) (t : Int) (lv : Bool) : State :=
  let up := t + gp s 0x0A06 n
  State.paired (updChan s n (fun c =>
    let d : Chan := { c with
      pul := lv, ena := true, pulWas := pinPul s n t, chgAt := t, notch := true, relAt := t, hiAt := if lv then t else c.hiAt }
    d.windowed up (up + gpFine s 0x0A09 n))) n t

/-- The drop of a channel's enable at time t, with the edges not yet released, its windows and its retry; where it is dark already the end of
its last change stands (R239, R240). -/
def State.darkened (s : State) (n : Nat) (t : Int) : State :=
  State.paired (updChan s n (fun c => { c with
    pul := c.pul && !c.ena, ena := false, pulWas := if c.ena then pinPul s n t else c.pulWas, chgAt := if c.ena then t else c.chgAt
    notch := c.notch || c.ena, edges := [], tLast := c.relAt, blanks := [], deferred := none, cutTo := none, retry := false, waitTrp := false })) n t

/-- What an overlap of the pair of channel n that has begun before time t makes of `s` (R240): both channels are in a hold, once counted and
flagged, and the enable that would have risen with it opened no window. -/
def PairMet (n : Nat) (t : Int) (s u : State) : Prop :=
  match xPartner s n, overlapAt s n with
  | some m, some up =>
    if t ≤ up ∨ (chanOf s n).hold = true then u = s
    else
      let a := 0xF0104 + 0x10 * min n m
      let meets (k : Nat) (c : Chan) : Chan :=
        if upAt s k = up then { c with
          hold := true, blanks := c.blanks.filter (fun w => w.1 ≠ up)
          deferred := if c.deferred = some (up + gpFine s 0x0A09 k) then none else c.deferred }
        else { c with hold := true }
      Reported (updChan (updChan s n (meets n)) m (meets m)) u ∧ Flagged fnGGD 2 [a] s u ∧ regF u a 15 0 = satInc 16 (regF s a 15 0)
  | _, _ => u = s

/-- The characters left on the lane, whatever their code groups. -/
def sentOn (t : State) (n : Nat) (cs : List Sym) : Bool :=
  t.out.any (fun o => match o with
    | .lane m ds _ => m = n && ds = cs
    | _ => false)

/-- The characters leave on the lane and nothing else does: coded from the running disparity that its transmitter stands at (R202). -/
def State.sends (s : State) (n : Nat) (cs : List Sym) : State :=
  let x := encodeSyms (nth false s.txRd n) cs
  { s with out := [.lane n cs x.1], txRd := setNth s.txRd n x.2 }

/-- No packet that waits behind the lane's outstanding one has left before. -/
def Lane.calm (l : Lane) : Bool := (l.mgt.drop 1).all (fun q => !q.again)

/-- The lane's channel without its outstanding packet: the next one leaves, and carries the acknowledgement that is due (R226, R227). -/
def Lane.passed (l : Lane) : Lane := { l with mgt := l.mgt.drop 1, ackWait := if mgtLit l && 1 < l.mgt.length then none else l.ackWait }

/-- A packet under number `seq` that acknowledges `ack` has arrived on the lane (R226, R227). -/
def Lane.heard (l : Lane) (seq ack : Byte) : Lane :=
  let c : Lane := { l with rxSeq := seq.toNat, ackWait := some (l.ackWait.getD 0) }
  if l.mgt.head?.map (·.seq) = some ack.toNat then
    { c.passed with ownAck := l.ownAck + if l.mgt.head?.map (·.type) = some 1 then 1 else 0 }
  else c

/-- The lane's channel without requests of the host (R228). -/
def Lane.freed (l : Lane) : Lane :=
  let rest := l.mgt.filter (fun q => q.type ≠ 4)
  { l with
    mgt := rest, held := []
    ackWait := if l.mgt.head?.map (·.type) = some 4 ∧ rest ≠ [] ∧ mgtLit l = true then none else l.ackWait }

/-- The lane as a loss of service leaves it, ABSENT with a cause (R206, R211). -/
def Lane.absent (l : Lane) (cause : Nat) : Lane := { laneClear l with state := 8, gen := 0, cause := cause }

/-- The lane at the start of training with a cause (R206, R211). -/
def Lane.anew (l : Lane) (cause : Nat) : Lane := { laneClear l with state := 1, gen := 1, cause := cause }

/-- The commands that can bring MD_0: a supply fault, RESET_N low, and a write of SYS_MRST (R44, R54). -/
def entersMd0 : Instr → Bool
  | .moduleReset .. | .supplyFault _ | .resetNLow => true
  | .regWrite _ a _ | .reg64LowerWrite _ a _ | .reg64UpperWrite _ a _ => decide (a.toNat = 0x30)
  | _ => false

/-- The commands in which the mode controller may take a row of the transition table to another mode than MD_0 and MD_10 (R44, R47). -/
def movesMode : Instr → Bool
  | .tickBoundary .. | .kindleDone _ | .synthLock _ => true
  | _ => false

end Sys2Proof.Machine
end

