-- ==== Sys2Proof/Certificates/Slice0/Obligations.lean ====
section
/-!
DEFINITION. What the rules of the specification say of the model, family by family: the statements for the provers.
-/
section
open Sys2Proof Sys2Proof.Machine

/-! ### Every command -/

/-- The first waiting command takes effect on the state without it; with an empty queue the block idles, which is the
model's own choice.
Choices of the model: log entries 1, 2. -/
def Obligations.StepRunsTheFront : Prop :=
  (∀ (c : Instr) (cs : List Instr) (s : State), step { s with pending := c :: cs } = exec c { s with pending := cs })
  ∧ (∀ s : State, s.pending = [] → step s = .next s)

/-- R18, R38, R44, R199, R212, R238, R339, R381, R415: the state after reset is MD_0: every register holds its reset value, the gate channels, lanes and ports are OFF
with their pins dark, the log is empty, the link is down, no function is in reset, and nothing waits; and it is well kept.
Choices of the model: log entries 8, 10, 13. -/
def Obligations.ResetState : Prop :=
  let s := State.reset
  s.Inv ∧ s.pending = [] ∧ s.sys.mode = .md0 ∧ s.sys.trans = none ∧ s.frst.inReset = 0 ∧ s.hif.up = false ∧ s.log.next = 0
  ∧ (∀ a, regGet s a = regReset a)
  ∧ (∀ n, n < 24 → (chanOf s n).state = 0 ∧ (chanOf s n).pul = false ∧ (chanOf s n).ena = false)
  ∧ (∀ n, n < 50 → (laneOf s n).state = 0) ∧ (∀ p, p < 6 → (portOf s p).state = 0)
  ∧ s.red.state = .off ∧ tokenHeld s = false ∧ s.saf.lock = false ∧ s.img.live = none
  ∧ regReset 0x110 = 1 ∧ regReset 0x40014 = 4 ∧ regReset 0x60010 = 0xAAAAAAAA ∧ regReset 0x70014 = 24 ∧ regReset 0xD0094 = 1
  ∧ regReset 0x110010 = 1 ∧ (∀ k, k < 7 → regReset (0x10100 + 4 * k) = 0x80000000) ∧ (∀ r, r < 64 → regReset (0x5101C + 0x20 * r) = 4)
  ∧ regView s 0xE0010 = 0x70 ∧ regView s 0xE001C = 0xFFFF0000

/-- A step from a well-kept state leaves it well kept: the stores stay in their canonical forms, ricks 12, 14 and 15 stay ON (R408), and each
engine keeps all its instances.
Choices of the model: log entry 12. -/
def Obligations.StepKeepsInv : Prop := ∀ s t : State, s.Inv → step s = .next t → t.Inv

/-- R28, R44, R47, R373, R424: every command answers a next state, whatever the state, and leaves the waiting commands alone. No
anti-rollback counter goes back. Outside MD_0's causes, only a tick boundary, the end of Kindle and the lock of the synthesiser change the mode
to another than MD_10, only a press of RST_SAFE clears the lock-out, and only a tick boundary advances the tick.
Choices of the model: log entries 1, 4, 5. -/
def Obligations.EveryCommandCompletes : Prop :=
  ∀ (c : Instr) (s : State), Gives c s fun t =>
    t.pending = s.pending ∧ ArcLe s.peat t.peat
    ∧ (entersMd0 c = false →
      (movesMode c = false → t.sys.mode = s.sys.mode ∨ t.sys.mode = .md10)
      ∧ ((∀ ms, c ≠ .rstSafeRelease ms) → s.saf.lock = true → t.saf.lock = true)
      ∧ ((∀ us build offs skip, c ≠ .tickBoundary us build offs skip) → t.sys.tickCnt = s.sys.tickCnt ∧ t.sys.bound = s.sys.bound))

/-- R387, R412, R415, R416: an event sets its flag and no other bit than that of a denied access; where no enabled flag was set and this one is
enabled, its vector goes to both functions, as a message or as a pending bit; and its entry is the newest of the log, save in MD_0 and where the
regions deny the log's rick.
Choices of the model: log entries 20, 21, 22, 23, 24. -/
def Obligations.EventFlags : Prop :=
  ∀ (s : State) (fn : Fin 23) (b : Fin 32) (i1 i2 : Nat), s.Inv →
    let t := raise s fn b i1 i2
    let evt := regGet s (regA fn 0x40)
    let en := regGet s (regA fn 0x44)
    let seq := s.log.next
    let opens : Bool := decide (evt &&& en = 0) && en.getLsbD b
    Reported s t ∧ RegsBut [regA fn 0x40, regA fnRKS 0x40] s t ∧ (regGet t (regA fn 0x40)).getLsbD b = true
    ∧ (fn.val ≠ fnRKS → regGet t (regA fn 0x40) = evt ||| at_ 1 b)
    ∧ (s.sys.mode = .md0 ∨ fn.val = fnFAB ∨ fn.val = fnMON → t.log = s.log)
    ∧ (s.sys.mode ≠ .md0 → fn.val ≠ fnFAB → fn.val ≠ fnMON → rgnAllows s 5 (logBase + 32 * (seq % 32768)) 32 true = true →
        t.log = ⟨(seq + 1) % 2 ^ 32, tabSet 0 s.log.ring (seq % 32768)
          (logWord seq (time96 (stamp s).1) fn b (argAt 0 (i1 % 256) + argAt 2 (i2 % 65536)))⟩)
    ∧ (∀ pf : Pf, opens = true → (pfOf s pf).msixEn = true →
        ((pfOf s pf).mask.getLsbD fn = true → (pfOf t pf).pend.getLsbD fn = true)
        ∧ ((pfOf s pf).mask.getLsbD fn = false → s.hif.up = true → (pfOf s pf).busM = true → (pfOf s pf).d3hot = false →
            vectorMsg s pf fn ∈ t.out))
    ∧ (opens = false → (s.sys.mode = .md0 ∨ rgnAllows s 5 (logBase + 32 * (seq % 32768)) 32 true = true) →
        t.out = s.out ∧ t.hif = s.hif)

/-- R14, R19: an access that is not a naturally aligned 32-bit word has no effect on the register, reads all ones and is an access error of
kind 0; a write from PF1 to a register of PF0 has no effect and is an access error of kind 1, and a read from PF1 returns the value. R54 has SYS_MRST answer PF1
with a status of its own.
Choices of the model: log entries 14, 16. -/
def Obligations.AccessRules : Prop :=
  ∀ (s : State) (pf : Pf) (addr : BitVec 23) (v : Word), s.Inv → pfAnswers s pf = true →
    let a := addr.toNat
    let seq := s.log.next
    let writes (pf : Pf) : List Instr := [.regWrite pf addr v, .reg64LowerWrite pf addr v, .reg64UpperWrite pf addr v]
    let error (at0 kind : Nat) (t : State) : Prop :=
      s.sys.mode ≠ .md0 → rgnAllows s 5 (logBase + 32 * (seq % 32768)) 32 true = true →
        t.log = ⟨(seq + 1) % 2 ^ 32, tabSet 0 s.log.ring (seq % 32768)
          (logWord seq (time96 (stamp s).1) fnSYS 0x85 (argAt 0 at0 + argAt 4 (if pf = .pf0 then 0 else 1) + argAt 5 kind))⟩
    (windowOpen s (a / 0x10000) = true →
      Gives (.regBadAccess pf addr .sizeRead) s (fun t => Becomes { s with rdata := 0xFFFFFFFF } [] s t ∧ error a 0 t)
      ∧ Gives (.regBadAccess pf addr .sizeWrite) s (fun t => Becomes s [] s t ∧ error a 0 t))
    ∧ (a % 4 ≠ 0 → windowOpen s (a / 0x10000) = true →
      Gives (.reg64LowerRead pf addr) s (fun t => Becomes { s with rdata := 0xFFFFFFFF } [] s t ∧ error a 0 t)
      ∧ ∀ x ∈ writes pf, Gives x s fun t => Becomes s [] s t ∧ error a 0 t)
    ∧ (∀ d i h, regDefOf a = some (d, i, h) → d.pf0 = true → a % 4 = 0 → windowOpen s (a / 0x10000) = true → pf = .pf1 → a ≠ 0x30 →
      (∀ x ∈ writes .pf1, Gives x s fun t => Becomes s [] s t ∧ error a 1 t)
      ∧ Gives (.reg64LowerRead .pf1 addr) s fun t => t.rdata = if d.wide ∧ h then (tabGet none s.latch64 a).getD (regView s a) else regView s a)
    ∧ (pf = .pf1 → ∀ (key : BitVec 16) (w : Bool) (k : Fin 32), ∀ x ∈ [
        (0x100, Instr.functionReset .pf1 v), (0x10010, .clkCfgWrite .pf1 v), (0x10100 + 4 * (k.val % 7), .clkOutWrite .pf1 (Fin.ofNat 7 k.val) v),
        (0x20020, .stepRel .pf1 key 0), (0x20020, .align .pf1 key 0), (0x20030, .domselWrite .pf1 v), (0x40014, .linkRetrain .pf1 v),
        (0x50100, .traceClear .pf1 v), (0x51010 + 0x20 * k.val, .ringEnable .pf1 (Fin.ofNat 64 k.val) v), (0x51010 + 0x20 * k.val, .ringDisable .pf1 (Fin.ofNat 64 k.val) v),
        (0x60010, .rickPower .pf1 v), (0x70014, .scrubNow .pf1 v), (0x90020, .arcAdvance .pf1 key 9), (0x90050, .keyApply .pf1 key w []),
        (0x90070, .ucLoad .pf1 key 0), (0x90070, .ucBootNext .pf1 key 0), (0x90070, .ucConfirm .pf1 key), (0x90030, .loadImage .pf1 key 0),
        (0x90030, .loadUcode .pf1 key 0), (0x90030, .enroll .pf1 key w []), (0x90030, .restart .pf1 key), (0x90100, .imgLoad .pf1 key 0),
        (0x90100, .imgErase .pf1 key 0), (0x90100, .imgAbort .pf1 key), (0x90100, .imgBootNext .pf1 key 0), (0xA0100, .imgStage .pf1 key 0),
        (0xA0100, .imgUnstage .pf1 key), (0xA0100, .imgCommit .pf1 key w), (0xA0100, .imgConfirm .pf1 key), (0xC0300, .smSet .pf1 key 0 0),
        (0xC0300, .smClear .pf1 key 0 0), (0xC0300, .smClearArm .pf1 key 0), (0xC0600, .capRunStart .pf1 key), (0xC0600, .indRunStart .pf1 key 0),
        (0xC0600, .idRunAbort .pf1 key), (0xD0080, .retrainLane .pf1 key 0), (0xD0080, .retrainPort .pf1 key 0), (0xD0080, .remap .pf1 key 0),
        (0xD0800, .mgtRequest .pf1 key 0 0 0), (0xD0090, .svcPulse .pf1 key 0 0 0), (0xD0090, .svcStop .pf1 key), (0xE0020, .redClaim .pf1 key),
        (0xE0020, .redRelease .pf1 key), (0xE0020, .hbkInhibit .pf1 key), (0xE0020, .hbkAllow .pf1 key), (0xF0080, .clearCh .pf1 key k),
        (0xF0080, .clearGroup .pf1 key k), (0xF0080, .clearPort .pf1 key k), (0x110010, .refBufferWrite .pf1 v), (0x110100, .calZero .pf1 key k),
        (0x110100, .calFull .pf1 key k), (0x110100, .calCommit .pf1 key k), (0x110100, .calEnd .pf1 key k), (0x110100, .calDefault .pf1 key k),
        (0x120100 + 0x20 * k.val, .chCfgWrite .pf1 k v), (0x12011C + 0x20 * k.val, .shSwapRequest .pf1 k v), (0x130020, .recArm .pf1 key),
        (0x130020, .recStop .pf1 key), (0x130020, .recSwtrig .pf1 key 0), (0x140020, .safAck .pf1 key), (0x140020, .safCancel .pf1 key), (0x140028, .cvConfirm .pf1 key),
        (0x150020, .fioOutWr .pf1 v)],
      windowOpen s (x.1 / 0x10000) = true → Gives x.2 s fun t => Becomes s [] s t ∧ error x.1 1 t)

/-- R377: CONFIRM is accepted in MD_10 only, and a value that differs from the check value of the active slot is refused with REF_CV.
Choices of the model: log entry 80. -/
def Obligations.CheckValueConfirmation : Prop :=
  ∀ (s : State), s.Inv → pfAnswers s .pf0 = true →
    let ends (arm : Bool) (st : Nat) (t : State) : Prop := Becomes { s with saf := { s.saf with confArm := arm, res := st } } [] s t
    let same : Bool := s.img.live.any (fun i => decide (i.cv = (regGet s 0x14002C).toNat))
    (s.sys.mode ≠ .md10 → Gives (.cvConfirm .pf0 0x4356) s (ends s.saf.confArm 4))
    ∧ (s.sys.mode = .md10 → same = false → Gives (.cvConfirm .pf0 0x4356) s (ends s.saf.confArm 10))
    ∧ (s.sys.mode = .md10 → same = true → Gives (.cvConfirm .pf0 0x4356) s (ends true 1))

/-! ### Gate guard and pulse timer (chapter 8) -/

/-- R242, R247 to R250, R252: at a period boundary a channel that may take its shadow set takes both values at once and counts the reload,
and a channel in OFF that is enabled starts a refresh or runs. Nothing else changes but the edges of that channel, its counters in
GGD_CNT and the flags of the guard.
R247 to R250: a host's load-all arms the shadow set of every channel without privilege that has a period, and a host write of a shadow register
stores both values for the next reload; a privileged channel takes none from PF1.
Choices of the model: log entries 106, 108, 182, 183, 250. -/
def Obligations.PeriodBoundaryReloads : Prop :=
  (∀ (s : State) (ch : Fin 24), s.Inv → s.sys.mode ≠ .md0 → s.sys.mode ≠ .md1 → chEn s ch = true →
      Gives (.periodBoundary ch) s fun t =>
        let at0 := nextPeriod s ch
        let priv := chPriv s ch
        Reported { s with ggd := { s.ggd with chans := t.ggd.chans } } t
        ∧ RegsBut [regA fnGGD 0x40, regA fnRKS 0x40, 0xF0100 + 0x10 * ch, 0xF0108 + 0x10 * ch] s t
        ∧ (∀ n, n ≠ ch.val → chanOf t n = chanOf s n)
        ∧ (let c := chanOf s ch
            let d := chanOf t ch
            d.start = at0
            ∧ (c.wAt ≠ at0 → (priv || c.armed) = true →
                d.aRise = c.rise ∧ d.aFall = c.fall ∧ d.rseq = (c.rseq + 1) % 256 ∧ d.armed = false ∧ d.pend = false)
            ∧ (c.wAt = at0 → (priv || c.pArmed) = true →
                d.aRise = c.pRise ∧ d.aFall = c.pFall ∧ d.rseq = (c.rseq + 1) % 256 ∧ d.pArmed = false)
            ∧ (c.wAt ≠ at0 → (priv || c.armed) = false → d.aRise = c.aRise ∧ d.aFall = c.aFall ∧ d.rseq = c.rseq)
            ∧ (c.wAt = at0 → (priv || c.pArmed) = false → d.aRise = c.aRise ∧ d.aFall = c.aFall ∧ d.rseq = c.rseq)
            ∧ d.rise = c.rise ∧ d.fall = c.fall
            ∧ d.state = if c.state = 0 ∧ chanEnabled s ch = true then
                (if c.due = true ∨ at0 - c.offAt > gpFine s 0x0A12 ch then 1 else 2) else c.state))
  ∧ (∀ (s : State) (pf : Pf), pfAnswers s pf = true → windowOpen s fnPWM = true →
      (∀ v : Word, bit v 0 = true → Gives (.loadallArm pf v) s fun t =>
        t.ggd.laSeq = (s.ggd.laSeq + 1) % 256
        ∧ (∀ n, n < 24 →
            chanOf t n = if chPriv s n = false ∧ chPerSet s n ≠ 0 then { chanOf s n with armed := true } else chanOf s n)
        ∧ RegsBut [regA fnGGD 0x40, regA fnRKS 0x40] s t
        ∧ Reported { s with ggd := { s.ggd with laSeq := t.ggd.laSeq, chans := t.ggd.chans } } t)
      ∧ (∀ v : Word, bit v 0 = false → Gives (.loadallArm pf v) s fun t => t = { s with out := [] })
      ∧ (∀ (ch : Fin 24) (rise fall : BitVec 24), chHost s ch = true → chEn s ch = true → ¬ (chPriv s ch = true ∧ pf = .pf1) →
        Gives (.shadowWrite pf ch rise fall) s fun t => t = { updChan s ch (fun c => { c with
          rise := rise.toNat, fall := fall.toNat, wseq := (c.rseq + 1) % 256, pend := true, wAt := -1 }) with out := [] })
      ∧ (∀ (ch : Fin 24) (rise fall : BitVec 24), chPriv s ch = true → pf = .pf1 →
        Gives (.shadowWrite pf ch rise fall) s fun t => Reported s t ∧ RegsBut [regA fnRKS 0x40] s t))

/-- R245: the edges of a period are placed so that each stands at least T_MIN after the one before it and none is moved earlier than it was
commanded, and every edge moved is counted.
Choices of the model: log entries 186, 187. -/
def Obligations.MinimumPulse : Prop :=
  ∀ (tMin : Int) (c : Chan) (es : List (Int × Bool)), 0 ≤ tMin →
    let r := placeEdges tMin c es
    let ps := r.1.edges.drop c.edges.length
    r.1.edges = c.edges ++ ps
      ∧ ps.map (·.2) = es.map (·.2)
      ∧ (∀ (k : Nat) (p e : Int × Bool), ps[k]? = some p → es[k]? = some e → e.1 ≤ p.1)
      ∧ (∀ (k : Nat) (a b : Int), (c.tLast :: ps.map (·.1))[k]? = some a → (ps.map (·.1))[k]? = some b → a + tMin ≤ b)
      ∧ r.2 = (List.zip ps es).countP (fun x => x.1.1 ≠ x.2.1)

/-- R239, R240, R252, R254, R260: an edge that falls due on a running channel takes effect: ENA is released anew after the dead time, PUL
changes half a dead time after the edge, and a blanking window opens. In an exclusive pair whose two channels would both be HIGH with their
enables up, the enable that would rise is held from then on: the hold is counted and flagged once, and opens no window; a hold that ends
lets the partner's ENA rise, which opens a window there. A refresh that ends leaves the channel in RUN, with a rising edge where the level
is high, and a HIGH level that has lasted T_HOLD is cut.
Choices of the model: log entries 104, 105, 177, 178, 185, 186, 187, 248, 278. -/
def Obligations.EdgesAtThePins : Prop :=
  ∀ (s : State) (ch : Fin 24), s.Inv →
    let s0 : State := { s with out := [] }
    let c := chanOf s ch
    let put (f : Chan → Chan) : State := updChan s0 ch f
    let edge (x : State) (t : Int) (lv : Bool) : State := (pairMeet x ch t).edged ch t lv
    let lo := match xPartner s ch with | none => ch.val | some m => min ch.val m
    let high := chanHigh c
    (∀ te : Int, PairMet ch te s0 (pairMeet s0 ch te)
      ∧ overlapAt s ch = match xPartner s ch with
        | some m => if high = true ∧ chanHigh (chanOf s m) = true then some (max (c.chgAt + gp s 0x0A06 ch) ((chanOf s m).chgAt + gp s 0x0A06 m)) else none
        | none => none)
    ∧ (∀ (te : Int) (lv : Bool) (es : List (Int × Bool)), c.edges = (te, lv) :: es → Gives (.edgeRelease ch) s fun t =>
      let x := put (fun c => { c with edges := es })
      t = if c.state = 2 then edge x te lv else x)
    ∧ (c.edges = [] → Gives (.edgeRelease ch) s fun t => t = s0)
    ∧ (c.state ≠ 1 → Gives (.refreshEnd ch) s fun t => t = s0)
    ∧ ((c.state ≠ 2 ∨ high = false ∨ gp s 0x0A0F ch ≠ 0) → Gives (.bsCut ch) s fun t => t = s0)
    ∧ (let e := c.refAt + gpFine s 0x0A11 ch
      c.state = 1 → Gives (.refreshEnd ch) s fun t =>
        let x := put (fun c => { c with state := 2 })
        if levelAt c e = true then
          Reported (edge (updChan x ch (fun c => { c with tLast := max c.tLast e })) e true) t
          ∧ RegsBut [regA fnGGD 0x40, regA fnRKS 0x40, 0xF0104 + 0x10 * lo] s t
          ∧ (chanOf t ch).ena = true ∧ (chanOf t ch).pul = true ∧ (chanOf t ch).chgAt = e
        else Reported x t ∧ RegsBut [regA fnRKS 0x40] s t)
    ∧ (let cut := c.hiAt + gp s 0x0A06 ch + gpFine s 0x0A12 ch
      let till := cut + gpFine s 0x0A11 ch
      let later := dropSame false (c.edges.filter (fun x => decide (till ≤ x.1)))
      let a := 0xF0108 + 0x10 * ch.val
      c.state = 2 → high = true → gp s 0x0A0F ch = 0 → Gives (.bsCut ch) s fun t =>
        Reported (updChan (edge s0 cut false) ch (fun c => { c with
          edges := later, cutTo := some till, tLast := (later.getLast?.map (·.1)).getD cut })) t
        ∧ RegsBut [regA fnGGD 0x40, regA fnRKS 0x40, a, 0xF0104 + 0x10 * lo] s t
        ∧ bit (regGet t (regA fnGGD 0x40)) 9 = true ∧ regF t a 31 16 = satInc 16 (regF s a 31 16)
        ∧ (chanOf t ch).pul = false ∧ (chanOf t ch).ena = true ∧ (chanOf t ch).chgAt = cut)

/-- R239, R240, R254, R255, R256, R379: a filtered trip is deferred while its onset lies in a blanking window and accepted otherwise: ENA
drops, the trip is counted, and the channel is retried up to RETRY_N times; a retry leaves it in OFF with a refresh due, and the end of the
retry window locks a channel that is still tripped. The partner of a channel that goes dark is held no longer.
R255, R256: acceptances in one group within 2 µs lock the whole group; the retries exhausted lock the channel with cause LIMIT.
Choices of the model: log entries 105, 178, 185, 188, 189, 248, 249. -/
def Obligations.TripsAndRetries : Prop :=
  ∀ (s : State) (ch : Fin 24), s.Inv →
    let s0 : State := { s with out := [] }
    let c := chanOf s ch
    let now := boundFine s
    let put (x : State) (f : Chan → Chan) : State := updChan x ch f
    let gone (x : State) (t : Int) (f : Chan → Chan) : State := put ((pairMeet x ch t).darkened ch t) f
    let evt (t : State) : Word := regGet t (regA fnGGD 0x40)
    let cnt := 0xF0104 + 0x10 * ch.val
    let but (l : List Nat) (t : State) : Prop :=
      RegsBut ([regA fnGGD 0x40, regA fnRKS 0x40] ++ (match xPartner s ch with | none => [] | some m => [0xF0104 + 0x10 * min ch.val m]) ++ l) s t
    let tried := if c.window then c.tries else 0
    let alone : Prop := ∀ m, m ≠ ch.val → (chanOf s m).lastTrip = none
    let tripped (t0 : Int) (tries : Nat) (c : Chan) : Chan := { c with
      state := 3, lastTrip := some t0, window := true, tries := tries, retry := true }
    let retried (c : Chan) : Chan := { c with state := 0, offAt := now, due := true, tries := c.tries + 1 }
    let locked (t0 : Int) (t : State) : Prop :=
      (chanOf t ch).state = 4 ∧ (chanOf t ch).cause = 1 ∧ (chanOf t ch).ena = false ∧ (chanOf t ch).pul = (c.pul && !c.ena)
      ∧ (chanOf t ch).lastTrip = some t0 ∧ (∀ n, n ≠ ch.val → xPartner s ch ≠ some n → chanOf t n = chanOf s n)
      ∧ regGet t 0xF0014 = regGet s 0xF0014 ||| at_ 1 ch ∧ bit (evt t) 3 = true ∧ bit (evt t) 5 = true
      ∧ Reported { s with ggd := { s.ggd with chans := t.ggd.chans }, sys := t.sys } t
    (s.sys.mode = .md0 → ∀ o : Nat, Gives (.tripFiltered ch o) s fun t => t = s0)
    ∧ (s.sys.mode ≠ .md0 → ∀ o : Nat,
      let on := now + (o : Int)
      let p := pairMeet s0 ch (on + 1)
      PairMet ch (on + 1) s0 p
      ∧ (c.state ≠ 1 → c.state ≠ 2 → Gives (.tripFiltered ch o) s fun t => t = put p (fun c => { c with trp := true }))
      ∧ (∀ e, (c.state = 1 ∨ c.state = 2) → windowAt on (chanOf p ch).blanks = some e → Gives (.tripFiltered ch o) s fun t =>
        t = put p (fun c => { c with trp := true, deferred := some e }))
      ∧ ((c.state = 1 ∨ c.state = 2) → windowAt on (chanOf p ch).blanks = none →
        (alone → tried < gp s 0x0A0D ch → Gives (.tripFiltered ch o) s fun t =>
          Reported (gone (put p (fun c => { c with trp := true })) on (tripped on tried)) t
          ∧ but [cnt] t ∧ bit (evt t) 3 = true ∧ (chanOf t ch).ena = false
          ∧ regF t cnt 31 16 = satInc 16 (regF s cnt 31 16))
        ∧ (alone → gp s 0x0A0D ch ≤ tried → Gives (.tripFiltered ch o) s (locked on))
        ∧ (∀ (k : Fin 4) (u : Int), 4 * (ch.val / 4) + k.val ≠ ch.val → (chanOf s (4 * (ch.val / 4) + k.val)).lastTrip = some u →
            on - u ≤ 40960 → u - on ≤ 40960 → Gives (.tripFiltered ch o) s fun t =>
          (∀ n, n / 4 = ch.val / 4 → (chanOf s n).state ≠ 6 →
            (chanOf t n).state = 5 ∧ (chanOf t n).ena = false ∧ (chanOf t n).pul = ((chanOf s n).pul && !(chanOf s n).ena)
            ∧ (chanOf t n).retry = false)
          ∧ (∀ n, n / 4 ≠ ch.val / 4 → chanOf t n = chanOf s n)
          ∧ regGet t 0xF0018 = regGet s 0xF0018 ||| at_ 1 (ch.val / 4) ∧ bit (evt t) 3 = true ∧ bit (evt t) 6 = true
          ∧ Reported { s with ggd := { s.ggd with chans := t.ggd.chans }, sys := t.sys } t)))
    ∧ (∀ (b e : Int) (es : List (Int × Int)), c.blanks = (b, e) :: es →
      let p := pairMeet s0 ch (b + 1)
      let d := chanOf p ch
      let popped := put p (fun c => { c with blanks := es, deferred := if c.deferred = some e then none else c.deferred })
      PairMet ch (b + 1) s0 p
      ∧ (d.blanks ≠ c.blanks → Gives (.blankEnd ch) s fun t => t = p)
      ∧ (d.blanks = c.blanks → ¬ (d.deferred = some e ∧ c.trp = true ∧ (c.state = 1 ∨ c.state = 2)) →
        Gives (.blankEnd ch) s fun t => t = popped)
      ∧ (d.blanks = c.blanks → d.deferred = some e → c.trp = true → (c.state = 1 ∨ c.state = 2) → alone → tried < gp s 0x0A0D ch →
        Gives (.blankEnd ch) s fun t => Reported (gone popped e (tripped e tried)) t ∧ but [cnt] t ∧ bit (evt t) 3 = true))
    ∧ (c.blanks = [] → Gives (.blankEnd ch) s fun t => t = s0)
    ∧ (c.state = 3 → c.retry = true → c.trp = false → Gives (.tripRetry ch) s fun t =>
      Reported (gone s0 now retried) t ∧ but [] t ∧ bit (evt t) 4 = true)
    ∧ (c.state = 3 → c.retry = true → c.trp = true → Gives (.tripRetry ch) s fun t => t = put s0 (fun c => { c with waitTrp := true }))
    ∧ (¬ (c.state = 3 ∧ c.retry = true) → Gives (.tripRetry ch) s fun t => t = s0)
    ∧ (let low := put s0 (fun c => { c with trp := false, deferred := none })
      Gives (.trpInactive ch) s fun t =>
        if c.state = 3 ∧ c.waitTrp = true then Reported (gone low now retried) t ∧ but [] t ∧ bit (evt t) 4 = true else t = low)
    ∧ (c.window = false → Gives (.retryWindowClose ch) s fun t => t = s0)
    ∧ (c.window = true → c.state ≠ 3 → Gives (.retryWindowClose ch) s fun t =>
      t = put s0 (fun c => { c with window := false, tries := if c.state = 4 then c.tries else 0 }))
    ∧ (c.window = true → c.state = 3 → Gives (.retryWindowClose ch) s fun t =>
      Reported { gone s0 now (fun c => { c with state := 4, cause := 2, window := false }) with sys := t.sys } t
      ∧ but [0xF0014] t ∧ bit (evt t) 5 = true ∧ regGet t 0xF0014 = regGet s 0xF0014 ||| at_ 1 ch)

/-- R239, R241, R244, R252, R257, R266, R365: HARD_TRIP locks every channel of the port, in place of any lock they held, and its end only
shows the pin; a pin that does not read back and a difference of the two copies take every unlocked channel to OFF; the loss of a channel's
fabric values takes it to OFF.
Choices of the model: log entries 105, 123, 188, 191. -/
def Obligations.PortFaults : Prop :=
  ∀ (s : State), s.Inv →
    let but (l : List Nat) (t : State) : Prop := RegsBut ([regA fnGGD 0x40, regA fnRKS 0x40] ++ (List.range 24).map (0xF0104 + 0x10 * ·) ++ l) s t
    let flag (b : Nat) (t : State) : Prop := bit (regGet t (regA fnGGD 0x40)) b = true
    let dark (n : Nat) (t : State) : Prop :=
      (chanOf t n).ena = false ∧ (chanOf t n).pul = ((chanOf s n).pul && !(chanOf s n).ena) ∧ (chanOf t n).edges = []
      ∧ (chanOf t n).hold = false ∧ (chanOf t n).retry = false
    (s.sys.mode ≠ .md0 → Gives .hardTrip s fun t =>
      t.ggd.ht = true
      ∧ (∀ n, n < 24 →
          (chanOf t n).state = 6 ∧ dark n t)
      ∧ ((∃ n, n < 24 ∧ (chanOf s n).state ≠ 6) → bit (regGet t 0xF0018) 6 = true)
      ∧ (∀ n, n < 24 → (chanOf s n).state = 4 → bit (regGet t 0xF0014) n = false)
      ∧ (∀ n, n < 24 → (chanOf s n).state = 5 → bit (regGet t 0xF0018) (n / 4) = false)
      ∧ flag 7 t ∧ but [0xF0014, 0xF0018] t
      ∧ Reported { s with ggd := { s.ggd with ht := true, chans := t.ggd.chans }, sys := t.sys } t
      ∧ (ddToken s = true → switching s = true → s.sys.mode.blockable = true → t.sys.blockNext = true)
      ∧ (ddToken s = false → t.sys = s.sys))
    ∧ (s.sys.mode = .md0 → Gives .hardTrip s fun t => t = { s with ggd := { s.ggd with ht := true }, out := [] })
    ∧ Gives .hardTripInactive s (fun t => t = { s with ggd := { s.ggd with ht := false }, out := [] })
    ∧ (∀ pin : Fin 48, Gives (.pinReadbackFault pin) s fun t =>
      t.ggd.readback = true
      ∧ (∀ n, n < 24 → (chanOf s n).state < 4 →
          (chanOf t n).state = 0 ∧ dark n t ∧ (chanOf t n).due = true)
      ∧ (∀ n, 4 ≤ (chanOf s n).state →
          chanOf s n = { chanOf t n with hold := (chanOf s n).hold, blanks := (chanOf s n).blanks, deferred := (chanOf s n).deferred })
      ∧ but [] t
      ∧ Reported { s with ggd := { s.ggd with readback := true, chans := t.ggd.chans }, sys := t.sys } t
      ∧ (ddToken s = true → s.sys.mode.blockable = true → t.sys.blockNext = true)
      ∧ (ddToken s = false → t.sys = s.sys))
    ∧ (∀ ch : Fin 24, Gives (.pwmLockstepMismatch ch) s fun t =>
      (∀ n, n < 24 → (chanOf s n).state < 4 →
          (chanOf t n).state = 0 ∧ dark n t ∧ (chanOf t n).due = true)
      ∧ (∀ n, 4 ≤ (chanOf s n).state →
          chanOf s n = { chanOf t n with hold := (chanOf s n).hold, blanks := (chanOf s n).blanks, deferred := (chanOf s n).deferred })
      ∧ flag 14 t ∧ but [] t
      ∧ Reported { s with ggd := { s.ggd with chans := t.ggd.chans }, sys := t.sys } t
      ∧ (ddToken s = true → switching s = true → s.sys.mode.blockable = true → t.sys.blockNext = true)
      ∧ (ddToken s = false → t.sys = s.sys))
    ∧ (∀ ch : Fin 24, chHost s ch = false → chEn s ch = true → (chanOf s ch).lost = false →
      Gives (.cmpLoss ch) s fun t =>
        let x := updChan s ch (fun c => { c with lost := true })
        let now := boundFine s
        flag 11 t ∧ but [] t
        ∧ (((chanOf s ch).state = 1 ∨ (chanOf s ch).state = 2) →
            Reported (updChan ((pairMeet x ch now).darkened ch now) ch (fun c => { c with state := 0, offAt := now })) t ∧ dark ch t)
        ∧ ((chanOf s ch).state ≠ 1 → (chanOf s ch).state ≠ 2 → Reported (updChan s ch (fun c => { c with lost := true })) t))

/-- R258, R266: a lock-out is cleared by the right key, of an item that exists and is locked, while the trip input is inactive: the channels
return to OFF with a refresh due and the item's lock bit clears.
Choices of the model: log entries 105, 188. -/
def Obligations.LockoutsCleared : Prop :=
  ∀ (s : State) (index : Fin 32), s.Inv → pfAnswers s .pf0 = true → windowOpen s fnGGD = true →
    let clear (c d : Chan) : Chan := { c with
      state := 0, offAt := boundFine s, due := true, cause := 0, window := false, tries := 0, retry := false, waitTrp := false
      pul := c.pul && !c.ena, ena := false, pulWas := if c.ena then d.pulWas else c.pulWas, chgAt := if c.ena then boundFine s else c.chgAt
      notch := c.notch || c.ena, hold := false, edges := [], tLast := c.relAt, blanks := [], deferred := none, cutTo := none }
    let but (l : List Nat) (t : State) : Prop := RegsBut ([regA fnGGD 0x40, regA fnRKS 0x40] ++ (List.range 24).map (0xF0104 + 0x10 * ·) ++ l) s t
    let kept (a b : Chan) : Chan := { b with hold := a.hold, blanks := a.blanks, deferred := a.deferred }
    (index.val < 24 → (chanOf s index).state = 4 → (chanOf s index).trp = false → Gives (.clearCh .pf0 0x4743 index) s fun t =>
      chanOf t index = clear (chanOf s index) (chanOf t index)
      ∧ (∀ n, n ≠ index.val → chanOf t n = kept (chanOf t n) (chanOf s n))
      ∧ (∀ n, n ≠ index.val → xPartner s index ≠ some n → chanOf t n = chanOf s n)
      ∧ Reported { s with ggd := { s.ggd with chans := t.ggd.chans, clrRes := 1 } } t
      ∧ regGet t 0xF0014 = regGet s 0xF0014 &&& ~~~(at_ 1 index)
      ∧ but [0xF0014] t)
    ∧ (index.val < 6 → (∃ n, n / 4 = index.val ∧ (chanOf s n).state = 5) → (∀ n, n / 4 = index.val → (chanOf s n).trp = false) →
      Gives (.clearGroup .pf0 0x4743 index) s fun t =>
        (∀ n, n < 24 → chanOf t n = if n / 4 = index.val then clear (chanOf s n) (chanOf t n) else chanOf s n)
        ∧ Reported { s with ggd := { s.ggd with chans := t.ggd.chans, clrRes := 1 } } t
        ∧ bit (regGet t 0xF0018) index = false
        ∧ but [0xF0014, 0xF0018] t)
    ∧ ((∃ n, n < 24 ∧ (chanOf s n).state = 6) → s.ggd.ht = false → Gives (.clearPort .pf0 0x4743 index) s fun t =>
        (∀ n, n < 24 → chanOf t n = if (chanOf s n).state = 6 then clear (chanOf s n) (chanOf t n) else kept (chanOf t n) (chanOf s n))
        ∧ Reported { s with ggd := { s.ggd with chans := t.ggd.chans, clrRes := 1 } } t
        ∧ regGet t 0xF0018 = regGet s 0xF0018 &&& ~~~(at_ 1 6)
        ∧ but [0xF0018] t)
    ∧ (∀ key : BitVec 16, key ≠ 0x4743 →
        Gives (.clearCh .pf0 key index) s (fun t => t = { s with ggd := { s.ggd with clrRes := 2 }, out := [] })
        ∧ Gives (.clearGroup .pf0 key index) s (fun t => t = { s with ggd := { s.ggd with clrRes := 2 }, out := [] })
        ∧ Gives (.clearPort .pf0 key index) s (fun t => t = { s with ggd := { s.ggd with clrRes := 2 }, out := [] }))

/-! ### Cord lanes and ports (chapter 7) -/

/-- R206 to R209, R211, R213, R226, R227, R230, R342: the phases of training. T0 that is done sends TS2 and the own capability record in two
packets, ahead of the requests of the host; a record that passes its checks is kept, and T1 ends once both parts of the own one are
acknowledged too, at the generation that both allow; eye margins that reach the limit open T3 with its 64 delay requests and others step the
generation down; 64 delay samples within 2 ns set the delay in force, lost ones are asked again, and all 64 where they differ by more; the
acknowledgement of the map makes the lane ACTIVE.
Choices of the model: log entries 54, 122, 171, 245, 246. -/
def Obligations.LaneTraining : Prop :=
  ∀ (s : State) (lane : Fin 50), s.Inv →
    let l := laneOf s lane
    let p := lane.val / 8
    (l.state = 1 → Gives (.laneT0Done lane) s fun t =>
      let r := ownRecord s lane
      let part (k : Nat) (bs : List Byte) : Packet := ⟨1, (l.txSeq + k) % 256, 0, BitVec.ofNat 8 k :: [0, 0, 0] ++ bs, 0, false⟩
      Becomes (updLane s lane (fun l => { l with
        state := 2, txSeq := ((l.txSeq + 1) % 256 + 1) % 256, ackWait := if l.mgt = [] then none else l.ackWait
        mgt := l.mgt.take 1 ++ (l.mgt.drop 1).filter (fun q => q.type ≠ 4)
          ++ [{ part 0 (r.take 32) with seq := l.txSeq }, part 1 (r.drop 32)] ++ (l.mgt.drop 1).filter (fun q => q.type = 4) })) [] s t
      ∧ sentOn t lane (setSyms setTS2 1 (lane.val % 8)) = true)
    ∧ (∀ (r : List Byte) (seq ack : Byte), l.state = 2 → l.rxSeq ≠ seq.toNat → l.peer = none → l.calm = true →
      let h := l.heard seq ack
      let cap := (portOf s p).cap
      let own : Prop := cap = [] ∨ leAt cap 0x3C 4 = leAt r 0x3C 4
      let pass (x : State) : State := updLane x lane (fun _ => if h.ownAck = 2 then
        { h with peer := some r, gen := laneGen s lane (leAt r 3 1), state := 3 } else { h with peer := some r })
      (p < 6 → capabOk s lane r = true → own → Gives (.capabilityRx lane (⟨seq, ack⟩, r)) s fun t =>
        Becomes (pass (updPort s p (fun x => { x with cap := if h.ownAck = 2 ∧ x.cap = [] then r else x.cap }))) [] s t)
      ∧ (p < 6 → capabOk s lane r = true → ¬ own → Gives (.capabilityRx lane (⟨seq, ack⟩, r)) s fun t =>
        Judged (updLane s lane (fun _ => h.absent 7)) [regA fnCRD 0x40] p s t)
      ∧ (p < 6 → capabOk s lane r = false → Gives (.capabilityRx lane (⟨seq, ack⟩, r)) s fun t =>
        Judged (updLane s lane (fun _ => h.absent 6)) [regA fnCRD 0x40] p s t)
      ∧ (48 ≤ lane.val → partnerOk r = true → (leAt r 7 1).testBit 2 ≠ s.red.unitSel → Gives (.capabilityRx lane (⟨seq, ack⟩, r)) s fun t =>
        Becomes (pass s) [] s t)
      ∧ (48 ≤ lane.val → (partnerOk r = false ∨ (leAt r 7 1).testBit 2 = s.red.unitSel) → Gives (.capabilityRx lane (⟨seq, ack⟩, r)) s fun t =>
        Becomes (updLane s lane (fun _ => h.absent 6)) [regA fnCRD 0x40, regA fnRED 0x40] s t))
    ∧ (∀ own vbu : Byte, l.state = 3 →
      let lim := pNat (imgOf s) 0x0907
      let eye (l : Lane) : Lane := { l with
        fom := own.toNat, fomVbu := vbu.toNat, eyeLow := decide (own.toNat < pNat (imgOf s) 0x0908)
        eyeLowV := decide (vbu.toNat < pNat (imgOf s) 0x0908) }
      (lim ≤ own.toNat → lim ≤ vbu.toNat → Gives (.laneEyeResult lane own vbu) s fun t =>
        Becomes (updLane s lane (fun l => { eye l with state := 4, exch := (l.exch + 64) % 256 })) [regA fnCRD 0x40] s t
        ∧ ∀ k : Fin 64, sentOn t lane (setSyms setDlyReq ((l.exch + 1 + k.val) % 256) (lane.val % 8)) = true)
      ∧ (¬ (lim ≤ own.toNat ∧ lim ≤ vbu.toNat) → 1 < l.gen → Gives (.laneEyeResult lane own vbu) s fun t =>
        Becomes (updLane s lane (fun l => { eye l with gen := l.gen - 1 })) [regA fnCRD 0x40] s t)
      ∧ (¬ (lim ≤ own.toNat ∧ lim ≤ vbu.toNat) → l.gen ≤ 1 → Gives (.laneEyeResult lane own vbu) s fun t =>
        Judged (updLane s lane (fun l => (eye l).absent 8)) [regA fnCRD 0x40] p s t))
    ∧ (∀ xs : List (Nat × Nat), l.state = 4 → xs.length = 64 → (∀ x ∈ xs, ∀ y ∈ xs, sample2 x - sample2 y ≤ 4000) →
      let d := grid100 (sumInt (xs.map sample2)) 128
      let timed (l : Lane) : Lane := { l with dl := d, dlTrain := d, df := d * 16 }
      (5000000 < d → Gives (.delayTrainingDone lane xs) s fun t =>
        Judged (updLane s lane (fun l => (timed l).absent 9)) [regA fnCRD 0x40] p s t)
      ∧ (d ≤ 5000000 → lane.val < 48 → (portOf s p).state ≠ 1 → Gives (.delayTrainingDone lane xs) s fun t =>
        Judged (updLane s lane (fun l => { timed l with retries := 0, state := 5 })) [] p s t)
      ∧ (d ≤ 5000000 → lane.val < 48 → (portOf s p).state = 1 → portPrbs s p = false → Gives (.delayTrainingDone lane xs) s fun t =>
        ∃ u, Becomes (updLane s lane (fun l => { timed l with retries := 0, state := 5 })) [] s u ∧ t = portJudge (portMap u p) p)
      ∧ (d ≤ 5000000 → 48 ≤ lane.val → Gives (.delayTrainingDone lane xs) s fun t =>
        Becomes (updLane s lane (fun l => { timed l with retries := 0, state := 7 })) [] s t))
    ∧ (∀ xs : List (Nat × Nat), l.state = 4 → xs.length < 64 → Gives (.delayTrainingDone lane xs) s fun t =>
        t = { updLane s lane (fun l => { l with exch := (l.exch + (64 - xs.length)) % 256 }) with out := t.out, txRd := t.txRd }
        ∧ t.out.length = 64 - xs.length)
    ∧ (∀ (v : Fin 48) (m seq ack : Byte), v.val = lane.val → l.state = 6 → m.toNat = (portOf s p).mapId → l.rxSeq ≠ seq.toNat → l.calm = true →
      Gives (.mapAckRx v m (⟨seq, ack⟩, 0)) s (fun t => Judged (updLane s lane (fun l => { l.heard seq ack with state := 7 })) [] p s t)
      ∧ Gives (.mapAckRx v m (⟨seq, ack⟩, 1)) s (fun t => Judged (updLane s lane (fun l => (l.heard seq ack).absent 5)) [regA fnCRD 0x40] p s t))

/-- R205, R206, R211, R212, R231, R379: each of these commands completes in the lane or port state that R211 or R212 gives it. A phase that takes
too long makes a lane ABSENT with the phase as its cause; an ABSENT lane trains again from T0 when its retry is due; an ACTIVE lane that
loses its link, is told to retrain or finds the wrong rate retrains; a lane that wakes in time and whose record and delay are those it slept
with is ACTIVE again, and another trains; a port whose training time ends maps the lanes it has or goes DOWN, and its lanes that still train
give up with it.
Choices of the model: log entries 122, 168, 172, 247. -/
def Obligations.LanesFailAndRetry : Prop :=
  ∀ (s : State) (lane : Fin 50), s.Inv →
    let l := laneOf s lane
    let p := lane.val / 8
    let evt := [regA fnCRD 0x40]
    (1 ≤ l.state → l.state ≤ 4 → ∃ t, exec (.lanePhaseTimeout lane) s = .next t
      ∧ Judged (updLane s lane (fun c => c.absent l.state)) evt p s t)
    ∧ (l.state = 6 → ∃ t, exec (.lanePhaseTimeout lane) s = .next t ∧ Judged (updLane s lane (fun c => c.absent 5)) evt p s t)
    ∧ (l.state = 8 → ∃ t, exec (.laneRetryTimer lane) s = .next t
      ∧ Becomes (updLane s lane (fun c => { c.anew l.cause with retries := satInc 4 c.retries })) [] s t
      ∧ sentOn t lane (setSyms setTS1 1 (lane.val % 8)) = true)
    ∧ (l.state = 7 →
      (∃ t, exec (.laneLinkError lane) s = .next t ∧ Judged (updLane s lane (fun c => c.anew 10)) evt p s t)
      ∧ (∃ t, exec (.rtrRx lane) s = .next t ∧ Judged (updLane s lane (fun c => c.anew 10)) evt p s t)
      ∧ ∃ t, exec (.rateErr lane) s = .next t ∧ Judged (updLane s lane (fun c => c.anew 11)) evt p s t)
    ∧ (l.state ≠ 7 → ∃ t, exec (.rateErr lane) s = .next t ∧ Reported s t ∧ Flagged fnCRD 7 [] s t)
    ∧ (∀ (v : Fin 48) (r : List Byte) (xs : List (Nat × Nat)), v.val = lane.val → l.state = 10 →
      let wakes : Prop := leAt r 0x3C 4 = leAt (portOf s p).cap 0x3C 4 ∧ crc32c (r.take 60) = leAt r 0x3C 4 ∧ xs.length = 8
        ∧ (sumInt (xs.map sample2) - 16 * l.dlTrain).natAbs ≤ 16 * pNat (imgOf s) 0x090B
      let again (t : State) : Prop := Judged (updLane s lane (fun c => c.anew l.cause)) evt p s t
      (wakes → ∃ t, exec (.laneWakeDone ⟨v, r, xs⟩) s = .next t ∧ Judged (updLane s lane (fun c => { c with state := 7 })) [] p s t)
      ∧ (¬ wakes → ∃ t, exec (.laneWakeDone ⟨v, r, xs⟩) s = .next t ∧ again t)
      ∧ ∃ t, exec (.laneWakeTimeout v) s = .next t ∧ again t)
    ∧ (∀ q : Fin 6, (portOf s q).state = 2 →
      let quit : State := { s with out := [], crd := { s.crd with lanes := s.crd.lanes.zipIdx.map (fun x =>
        if x.2 / 8 = q.val ∧ 1 ≤ x.1.state ∧ x.1.state ≤ 4 then x.1.absent x.1.cause else x.1) } }
      (readyLane s q = true → portPrbs s q = false → ∃ t, exec (.portTrainTimeout q) s = .next t
        ∧ ∃ u, Becomes quit [] s u ∧ t = portJudge (portMap u q) q)
      ∧ (readyLane s q = false ∨ portPrbs s q = true → ∃ t, exec (.portTrainTimeout q) s = .next t
        ∧ Becomes (updPort quit q (fun x => { x with state := 1, cause := 1, upset := false, carry := false })) [] s t))

/-- R212: what the rules of a port may change is the links alone, their flags, and, where a port in service exceeds the delay budget while
it is deblocked, the mode controller through a block and release; a port that is OFF or DOWN and the partner lanes are left as they are.
Choices of the model: log entry 4. -/
def Obligations.PortRulesFrame : Prop :=
  ∀ (s : State) (p : Nat),
    Becomes { s with crd := (portJudge s p).crd, sys := (portJudge s p).sys } [regA fnCRD 0x40] s (portJudge s p)
    ∧ (portJudge s p).sys.mode = s.sys.mode
    ∧ ((portOf s p).state ≤ 1 ∨ 6 < (portOf s p).state ∨ 6 ≤ p → portJudge s p = s)
    ∧ ((portOf s p).carry = false → (portJudge s p).sys = s.sys)

/-- R209, R210, R226, R227, R230: in service a delay request leaves each time its timer ends, and one still open is counted as lost; a
response moves the filtered delay by a sixteenth of its difference; and the eye margins of both ends are kept and judged against EYE_WARN.
Choices of the model: log entry 173. -/
def Obligations.DelayAndEye : Prop :=
  ∀ (s : State) (lane : Fin 50),
    let l := laneOf s lane
    (l.state = 7 → Gives (.dlyExchangeTimer lane) s fun t =>
      t = (updLane s lane (fun l => { l with
        exchBad := l.exchBad + (if l.exchOut then 1 else 0), exchOut := true, exch := (l.exch + 1) % 256 })).sends
          lane (setSyms setDlyReq ((l.exch + 1) % 256) (lane.val % 8)))
    ∧ (∀ (x : Byte) (rtt turn : Nat), l.state = 7 → l.exchOut = true → l.exch = x.toNat →
      let d2 : Int := (rtt : Int) - 10 * turn
      (10000000 < d2 → Gives (.dlyRspRx lane x rtt turn) s fun t =>
        t = { updLane s lane (fun l => { l with exchOut := false, exchBad := l.exchBad + 1 }) with out := [] })
      ∧ (d2 ≤ 10000000 → Gives (.dlyRspRx lane x rtt turn) s fun t =>
        let df := l.df + roundDiv (8 * d2 - l.df) 16
        Becomes (updLane s lane (fun l => { l with
          exchOut := false, df := df, drift := decide ((df - 16 * l.dlTrain).natAbs > 16 * pNat (imgOf s) 0x090B) }))
          [regA fnCRD 0x40] s t))
    ∧ (∀ fom : Byte, l.state = 7 → Gives (.eyeMeasure lane fom) s fun t =>
      let low := decide (fom.toNat < pNat (imgOf s) 0x0908)
      Becomes (updLane s lane (fun l => { l with fom := fom.toNat, eyeLow := low })) [regA fnCRD 0x40] s t
      ∧ (s.Inv → low = true → l.eyeLow = false → Flagged fnCRD 4 [] s t)
      ∧ (low = false ∨ l.eyeLow = true → t.regs = s.regs))
    ∧ (∀ (v : Fin 48) (fom seq ack : Byte), v.val = lane.val → l.state = 7 → l.rxSeq ≠ seq.toNat → l.calm = true → Gives (.mgtFomRx v (⟨seq, ack⟩, fom)) s fun t =>
      let low := decide (fom.toNat < pNat (imgOf s) 0x0908)
      Becomes (updLane s lane (fun l => { l.heard seq ack with fomVbu := fom.toNat, eyeLowV := low })) [regA fnCRD 0x40] s t
      ∧ (s.Inv → low = true → l.eyeLowV = false → Flagged fnCRD 4 [] s t)
      ∧ (low = false ∨ l.eyeLowV = true → t.regs = s.regs))

/-- R199, R211, R212, R234, R237: a lane's DISABLE is taken back, waits while its port carries BLOCK = 0 and acts at once else; a lane and a port
retrain and a port maps again on command, a port only while it carries BLOCK = 1; and a service pulse starts where MD_11, the lease, the
isolation input and its operands allow it, and ends by its length or by STOP.
Choices of the model: log entries 174, 175. -/
def Obligations.LinkCommands : Prop :=
  ∀ (s : State), s.Inv → pfAnswers s .pf0 = true → windowOpen s fnCRD = true →
    (∀ (lane : Fin 48) (v : Word), s.sys.mode ≠ .md11 → (laneOf s lane).state ≠ 11 → bit v 0 = false →
      Gives (.laneDisable .pf0 lane v) s fun t =>
        Becomes (updLane s lane (fun l => { l with offReq := false })) [laneCfgA lane] s t
        ∧ regGet t (laneCfgA lane) = v &&& 0x1D)
    ∧ (∀ (lane : Fin 48) (v : Word), s.sys.mode ≠ .md11 → (laneOf s lane).state ≠ 11 → (laneOf s lane).state ≠ 0 → bit v 0 = true →
      (portOf s (lane.val / 8)).carry = true → Gives (.laneDisable .pf0 lane v) s fun t =>
        Becomes (updLane s lane (fun l => { l with offReq := true })) [laneCfgA lane] s t
        ∧ regGet t (laneCfgA lane) = v &&& 0x1D)
    ∧ (∀ (lane : Fin 48) (v : Word), s.sys.mode ≠ .md11 → (laneOf s lane).state ≠ 11 → (laneOf s lane).state ≠ 0 → bit v 0 = true →
      (portOf s (lane.val / 8)).carry = false → Gives (.laneDisable .pf0 lane v) s fun t =>
        Judged (updLane s lane (fun l => { laneClear l with state := 0, gen := 0, offReq := false }))
          [laneCfgA lane] (lane.val / 8) s t)
    ∧ (∀ lane : Fin 64, lane.val < 48 → 1 ≤ (laneOf s lane).state → (laneOf s lane).state ≤ 8 → (portOf s (lane.val / 8)).carry = true →
      Gives (.retrainLane .pf0 0x4344 lane) s fun t => t = { s with crd := { s.crd with cmdRes := 3 }, out := [] })
    ∧ (∀ lane : Fin 64, lane.val < 48 → 1 ≤ (laneOf s lane).state → (laneOf s lane).state ≤ 8 → (portOf s (lane.val / 8)).carry = false →
      Gives (.retrainLane .pf0 0x4344 lane) s fun t =>
        ∃ u, Judged (updLane s lane (fun c => c.anew 12)) [] (lane.val / 8) s u
          ∧ t = { u with crd := { u.crd with cmdRes := 1 } })
    ∧ (∀ port : Fin 8, port.val < 6 → 1 ≤ (portOf s port).state → (portOf s port).state ≠ 6 → (portOf s port).carry = false →
      Gives (.retrainPort .pf0 0x4344 port) s fun t =>
        Becomes { s with crd := { s.crd with lanes := t.crd.lanes, ports := t.crd.ports, cmdRes := 1 } } [] s t
        ∧ t.crd.ports = updNth s.crd.ports port (fun x => { x with state := 2, cause := 3, upset := false })
        ∧ (∀ n, n < 50 → laneOf t n =
            if n / 8 = port.val ∧ laneOn s n = true ∧ (laneOf s n).state ≠ 11 then
              (laneOf s n).anew 12 else laneOf s n))
    ∧ (∀ port : Fin 8, port.val < 6 → ((portOf s port).state = 4 ∨ (portOf s port).state = 5) → (portOf s port).carry = false →
      Gives (.remap .pf0 0x4344 port) s fun t =>
        let u := portJudge (portMap { s with out := [] } port) port
        t = { u with crd := { u.crd with cmdRes := 1 } })
    ∧ (∀ port : Fin 8, port.val < 6 → (portOf s port).carry = true → (portOf s port).state ≠ 0 → (portOf s port).state ≠ 6 →
      Gives (.retrainPort .pf0 0x4344 port) s (fun t => t = { s with crd := { s.crd with cmdRes := 3 }, out := [] })
      ∧ Gives (.remap .pf0 0x4344 port) s (fun t => t = { s with crd := { s.crd with cmdRes := 3 }, out := [] }))
    ∧ (∀ (choice : Fin 4) (port : Fin 8) (sm : Fin 512),
      let isol := tabGet SigW.none s.fab.sink (sigKey 6 2 0)
      let len := (regGet s 0xD0094).toNat % 1024
      s.sys.mode = .md11 → s.red.lease = true → port.val < 6 → (portOf s port).state = 4 → isol.v = true → isol.m ≠ 0 →
      sm.val < armSms (imgOf s) port → smReason s.rdl port sm = 0 → (choice.val = 3 → armFb (imgOf s) port = true) →
      s.rdl.run = none → s.crd.svc = none → choice.val ≠ 0 → len ≠ 0 → len ≤ 1000 →
      Gives (.svcPulse .pf0 0x5350 choice port sm) s fun t =>
        t = { s with crd := { s.crd with svc := some (port.val, sm.val, choice.val, len), svcRes := 1 }, out := [] })
    ∧ (∀ p sm c n, s.crd.svc = some (p, sm, c, n) →
      let blocked (r : Rdl) : Rdl :=
        if (smOf r p sm).choice = 0 then r
        else { r with sms := tabSet Sm.fresh r.sms (smKey p sm) { smOf r p sm with
          choice := 0, age := 0, dwell := 0, changes := satInc 32 (smOf r p sm).changes } }
      let ended (st : Nat) : State :=
        { s with rdl := blocked s.rdl, rdlOld := blocked s.rdlOld, crd := { s.crd with svc := none, svcRes := st } }
      Gives (.svcStop .pf0 0x5350) s (fun t => Becomes (ended 3) [0xC010C + 0x20 * p] s t)
      ∧ Gives .svcPulseEnd s (fun t => Becomes (ended 2) [0xC010C + 0x20 * p] s t))

/-- R225 to R228, R379: a request of the host is handed to the port's lowest ACTIVE lane and ends with its response, after its retries or at
its time; a packet is sent again on NAK and on its timer until its retries are used up; an event is acknowledged and written to the log, and a
packet of a wrong length is answered with NAK; a read of the result latches a fresh response.
Choices of the model: log entries 163, 168, 169, 170, 242, 243, 244. -/
def Obligations.ManagementChannel : Prop :=
  ∀ (s : State), s.Inv →
    let freed (x : State) (port : Nat) : List Lane := x.crd.lanes.zipIdx.map (fun x => if x.2 / 8 = port then x.1.freed else x.1)
    let fresh (port : Nat) : Prop := ∀ n, n < 48 → n / 8 = port → ((laneOf s n).mgt.all (fun q => q.type = 4 || !q.again)) = true
    (∀ (port : Fin 8) (len : Fin 128) (tag : Fin 64) (n : Nat), pfAnswers s .pf0 = true → windowOpen s fnCRD = true → port.val < 6 →
      ((portOf s port).state = 4 ∨ (portOf s port).state = 5) → (portOf s port).req = none → mgtLane s port = some n →
      Gives (.mgtRequest .pf0 0x4D47 port len tag) s fun t =>
        Becomes (updLane (updPort { s with crd := { s.crd with mgtStat := 1, mgtTag := tag.val, mgtRetr := 0, mgtFresh := false } } port
            (fun x => { x with req := some tag.val })) n
          (fun l => { l with
            mgt := l.mgt ++ [⟨4, l.txSeq, tag.val, mgtData s len, 0, false⟩], txSeq := (l.txSeq + 1) % 256
            ackWait := if l.mgt = [] then none else l.ackWait })) [] s t ∧ t.regs = s.regs)
    ∧ (∀ (port : Fin 6) (tag : BitVec 16) (data : List Byte) (seq ack : Byte) (n : Nat), mgtLane s port = some n → data.length ≤ 52 → fresh port →
      (laneOf s n).rxSeq ≠ seq.toNat → (laneOf s n).mgt.head?.map (·.seq) ≠ some ack.toNat → (portOf s port).req = some tag.toNat →
      Gives (.mgtResponseRx port tag (⟨seq, ack⟩, data)) s fun t =>
        let x := updLane s n (fun l => { l with rxSeq := seq.toNat, ackWait := some (l.ackWait.getD 0) })
        Becomes (updPort { x with crd := { x.crd with lanes := freed x port, mgtStat := 2, mgtData := data, mgtFresh := true } } port
          (fun x => { x with req := none })) [] s t ∧ t.regs = s.regs)
    ∧ (∀ (lane : Fin 48) (data : List Byte) (seq ack : Byte), mgtLit (laneOf s lane) = true → (laneOf s lane).peer = none → (laneOf s lane).calm = true →
      (data.length = 12 → Gives (.mgtEventRx lane ⟨seq, ack⟩ data) s fun t =>
        Becomes (updLane s lane (fun l => l.heard seq ack)) [] s t
        ∧ ((laneOf s lane).rxSeq = seq.toNat → t.log = s.log)
        ∧ ((laneOf s lane).rxSeq ≠ seq.toNat → s.sys.mode ≠ .md0 → rgnAllows s 5 (logBase + 32 * (s.log.next % 32768)) 32 true = true →
          t.log.next = (s.log.next + 1) % 2 ^ 32))
      ∧ (data.length ≠ 12 → Gives (.mgtEventRx lane ⟨seq, ack⟩ data) s fun t =>
        t = (updLane s lane (fun l => { l with ackWait := none })).sends lane
          (packetChars ⟨0, (laneOf s lane).txSeq, 0, [], 0, false⟩ (laneOf s lane).rxSeq true)))
    ∧ (∀ (lane : Fin 50) (ack : Byte) (p : Packet) (ps : List Packet), (laneOf s lane).mgt = p :: ps → (laneOf s lane).calm = true →
      (ack.toNat = p.seq → p.type ≠ 1 → (laneOf s lane).state ≠ 2 → Gives (.mgtAckRx lane ack false) s fun t =>
        Becomes (updLane s lane Lane.passed) [] s t ∧ t.regs = s.regs)
      ∧ (ack.toNat ≠ p.seq → Gives (.mgtAckRx lane ack false) s fun t => t = { s with out := [] })
      ∧ (p.retries < pNat (imgOf s) 0x090C →
        let u := updLane { s with crd := { s.crd with mgtRetr := if p.type = 4 then p.retries + 1 else s.crd.mgtRetr } } lane
          (fun l => { l with mgt := { p with retries := p.retries + 1, again := false } :: ps, ackWait := if mgtLit l then none else l.ackWait })
        Gives (.mgtAckRx lane ack true) s (fun t => Becomes u [] s t ∧ t.regs = s.regs)
        ∧ Gives (.mgtRetryTimer lane) s (fun t => Becomes u [] s t ∧ t.regs = s.regs))
      ∧ (pNat (imgOf s) 0x090C ≤ p.retries → p.type ≠ 4 →
        Gives (.mgtRetryTimer lane) s fun t => Becomes (updLane s lane Lane.passed) [regA fnCRD 0x40] s t ∧ Flagged fnCRD 12 [] s t)
      ∧ (pNat (imgOf s) 0x090C ≤ p.retries → p.type = 4 →
        Gives (.mgtRetryTimer lane) s fun t =>
          Becomes (updLane (updPort { s with crd := { s.crd with mgtStat := 3, mgtData := [], mgtFresh := true } } (lane.val / 8)
            (fun x => { x with req := none })) lane Lane.passed) [regA fnCRD 0x40] s t ∧ Flagged fnCRD 12 [] s t))
    ∧ (∀ (port : Fin 6) (tag : Nat), (portOf s port).req = some tag → fresh port → Gives (.mgtReqTimeout port) s fun t =>
      t = { s with out := t.out, txRd := t.txRd, crd := { s.crd with
        lanes := freed s port, ports := updNth s.crd.ports port (fun x => { x with req := none }), mgtStat := 4, mgtData := []
        mgtFresh := true } })
    ∧ (∀ pf : Pf, pfAnswers s pf = true → windowOpen s fnCRD = true →
      (s.crd.mgtFresh = true → Gives (.mgtResRead pf) s fun t =>
        let u := { s with crd := { s.crd with mgtFresh := false, mgtLat := s.crd.mgtData, mgtTagLat := s.crd.mgtTag } }
        t = { u with out := [], rdata := mgtResWord u true } ∧ bit t.rdata 7 = true ∧ field t.rdata 3 0 = s.crd.mgtStat % 16)
      ∧ (s.crd.mgtFresh = false → Gives (.mgtResRead pf) s fun t => t = { s with out := [], rdata := mgtResWord s false }))

/-! ### Converters and filter chains (chapter 9) -/

/-- R273, R276, R277, R280, R281, R284, R285: a chain's output. With every stage bypassed and no change of settings waiting, the result is the
newest code, less z, times K, scaled and clamped; its sequence number goes up, its VALID bit says that nothing holds it invalid, and one
invalid output has passed. The ends of the freeze, the fade and the invalid count are the chain's alone, and a mismatch makes the
output just formed invalid.
Choices of the model: log entries 195, 252. -/
def Obligations.ChainOutputs : Prop :=
  ∀ (s : State) (i : Fin 32), s.Inv →
    let c := chainOf s i
    let only (t : State) : Prop := ∀ n, n ≠ i.val → chainOf t n = chainOf s n
    (∀ codes : List (BitVec 16), adcOn s = true → s.frst.inReset.testBit fnFLT = false → chainEn s i = true → c.rep = none → c.want = none → c.due = 0 → c.mism = false →
      c.cfg = regGet s (fltA i 0) → cfgStages c.cfg = 0 → bit c.cfg 20 = false → bit c.cfg 21 = false → c.fade = none →
      s.adc.cal.chain ≠ some i.val → codes ≠ [] →
      Gives (.chainOutput i codes) s fun t =>
        let d := chainOf t i
        let zk := calCoef s i (field c.cfg 16 15)
        let x := toSigned 16 (codes.getLastD 0).toNat * 65536
        let scaled := roundShift (sat32 (roundShift ((x - zk.1) * zk.2) 30)
          * (match paramRec (imgOf s) 0x0B06 i with | some p => bfpMant p | none => 0)) 39
        d.seq = (c.seq + 1) % 16 ∧ d.inv = c.inv - 1 ∧ d.hbInv = c.hbInv - 1
        ∧ field d.word 3 0 = (c.seq + 1) % 16
        ∧ (bit d.word 7 = true ↔ s.adc.refRdy = true ∧ s.adc.refFault = false ∧ c.inv = 0 ∧ plsHolds s i = false)
        ∧ toSigned 24 (field d.word 31 8) = clampInt (-8388608) 8388607 scaled
        ∧ only t
        ∧ Becomes { s with adc := { s.adc with chains := t.adc.chains, refWait := t.adc.refWait } }
            [regA fnADC 0x40, regA fnFLT 0x40, 0x120C00 + 4 * i] s t)
    ∧ Gives (.dcbHoldEnd i) s (fun t => t = { updChain s i (fun c => { c with hold := 0 }) with out := [] })
    ∧ Gives (.invalidCountEnd i) s (fun t => t = { updChain s i (fun c => { c with inv := 0, hbInv := 0 }) with out := [] })
    ∧ (c.fade ≠ none → Gives (.shFadeEnd i) s fun t =>
        t = { updChain s i (fun c => { c with fade := none, want := c.held, held := none }) with out := [] })
    ∧ (c.fade = none → Gives (.shFadeEnd i) s fun t => t = { s with out := [] })
    ∧ Gives (.chainMismatch i) s (fun t =>
        Reported (updChain s i (fun c => { c with mism := true, due := max c.due 1, word := c.word &&& ~~~0x80, fresh := c.freshWas, good := c.goodWas })) t
        ∧ Flagged fnFLT 5 [] s t)

/-- R271, R272, R287, R288: the reference becomes ready, faults and recovers, each recovery restarting the converters; the plausibility of a
pair fails after PLS_N bad checks and clears after PLS_N good ones, which restarts the pair's chains.
Choices of the model: log entries 193, 195. -/
def Obligations.ReferenceAndPlausibility : Prop :=
  ∀ (s : State), s.Inv →
    let restarted (t : State) (lo hi : Nat) : Prop := ∀ n, n < 32 →
      chainOf t n = if lo ≤ n ∧ n < hi then { chainOf s n with due := max (chainOf s n).due 2 } else chainOf s n
    (bit (regGet s 0x110010) 0 = true → s.adc.refRdy = false → s.sys.mode ≠ .md0 → Gives .refReady s fun t =>
      t = { s with out := [], adc := { s.adc with refRdy := true, refWait := false, chains := t.adc.chains } } ∧ restarted t 0 32)
    ∧ (s.adc.refFault = false → Gives .refFault s fun t =>
      Reported { s with adc := { s.adc with refFault := true } } t ∧ Flagged fnADC 1 [] s t)
    ∧ (s.adc.refFault = true → Gives .refRecover s fun t =>
      t = { s with out := [], adc := { s.adc with refFault := false, chains := t.adc.chains } } ∧ restarted t 0 32)
    ∧ (∀ v : Word, pfAnswers s .pf0 = true → windowOpen s fnADC = true →
      (bit v 0 = true ∨ s.sys.mode = .md2 ∨ s.sys.mode = .md10 ∨ s.sys.mode = .md11) → Gives (.refBufferWrite .pf0 v) s fun t =>
        regGet t 0x110010 = v &&& 1
        ∧ Becomes { s with adc := { s.adc with
            refRdy := if bit v 0 = bit (regGet s 0x110010) 0 then s.adc.refRdy else false
            refWait := if bit v 0 = bit (regGet s 0x110010) 0 then s.adc.refWait else false } } [0x110010] s t)
    ∧ (∀ p : Fin 2,
      let x := plsOf s p
      let cnt := if p.val = 0 then (15, 0) else (31, 16)
      let cleared (l : List Chain) : List Chain := l.zipIdx.map (fun x =>
        if x.2 / 16 = p.val then { x.1 with due := max x.1.due 2 } else x.1)
      (∀ (c0 c1 : BitVec 16) (frame : Fin 32), adcOn s = true → hasSect (imgOf s) 0x0B = true → pNatAt (imgOf s) 0x0B14 p ≠ 0 →
        let a := toSigned 16 c0.toNat
        let b := toSigned 16 c1.toNat
        let tol := pNatAt (imgOf s) 0x0B1A p
        let e := pIntAt (imgOf s) 0x0B19 p
        let n := pNatAt (imgOf s) 0x0B17 p
        let slot := pNatAt (imgOf s) 0x0B15 p
        let exp := decide (tol ≠ 0 ∧ (tol < (a - e).natAbs ∨ tol < (b - e).natAbs))
        let bad := exp = true ∨ pNatAt (imgOf s) 0x0B16 p < (a - b).natAbs
        let held (c : Chain) : Chain := { c with rep := some (framePlace c.cfg frame) }
        let u : State := updChain (updChain s (16 * p + slot) held) (16 * p + 8 + slot) held
        let go := Instr.plsCheck p (c0, c1) frame
        (bad → (x.fails + 1 < n ∨ x.fail = true) → Gives go s fun t =>
          t = { updPls u p (fun x => { x with
            c0 := c0.toNat, c1 := c1.toNat, fails := min n (x.fails + 1), oks := 0, exp := x.exp || exp }) with out := [] })
        ∧ (bad → n ≤ x.fails + 1 → x.fail = false → Gives go s fun t =>
          Becomes (updPls u p (fun x => { x with
            c0 := c0.toNat, c1 := c1.toNat, fails := n, oks := 0, exp := x.exp || exp, fail := true
            act := decide (pNatAt (imgOf s) 0x0B18 p = 1) })) [regA fnADC 0x40, 0x110024] s t
          ∧ bit (regGet t (regA fnADC 0x40)) 2 = true
          ∧ regF t 0x110024 cnt.1 cnt.2 = satInc 16 (regF s 0x110024 cnt.1 cnt.2))
        ∧ (¬ bad → x.oks + 1 < n → Gives go s fun t =>
          t = { updPls u p (fun x => { x with c0 := c0.toNat, c1 := c1.toNat, fails := 0, oks := x.oks + 1 }) with out := [] })
        ∧ (¬ bad → n ≤ x.oks + 1 → x.fail = false → Gives go s fun t =>
          t = { updPls u p (fun x => { x with c0 := c0.toNat, c1 := c1.toNat, fails := 0, oks := n, exp := false }) with out := [] })
        ∧ (¬ bad → n ≤ x.oks + 1 → x.fail = true → Gives go s fun t =>
          t = { s with out := [], adc := { s.adc with
            pls := updNth s.adc.pls p (fun x => { x with
              c0 := c0.toNat, c1 := c1.toNat, fails := 0, oks := n, fail := false, exp := false, act := false })
            chains := cleared u.adc.chains } }))
      ∧ (∀ exp : Bool, x.fail = false → Gives (.plsFault p exp) s fun t =>
          Becomes (updPls s p (fun x => { x with
            exp := x.exp || exp, fail := true, act := decide (pNatAt (imgOf s) 0x0B18 p = 1) })) [regA fnADC 0x40, 0x110024] s t
          ∧ bit (regGet t (regA fnADC 0x40)) 2 = true
          ∧ regF t 0x110024 cnt.1 cnt.2 = satInc 16 (regF s 0x110024 cnt.1 cnt.2))
      ∧ (x.fail = true → Gives (.plsClear p) s fun t =>
          t = { s with out := [], adc := { s.adc with
            pls := updNth s.adc.pls p (fun x => { x with fail := false, exp := false, act := false }), chains := cleared s.adc.chains } }))

/-- R289, R290: a calibration session. ZERO and FULL start a measurement, which ends DONE, NOISY or INVALID; COMMIT takes coefficients from
two that are DONE; END brings them into force and restarts the chain; DEFAULT takes the factory's. A wrong key, mode or chain is refused,
and the first read after a command latches its measurement.
Choices of the model: log entries 54, 194. -/
def Obligations.Calibration : Prop :=
  ∀ (s : State) (i : Fin 32), s.Inv →
    let c := s.adc.cal
    let opened : Cal := if c.chain = some i.val then c else { c with chain := some i.val, zero := none, full := none, new := [] }
    let ended (c : Cal) (cmd st : Nat) : Cal := { c with cmd := cmd, stat := st, seq := (c.seq + 1) % 16, fresh := true }
    let gives (x : Instr) (c : Cal) : Prop := Gives x s fun t => Reported { s with adc := { s.adc with cal := c } } t ∧ Flagged fnADC 5 [] s t
    let saves (x : Instr) (c : Cal) : Prop := Gives x s fun t =>
      Reported { s with adc := { s.adc with cal := c }, peat := peatPost s.peat [.calibration] } t ∧ Flagged fnADC 5 [] s t
    (pfAnswers s .pf0 = true → windowOpen s fnADC = true →
      (∀ key : BitVec 16, key ≠ 0x434C →
        gives (.calZero .pf0 key i) (ended c 1 5) ∧ gives (.calFull .pf0 key i) (ended c 2 5) ∧ gives (.calCommit .pf0 key i) (ended c 3 5)
        ∧ gives (.calEnd .pf0 key i) (ended c 4 5) ∧ gives (.calDefault .pf0 key i) (ended c 5 5))
      ∧ (calMode s.sys.mode = false → gives (.calZero .pf0 0x434C i) (ended c 1 4))
      ∧ (calMode s.sys.mode = true → (∃ k, c.chain = some k ∧ k ≠ i.val) → gives (.calZero .pf0 0x434C i) (ended c 1 9))
      ∧ (calMode s.sys.mode = true → (c.chain = none ∨ c.chain = some i.val) →
        (c.meas = none →
          let m (full : Bool) : CalMeas := ⟨full, invCount false (chainOf s i).cfg, 0, 0, 0, 0⟩
          Gives (.calZero .pf0 0x434C i) s (fun t =>
            t = { s with out := [], adc := { s.adc with cal := { opened with meas := some (m false), stat := 1 } } })
          ∧ Gives (.calFull .pf0 0x434C i) s (fun t =>
            t = { s with out := [], adc := { s.adc with cal := { opened with meas := some (m true), stat := 1 } } }))
        ∧ (c.meas = none → (opened.zero = none ∨ opened.full = none) → gives (.calCommit .pf0 0x434C i) (ended opened 3 6))
        ∧ (∀ z, opened.zero = some z → ∀ f, opened.full = some f → c.meas = none →
          let g := field (chainOf s i).cfg 16 15
          let v := toSigned 32 (regGet s 0x110104).toNat
          let n : Int := if f < z then -(v * 2 ^ g * 2 ^ 31) else v * 2 ^ g * 2 ^ 31
          let d := (10240000 * (f - z)).natAbs
          (d ≠ 0 → 9 * (d : Int) ≤ 10 * n → 10 * n ≤ 11 * d → 100 * z.natAbs ≤ 2 ^ 31 →
            saves (.calCommit .pf0 0x434C i) (ended { opened with
              new := opened.new ++ [(4 * i.val + g, z, roundDiv (n * 2 ^ 30) d)]
              save := opened.save ++ [(4 * i.val + g, some (coefWord z (roundDiv (n * 2 ^ 30) d)))] } 3 2))
          ∧ (d = 0 ∨ 10 * n < 9 * (d : Int) ∨ 11 * (d : Int) < 10 * n ∨ 2 ^ 31 < 100 * z.natAbs →
            gives (.calCommit .pf0 0x434C i) (ended opened 3 7)))
        ∧ (c.meas = none → saves (.calDefault .pf0 0x434C i)
            (let g := field (chainOf s i).cfg 16 15
             ended { opened with
               new := opened.new ++ [(4 * i.val + g, 0, Config.factoryGain i g)]
               save := opened.save ++ [(4 * i.val + g, none)] } 5 2))
        ∧ Gives (.calEnd .pf0 0x434C i) s (fun t =>
            let g := field (chainOf s i).cfg 16 15
            Reported { s with adc := { s.adc with
              chains := if c.chain = some i.val then updNth s.adc.chains i (fun x => { x with
                due := max x.due 2, inv := if c.new.any (fun y => y.1 = 4 * i.val + g) then max x.inv 1 else x.inv }) else s.adc.chains
              coef := c.new.foldl (fun l y => setNth l y.1 y.2) s.adc.coef
              cal := { ended c 4 2 with chain := none, meas := none, zero := none, full := none, new := [] } } } t
            ∧ Flagged fnADC 5 [regA fnFLT 0x40] s t)))
    ∧ (∀ m : CalMeas, c.meas = some m → c.chain = some i.val →
        let mean := sat32 (roundDiv m.sum (max 1 m.n))
        let bad := s.adc.refRdy = false ∨ plsHolds s i = true
        let noisy := pInt (imgOf s) 0x0B1C * 65536 < m.hi - m.lo
        let done (st : Nat) (res : Option Int) : Prop := gives .calMeasDone
          (ended { c with
            meas := none, mean := mean, spread := satNat 16 (roundDiv (m.hi - m.lo) 65536).toNat
            zero := if m.full then c.zero else res, full := if m.full then res else c.full } (if m.full then 2 else 1) st)
        (bad → done 8 none) ∧ (¬ bad → noisy → done 3 none) ∧ (¬ bad → ¬ noisy → done 2 (some mean)))
    ∧ (∀ pf : Pf, pfAnswers s pf = true → windowOpen s fnADC = true →
        (c.fresh = true → c.stat ≠ 1 → Gives (.calStatRead pf) s fun t =>
          let u := { s with adc := { s.adc with cal := { c with
            fresh := false, latCmd := c.cmd, latSeq := c.seq, latMean := c.mean, latSpread := c.spread } } }
          t = { u with out := [], rdata := calStatWord u true })
        ∧ ((c.fresh = false ∨ c.stat = 1) → Gives (.calStatRead pf) s fun t => t = { s with out := [], rdata := calStatWord s false }))

/-- R277, R278, R286, R291: the settings of a chain at run time. A settings word is taken in MD_2 and MD_11 where it breaks no rule, DCB_FRZ in
every mode from MD_2 upward; a bank that is in force or fades is not written; a swap waits for the output boundary or for the running
fade; and the first read after a valid output latches it.
Choices of the model: log entries 107, 196, 251. -/
def Obligations.ChainSettings : Prop :=
  ∀ (s : State) (i : Fin 32), s.Inv → pfAnswers s .pf0 = true → windowOpen s fnFLT = true →
    let c := chainOf s i
    let res (st : Nat) : State := { s with adc := { s.adc with wrRes := st, wrCh := i.val } }
    let refused (x : Instr) (st : Nat) : Prop := Gives x s fun t => Reported (res st) t ∧ Flagged fnFLT 4 [] s t
    (∀ v : Word,
      let w := v &&& 0x1FFFE3FF
      (fltMode s.sys.mode = true → cfgBad w = false → Gives (.chCfgWrite .pf0 i v) s fun t =>
        Becomes (res 1) [fltA i 0] s t ∧ regGet t (fltA i 0) = w)
      ∧ (2 ≤ s.sys.mode.code → cfgBad w = true → refused (.chCfgWrite .pf0 i v) 5)
      ∧ (s.sys.mode.code < 2 → refused (.chCfgWrite .pf0 i v) 2)
      ∧ (2 ≤ s.sys.mode.code → fltMode s.sys.mode = false → cfgBad w = false → Gives (.chCfgWrite .pf0 i v) s fun t =>
        regGet t (fltA i 0) = (regGet s (fltA i 0) &&& ~~~0x400000) ||| (w &&& 0x400000)
        ∧ t.adc.wrRes = if (regGet s (fltA i 0) ||| 0x400000) = (w ||| 0x400000) then 1 else 2))
    ∧ (∀ (bank : Bool) (tap : Fin 65) (v : Word),
      let a := if tap.val = 64 then 0x121000 + 8 * i.val + 4 * b2n bank else 0x122000 + 0x200 * i.val + 0x100 * b2n bank + 4 * tap.val
      (2 ≤ s.sys.mode.code → c.fade = none → ¬ (bit c.cfg 20 = true ∧ c.bank = bank) → Gives (.shBankWrite .pf0 i bank tap v) s fun t =>
        Becomes (res 1) [a] s t ∧ regGet t a = if tap.val = 64 then v &&& 0xFF else v)
      ∧ (s.sys.mode.code < 2 → refused (.shBankWrite .pf0 i bank tap v) 2)
      ∧ (2 ≤ s.sys.mode.code → c.fade ≠ none → refused (.shBankWrite .pf0 i bank tap v) 4)
      ∧ (2 ≤ s.sys.mode.code → c.fade = none → bit c.cfg 20 = true → c.bank = bank → refused (.shBankWrite .pf0 i bank tap v) 3))
    ∧ (∀ v : Word, bit v 15 = true → 2 ≤ s.sys.mode.code →
      let b := bit v 12
      let f := field v 8 0
      let go := Instr.shSwapRequest .pf0 i v
      (256 < f → refused go 5)
      ∧ (f ≤ 256 → c.fade ≠ none → Gives go s fun t =>
        t = { updChain (if c.held = none then s else res 6) i (fun c => { c with held := some (b, f) }) with out := [] })
      ∧ (f ≤ 256 → c.fade = none → bit c.cfg 20 = true → Gives go s fun t =>
        t = { updChain (if c.want = none then s else res 6) i (fun c => { c with want := some (b, f) }) with out := [] })
      ∧ (f ≤ 256 → c.fade = none → bit c.cfg 20 = false → c.bank = b → Gives go s fun t =>
        t = { updChain (res 7) i (fun c => { c with want := none }) with out := [] })
      ∧ (f ≤ 256 → c.fade = none → bit c.cfg 20 = false → c.bank ≠ b → Gives go s fun t =>
        Reported (updChain (res 1) i (fun c => { c with bank := b, fade := none, want := none })) t ∧ Flagged fnFLT 3 [] s t))
    ∧ (c.fresh = true → Gives (.fltResStatRead .pf0 i) s fun t =>
        t = { updChain s i (fun c => { c with fresh := false, freshWas := false, lat := c.good }) with
          out := [], rdata := resStatWord { c with lat := c.good } true })
    ∧ (c.fresh = false → Gives (.fltResStatRead .pf0 i) s fun t => t = { s with out := [], rdata := resStatWord c false })

/-! ### Disturbance recorder (chapter 10) -/

/-- R297 to R303, R306 to R308: a set instant changes the recorder alone and counts itself; a set on the grid that finds room enters the record,
before a trigger the oldest falls out, and PRE sets arm it; one without room, or without access to its place, is dropped and counted;
the staging buffer at 48 KiB lets the stored RATE rise, at the first instant of the new grid; a trigger in ARMED makes the present set
index PRE, and with a full event table it is counted in EXTRA. A record that is closed fills its slot with its number, and the
recorder re-arms or goes IDLE.
Choices of the model: log entries 112, 114, 199, 200, 201, 202, 203, 204, 270, 272, 273, 274, 275. -/
def Obligations.RecordingSets : Prop :=
  ∀ (s : State), s.Inv →
    let c := s.rcd
    let img := recImg s
    let evt := regA fnREC 0x40
    let size := setSize img
    let next := c.tick + 2 ^ recRate img
    let allowed : Prop := rgnAllows s 2 (setAddrOf s img) size true = true
    (s.clk.state ≠ 2 → ∀ d : Nat, Gives (.recSet d) s fun t => t = { s with out := [] })
    ∧ (s.clk.state = 2 → ∀ d : Nat, Gives (.recSet d) s fun t =>
      Becomes { s with rcd := t.rcd } [evt, 0x130048, 0x13004C] s t ∧ t.rcd.slots = c.slots ∧ t.rcd.num = c.num ∧ t.rcd.tick = next)
    ∧ (s.clk.state = 2 → c.state = 0 → ∀ d : Nat, Gives (.recSet d) s fun t => t = { s with out := [], rcd := { c with soft := 0, tick := next } })
    ∧ (s.clk.state = 2 → c.state ≠ 0 → onGrid s (recRate img) = false → ∀ d : Nat, Gives (.recSet d) s fun t =>
      t = { s with out := [], rcd := { c with tick := next } })
    ∧ (s.clk.state = 2 → onGrid s (recRate img) = true → ∀ d : Nat,
      let mask := (unitsStep s img).2 ||| c.soft % 65536
      let fill := c.stage - d
      let set : RSet := ⟨setBytes s img, setTime s img, c.rate⟩
      let plain : Prop := c.gap = 0 ∧ c.rateDue = false ∧ c.step = false ∧ c.halve = false ∧ c.trigs = []
      (onGrid s c.rate = true → fill < 49152 → fill + size ≤ 65536 → allowed → plain →
        (c.state = 2 → mask = 0 → Gives (.recSet d) s fun t =>
          let base := max c.base (c.count + 1 - pNat img 0x0C06)
          t = { s with out := [], rcd := { c with
            units := (unitsStep s img).1, soft := 0, stage := fill + size, high := false, count := c.count + 1, tick := next
            sets := (set :: c.sets).take (pNat img 0x0C06), base := base, evts := c.evts.filter (fun e => decide (base < e.index))
            state := if c.count + 1 - base ≥ pNat img 0x0C06 then 3 else 2 } })
        ∧ (c.state = 3 → mask ≠ 0 → 2 ≤ c.post → Gives (.recSet d) s fun t =>
          t.rcd.state = 4 ∧ t.rcd.trigAt = some c.count ∧ t.rcd.mask = mask ∧ t.rcd.trigTime = set.time
          ∧ t.rcd.left = c.post - 1 ∧ t.rcd.count = c.count + 1 ∧ t.rcd.sets = set :: c.sets ∧ bit (regGet t evt) 0 = true
          ∧ (c.evts.length < 31 → t.rcd.evts = c.evts ++ [⟨c.count, 1, lowUnit mask, 0, set.time⟩] ∧ t.rcd.extra = c.extra)
          ∧ (31 ≤ c.evts.length → t.rcd.evts = c.evts ∧ t.rcd.extra = satInc 32 c.extra)))
      ∧ ((c.state = 2 ∨ c.state = 3 ∨ c.state = 4) → (c.high = true ∨ fill < 49152) → c.halve = false → onGrid s c.rate = true →
        (65536 < fill + size ∨ ¬ allowed) → Gives (.recSet d) s fun t =>
        t.rcd.count = c.count ∧ t.rcd.stage = fill ∧ t.rcd.drops = c.drops + 1 ∧ regF t 0x13004C 31 0 = satInc 32 (regF s 0x13004C 31 0)
        ∧ (t.rcd.state ≠ 5 → t.rcd.gap = c.gap + 1))
      ∧ ((c.state = 2 ∨ c.state = 3 ∨ c.state = 4) → c.high = false → 49152 ≤ fill → c.rate < 10 → c.halve = false → Gives (.recSet d) s fun t =>
        t.rcd.rate = (if onGrid s (c.rate + 1) then c.rate + 1 else c.rate) ∧ t.rcd.halve = !onGrid s (c.rate + 1)
        ∧ t.rcd.flags.testBit 3 = true ∧ bit (regGet t evt) 5 = true))
    ∧ (c.state = 5 → s.clk.state = 2 → rgnAllows s 2 (slotAddrOf img c.slot) 4096 true = true → pNat img 0x0C08 ≠ 1 → Gives .recCloseDone s fun t =>
      t.rcd.num = c.num + 1 ∧ t.rcd.state = 1 ∧ t.rcd.sets = [] ∧ t.rcd.evts = []
      ∧ t.rcd.slots = tabSet RSlot.empty c.slots c.slot
          ⟨2, c.num + 1, (tabGet RSlot.empty t.rcd.slots c.slot).header, c.sets.reverse.flatMap (·.bytes)⟩
      ∧ bit (regGet t evt) 1 = true ∧ Becomes { s with rcd := t.rcd } [evt] s t)
    ∧ (c.state = 5 → s.clk.state = 2 → rgnAllows s 2 (slotAddrOf img c.slot) 4096 true = false → Gives .recCloseDone s (Becomes s [] s))
    ∧ ((c.state ≠ 5 ∨ s.clk.state ≠ 2) → Gives .recCloseDone s fun t => t = { s with out := [] })
    ∧ (c.state = 3 → pNat img 0x0C09 = 1 → Gives .recAutoTimeout s fun t => t = { s with out := [], rcd := { c with force := true } })

/-- R302 to R305, R301: the recorder leaves OFF in a running mode with the bulk store ready, and fills the slot R303 picks, or is IDLE and
FULL; ARM, STOP and SWTRIG act with the key only, outside OFF.
R311, R312, R316, R412, R417: a closed record is copied to the host, where the region registers let the recorder read it, and erased, with the
key only; PF1 erases none; and a fetch brings the measurements of one channel, which the first read latches.
Choices of the model: log entries 64, 81, 204, 270, 272. -/
def Obligations.RecorderCommands : Prop :=
  (∀ (s : State), s.Inv →
      let c := s.rcd
      let filling (t : State) (k : Nat) : Prop :=
        t.rcd.state = 2 ∧ t.rcd.slot = k ∧ t.rcd.count = 0 ∧ t.rcd.base = 0 ∧ t.rcd.sets = [] ∧ t.rcd.evts = [] ∧ t.rcd.trigAt = none
        ∧ t.rcd.image = some (imgOf s) ∧ t.rcd.slots = tabSet RSlot.empty c.slots k ⟨1, 0, [], []⟩
        ∧ Becomes { s with rcd := t.rcd } [regA fnREC 0x40] s t
      (c.state = 0 → recMode s.sys.mode = true → hasSect (imgOf s) 0x0C = true → s.mem.blkReady = true → s.clk.state = 2 →
        (pNat (imgOf s) 0x0C01 ≠ 1 → Gives .recStart s fun t => t = { s with out := [], rcd := { c with state := 1 } })
        ∧ (∀ k, pNat (imgOf s) 0x0C01 = 1 → slotPick s (imgOf s) = some k → Gives .recStart s fun t => filling t k)
        ∧ (pNat (imgOf s) 0x0C01 = 1 → slotPick s (imgOf s) = none → Gives .recStart s fun t =>
          Reported { s with rcd := { c with state := 1, full := true } } t ∧ Flagged fnREC 8 [] s t))
      ∧ (pfAnswers s .pf0 = true → windowOpen s fnREC = true →
        let res (st : Nat) : State := { s with out := [], rcd := { c with ctlRes := st } }
        (∀ (key : BitVec 16) (u : Fin 16), key ≠ 0x5243 →
          Gives (.recArm .pf0 key) s (· = res 2) ∧ Gives (.recStop .pf0 key) s (· = res 2) ∧ Gives (.recSwtrig .pf0 key u) s (· = res 2))
        ∧ (∀ u : Fin 16, c.state = 0 →
          Gives (.recArm .pf0 0x5243) s (· = res 3) ∧ Gives (.recStop .pf0 0x5243) s (· = res 3)
          ∧ Gives (.recSwtrig .pf0 0x5243 u) s (· = res 3))
        ∧ (c.state ≠ 0 → hasSect (imgOf s) 0x0C = true →
          (∀ k, c.state = 1 → s.mem.blkReady = true → slotPick s (imgOf s) = some k →
            Gives (.recArm .pf0 0x5243) s fun t => filling t k ∧ t.rcd.ctlRes = 1)
          ∧ (c.state ≠ 1 → Gives (.recArm .pf0 0x5243) s (· = res 4))
          ∧ ((c.state = 1 ∨ c.state = 5) → Gives (.recStop .pf0 0x5243) s (· = res 4))
          ∧ ((c.state = 2 ∨ c.state = 3) → Gives (.recStop .pf0 0x5243) s fun t => t = { s with out := [], rcd := { c with
            slots := tabSet RSlot.empty c.slots c.slot RSlot.empty, state := 1, sets := [], evts := [], ctlRes := 1 } })
          ∧ (c.state = 4 → c.gap = 0 → Gives (.recStop .pf0 0x5243) s fun t => t = { s with out := [], rcd := { c with
            state := 5, force := false, flags := c.flags ||| 2, ctlRes := 1 } })
          ∧ (c.state = 4 → c.gap ≠ 0 → Gives (.recStop .pf0 0x5243) s fun t =>
            t.rcd.state = 5 ∧ t.rcd.gap = 0 ∧ t.rcd.flags = (c.flags ||| 16 ||| 2) ∧ t.rcd.ctlRes = 1
            ∧ Reported { s with rcd := t.rcd } t ∧ Flagged fnREC 6 [] s t)
          ∧ (∀ u : Fin 16, pNatAt (recImg s) 0x0C10 u ≠ 0 → Gives (.recSwtrig .pf0 0x5243 u) s fun t =>
            t = { s with out := [], rcd := { c with soft := c.soft ||| 2 ^ u.val, ctlRes := 1 } })
          ∧ (∀ u : Fin 16, pNatAt (recImg s) 0x0C10 u = 0 → Gives (.recSwtrig .pf0 0x5243 u) s (· = res 5)))))
  ∧ (∀ (s : State) (pf : Pf), s.Inv → pfAnswers s pf = true → windowOpen s fnREC = true →
      let c := s.rcd
      let res (k st : Nat) : State := { s with out := [], rcd := { c with rdSlot := k, rdStat := st } }
      (∀ (k : Fin 256) (key : BitVec 16), key ≠ 0x5244 →
        Gives (.recRead pf key k) s (· = res k 3) ∧ Gives (.recErase pf key k) s (· = res k 3) ∧ Gives (.recEraseAll pf key k) s (· = res k 3))
      ∧ (∀ k : Fin 256,
        let r := slotOf s k
        let reads : Prop := rgnAllows s 2 (slotAddrOf (recImg s) k) (4096 + r.sets.length) false = true
        (rdBusy s = false → r.state = 2 → reads → Gives (.recRead pf 0x5244 k) s fun t => t = { s with out := [], rcd := { c with
          slots := tabSet RSlot.empty c.slots k { r with state := 3 }, rdSlot := k.val, rdStat := 1, rdLen := 4096 + r.sets.length, rdPf := pf } })
        ∧ (rdBusy s = false → r.state = 2 → ¬ reads → Gives (.recRead pf 0x5244 k) s fun t =>
          Becomes (res k 8) [] s t ∧ bit (regGet t (regA fnRKS 0x40)) 2 = true)
        ∧ (rdBusy s = true → Gives (.recRead pf 0x5244 k) s (· = res k 5))
        ∧ (rdBusy s = false → r.state = 0 → Gives (.recRead pf 0x5244 k) s (· = res k 4))
        ∧ (pf = .pf1 → Gives (.recErase pf 0x5244 k) s (· = res k 8) ∧ Gives (.recEraseAll pf 0x5244 k) s (· = res k 8))
        ∧ (pf = .pf0 → r.state = 2 → Gives (.recErase pf 0x5244 k) s fun t => t = { s with out := [], rcd := { c with
          slots := tabSet RSlot.empty c.slots k RSlot.empty, rdSlot := k.val, rdStat := 2 } })
        ∧ (pf = .pf0 → r.state ≠ 2 → Gives (.recErase pf 0x5244 k) s (· = res k (if r.state = 0 then 4 else 5)))
        ∧ (pf = .pf0 → Gives (.recEraseAll pf 0x5244 k) s fun t => t = { s with out := [], rcd := { c with
          slots := c.slots.filter (fun e => decide (e.2.state ≠ 2)), rdSlot := k.val, rdStat := 2 } }))
      ∧ (∀ k, rdOf s = some k →
        let r := slotOf s k
        let u (st : Nat) : State := { s with rcd := { c with
          slots := tabSet RSlot.empty c.slots k { r with state := 2 }, rdSlot := k, rdStat := st } }
        let a := slotAddrOf (recImg s) k
        let bs := r.header ++ r.sets
        let bad (g : Nat) : Bool := decide (Config.groupState s.free g % 3 = 2)
        Gives (.recReadDone true) s (fun t =>
          Becomes { u 2 with mem := { s.mem with ueAddr := t.mem.ueAddr } } [regA fnREC 0x40, 0x70018, regA fnBLK 0x40] s t
          ∧ bit (regGet t (regA fnREC 0x40)) 9 = true
          ∧ .dma (BitVec.ofNat 64 (reg64 s 0x130100))
              (bs.zipIdx.map (fun x => if bad ((a + x.2) / 8) then Config.errByte s.free (a + x.2) else x.1)) ∈ t.out)
        ∧ Gives (.recReadDone false) s (fun t => t = { u 6 with out := [] }))
      ∧ (∀ v : Word, Gives (.recMeasFetch pf v) s fun t =>
        Becomes { s with rcd := { c with fetch := some (field v 15 8, field v 5 0), fFresh := false } } [0x130200] s t
        ∧ regGet t 0x130200 = v &&& 0xFF3F)
      ∧ (∀ f, c.fetch = some f → rgnAllows s 2 (slotAddrOf (recImg s) f.1 + 0x4C0 + 16 * f.2) 16 false = false → Gives .recMeasFetchDone s fun t =>
        Becomes { s with rcd := { c with fetch := none } } [] s t)
      ∧ (∀ f, c.fetch = some f → rgnAllows s 2 (slotAddrOf (recImg s) f.1 + 0x4C0 + 16 * f.2) 16 false = true → Gives .recMeasFetchDone s fun t =>
        let r := slotOf s f.1
        t = { s with out := [], rcd := { c with
          fetch := none, fFresh := true, fSeq := (c.fSeq + 1) % 16, fStat := if r.state = 2 then 1 else 2
          fVals := if r.state = 2 then [0, 4, 8, 12].map (fun o => leAt r.header (0x4C0 + 16 * f.2 + o) 4) else c.fVals } })
      ∧ (Gives (.recMeasStatRead pf) s fun t =>
        let u := if c.fFresh then { s with rcd := { c with fFresh := false, fLat := c.fVals, fSeqLat := c.fSeq } } else s
        t = { u with out := [], rdata := flagAt c.fFresh 8 ||| at_ u.rcd.fSeqLat 4 ||| at_ u.rcd.fStat 0 }))

/-- R408, R409, R414, R417, R418: a field of RKS_PWR turns its rick off, which loses what it holds, retains it, or brings it up, and 3 leaves it,
while in MD_3 the write is kept for the way out; a region register is written, counted and flagged; the bulk store is ready once zeroed, its patrol
runs on command and by period, and a pass counts and flags what it met, whose numbers are open.
Choices of the model: log entries 12, 64, 219, 230. -/
def Obligations.RicksAndBulkStore : Prop :=
  ∀ (s : State) (v : Word), s.Inv →
    let s0 : State := { s with out := [] }
    let host (fn : Nat) : Prop := pfAnswers s .pf0 = true ∧ windowOpen s fn = true
    (host fnRKS → Gives (.rickPower .pf0 v) s fun t =>
      let w (k : Nat) : Nat := field v (2 * k + 1) (2 * k)
      let acts : Prop := s.sys.mode ≠ .md3
      t = { s0 with regs := t.regs, mem := { s.mem with dev := t.mem.dev, pwr := t.mem.pwr } }
      ∧ RegsBut [0x60010] s t
      ∧ (∀ k, k < 12 → nth 2 t.mem.pwr k =
          if ¬ acts ∨ w k = 3 then nth 2 s.mem.pwr k else if w k = 2 then (if nth 2 s.mem.pwr k = 2 then 2 else 3) else w k)
      ∧ (∀ k, 12 ≤ k → nth 2 t.mem.pwr k = nth 2 s.mem.pwr k)
      ∧ (∀ k, k < 12 → field (regGet t 0x60010) (2 * k + 1) (2 * k) = if w k = 3 then field (regGet s 0x60010) (2 * k + 1) (2 * k) else w k)
      ∧ (∀ a, devByte t a = if acts ∧ a < 0xC00000 ∧ w (a / 0x100000) = 0 then 0 else devByte s a))
    ∧ (∀ k : Fin 16, Gives (.rickPowerDone k) s fun t =>
      t = if nth 2 s.mem.pwr k = 3 ∧ clocked s = true then { s0 with mem := { s.mem with pwr := setNth s.mem.pwr k 2 } } else s0)
    ∧ (∀ (m : Fin 7) (k : Fin 16) (w : Fin 3), host fnRKS → Gives (.rgnWrite .pf0 m k w v) s fun t =>
      let a := 0x61000 + 0x100 * m.val + 0x10 * k.val + 4 * w.val
      regGet t a = v &&& (if w = 2 then 7 else 0xFFFFF000) ∧ bit (regGet t (regA fnRKS 0x40)) 3 = true
      ∧ Becomes { s with mem := { s.mem with rgnGen := (s.mem.rgnGen + 1) % 2 ^ 32 } } [a] s t)
    ∧ (blkUp s = false ∨ s.mem.blkReady = true → Gives .blkReady s fun t => t = s0)
    ∧ (blkUp s = true → s.mem.blkReady = false → Gives .blkReady s fun t =>
      Becomes { s with stk := t.stk, mem := { s.mem with blkReady := true, dev := t.mem.dev } } [regA fnSTK 0x40] s t
      ∧ (∀ a, tabGet 0 t.mem.dev a = if 0x10000000 ≤ a ∧ a < 0x20000000 then 0 else tabGet 0 s.mem.dev a))
    ∧ (host fnBLK → Gives (.scrubNow .pf0 v) s fun t =>
      t = { s0 with regs := t.regs, mem := { s.mem with scrub := s.mem.scrub || bit v 8 } }
      ∧ RegsBut [0x70014] s t ∧ field (regGet t 0x70014) 7 0 = if field v 7 0 = 0 then field (regGet s 0x70014) 7 0 else field v 7 0)
    ∧ Gives .scrubPeriod s (fun t => t = { s0 with mem := { s.mem with scrub := s.mem.scrub || (s.mem.blkReady && clocked s) } })
    ∧ (¬ (s.mem.scrub = true ∧ s.mem.blkReady = true ∧ clocked s = true) → Gives .scrubDone s fun t => t = s0)
    ∧ (s.mem.scrub = true → s.mem.blkReady = true → clocked s = true → Gives .scrubDone s fun t =>
      let (n, s1) := freshBelow s 33554433
      let (m, _) := freshBelow s1 (33554433 - n)
      Becomes { s with mem := { s.mem with scrub := false, ueAddr := t.mem.ueAddr } } [regA fnBLK 0x40, 0x70018] s t
      ∧ regF t 0x70018 15 0 = satNat 16 (regF s 0x70018 15 0 + n) ∧ regF t 0x70018 31 16 = satNat 16 (regF s 0x70018 31 16 + m)
      ∧ (m = 0 → t.mem.ueAddr = s.mem.ueAddr)
      ∧ regGet t (regA fnBLK 0x40) = regGet s (regA fnBLK 0x40) ||| 4 ||| (if n = 0 then 0 else 1) ||| (if m = 0 then 0 else 2))

/-! ### Clocks and supplies (chapter 11) -/

/-- R44, R318 to R321: lock ungates every output, and MD_0 ends where nothing holds it; a loss of the reference or of the lock, and an accepted
write of a synthesiser register, gate them: the links drop, the ports and lanes go dark, the chains idle and the token is released; a loss
outside MD_1 also blocks and releases, and in MD_1 Kindle starts again.
Choices of the model: log entries 41, 42, 43, 44, 210. -/
def Obligations.Synthesiser : Prop :=
  ∀ (s : State), s.Inv →
    let c := s.clk
    let s0 : State := { s with out := [] }
    let gated (t : State) : Prop :=
      t.clk.gap = true ∧ tokenHeld t = false ∧ t.tim.link = [false, false]
      ∧ (∀ n, n < 24 → (chanOf t n).state ≠ 1 ∧ (chanOf t n).state ≠ 2 ∧ (chanOf t n).state ≠ 3)
      ∧ (∀ i, i < 32 → bit (chainOf t i).word 7 = false)
      ∧ (s.sys.mode ≠ .md3 → ∀ n, n < 50 → (laneOf t n).state = 0)
      ∧ t.sys.mode = s.sys.mode ∧ t.img = s.img ∧ t.fab = s.fab ∧ (s.crd.svc = none → t.rdl = s.rdl) ∧ t.swg = s.swg ∧ t.mem.dev = s.mem.dev
      ∧ t.peat.slots = s.peat.slots
    (∀ us, (c.state ≠ 1 ∨ c.refOk = false) → Gives (.synthLock us) s fun t => t = s0)
    ∧ (∀ us, c.state = 1 → c.refOk = true → Gives (.synthLock us) s fun t =>
      t.clk = { c with state := 2, acqUs := min us 65535 } ∧ bit (regGet t (regA fnCLK 0x40)) 0 = true
      ∧ (s.sys.mode = .md0 → (s.mon.rails ≠ 0 ∨ s.mon.resetN = false) → Reported { s with clk := t.clk } t)
      ∧ (s.sys.mode = .md0 → s.mon.rails = 0 → s.mon.resetN = true → s.ggd.ht = true →
          t.sys.mode = .md1 ∧ ∀ n, n < 24 → (chanOf t n).state = 6)
      ∧ (s.sys.mode = .md0 → s.mon.rails = 0 → s.mon.resetN = true → s.ggd.ht = false →
          Becomes { s with
            clk := t.clk, fio := t.fio, sys := { s.sys with mode := .md1, prev := .md0, cause := 0 }, sec := { s.sec with attWait := 10000000000 } }
            [regA fnCLK 0x40, 0x10010] s t
          ∧ t.fio.cut = false ∧ t.fio.safe = 0xFFFF
          ∧ regF t 0x10010 0 0 = if c.refMode then 1 else 0)
      ∧ (s.sys.mode ≠ .md0 → Reported { s with
            clk := t.clk, crd := t.crd, txRd := t.txRd, tim := t.tim, adc := t.adc, stk := t.stk, ggd := { s.ggd with tpc := t.ggd.tpc } } t
          ∧ ∀ i, i < 32 → 2 ≤ (chainOf t i).due))
    ∧ Gives .synthAcqTimeout s (fun t => if c.state = 1 then Reported s t ∧ Flagged fnCLK 3 [] s t else t = s0)
    ∧ (c.state ≠ 2 →
      Gives (.clockLoss false) s (fun t => t = s0)
      ∧ Gives (.clockLoss true) s fun t =>
        Reported { s with clk := { c with refOk := false, rosc := true }, tim := t.tim } t ∧ ∀ b, b < 4 → (tbOf t b).trace = false)
    ∧ (∀ ref : Bool, c.state = 2 → Gives (.clockLoss ref) s fun t =>
      gated t ∧ t.clk.state = 3 ∧ t.clk.lost = some s.sys.mode.code ∧ t.clk.refOk = (c.refOk && !ref)
      ∧ bit (regGet t (regA fnCLK 0x40)) (if ref then 1 else 2) = true ∧ regF t 0x10048 31 16 = satInc 16 (regF s 0x10048 31 16)
      ∧ (s.sys.mode.blockable = true → s.sys.mode ≠ .md3 → t.sys.blockNext = true ∧ ⟨.blockRelease, .md2, none, 0⟩ ∈ t.sys.causes)
      ∧ (ref = true → ∀ b, b < 4 → (tbOf t b).trace = false)
      ∧ (s.sys.mode = .md1 → t.sys.halt = false ∧ t.sec.bootRes = 0 ∧ t.sec.rcv = none))
    ∧ Gives .refclkReturn s (fun t => t = { s0 with clk := { c with
        refOk := true, rosc := false
        state := if c.state = 3 ∨ (c.state = 0 ∧ s.mon.rails = 0 ∧ s.mon.resetN = true) then 1 else c.state } })
    ∧ (pfAnswers s .pf0 = true → ∀ v : Word,
      (s.sys.mode ∉ [Mode.md2, .md10, .md11] → ∀ k : Fin 7, ∀ x ∈ [Instr.clkCfgWrite .pf0 v, .clkOutWrite .pf0 k v], Gives x s fun t =>
        Becomes s [regA fnCLK 0x40] s t ∧ bit (regGet t (regA fnCLK 0x40)) 4 = true)
      ∧ (s.sys.mode ∈ [Mode.md2, .md10, .md11] →
        Gives (.clkCfgWrite .pf0 v) s (fun t =>
          gated t ∧ t.clk.state = 1 ∧ regF t 0x10010 0 0 = field v 0 0 ∧ regF t 0x10048 15 0 = satInc 16 (regF s 0x10048 15 0))
        ∧ ∀ k : Fin 7, Gives (.clkOutWrite .pf0 k v) s fun t =>
          let a := 0x10100 + 4 * k.val
          let en := if k.val = 3 ∧ s.sys.mode = .md11 then bit v 31 else bit (regGet s a) 31
          field (regGet t a) 21 16 = field v 21 16 ∧ bit (regGet t a) 31 = en
          ∧ (¬ (field v 21 16 = field (regGet s a) 21 16 ∧ en ≠ bit (regGet s a) 31) → gated t ∧ t.clk.state = 1)
          ∧ (field v 21 16 = field (regGet s a) 21 16 → en ≠ bit (regGet s a) 31 →
              t = { s0 with regs := t.regs, adc := { s.adc with chains := t.adc.chains } } ∧ RegsBut [a] s t
              ∧ ∀ i, i < 32 → if en then chainOf t i = { chainOf s i with due := max (chainOf s i).due 2 }
                else chainOf t i = { chainOf s i with word := (chainOf s i).word &&& ~~~0x80 })))

/-- R44, R318, R443, R446, R451, R452, R456, R464: a supply outside its window and RESET_N low bring MD_0 as `State.inMd0` has it, with every field
output at its safe level; only where the core rail fails, it is open whether the levels could still be sent, and where not, each output keeps its
level until its coupler has been silent; where nothing holds MD_0 any more, the synthesiser starts, and from the first time that every rail is valid
the management port answers.
Choices of the model: log entries 11, 13, 30, 44, 191, 222, 224, 258, 283. -/
def Obligations.SuppliesAndReset : Prop :=
  ∀ (s : State),
    let starts (m : Mon) : State := { s with
      out := [], mon := m
      clk := { s.clk with state :=
        if s.clk.state = 0 ∧ m.rails = 0 ∧ m.resetN = true ∧ s.clk.refOk = true then 1 else s.clk.state } }
    let failed (r : Fin 12) : Mon := { s.mon with rails := s.mon.rails ||| 2 ^ r.val }
    (∀ r : Fin 12, r.val ≠ 0 → Gives (.supplyFault r) s fun t => t = (s.inMd0 (failed r)).outputsSafe)
    ∧ (Gives (.supplyFault 0) s fun t =>
      let u := ((freshBelow s 2).2.inMd0 (failed 0)).outputsSafe
      t = if (freshBelow s 2).1 = 1 then { u with fio := { u.fio with cut := true, level := s.fio.level, safe := s.fio.safe } } else u)
    ∧ Gives .supplyValid s (fun t => t = starts { s.mon with rails := 0, served := true })
    ∧ Gives .resetNLow s (fun t => t = (s.inMd0 { s.mon with resetN := false }).outputsSafe)
    ∧ Gives .resetNRelease s (fun t => t = starts { s.mon with resetN := true })

/-! ### Station time (chapter 11) -/

/-- R324 to R326, R334: the trackers. The best of the masters heard is selected whenever an Announce arrives, one fails to arrive or a link is
lost, and another grandmaster makes a tracker acquire anew; a Sync sample of that master seeds an acquiring tracker and then steers it,
with eight good residuals in a row to LOCKED and three bad ones to HOLDOVER; and the peer delay is measured and answered.
Choices of the model: log entries 109, 253, 254, 255. -/
def Obligations.PrecisionTimeTrackers : Prop :=
  ∀ (s : State) (d p : Fin 2), s.Inv →
    let x := domOf s d
    let evt := regA fnTIM 0x40
    let took (e : Nat × Master) (x : Dom) : Dom := { x with port := e.1, src := e.2.src, gm := e.2.gm, cls := e.2.cls, utc := e.2.utc }
    let anew (e : Nat × Master) : Prop := x.state = 1 ∨ x.state = 4 ∨ (x.state = 3 ∧ x.gm ≠ e.2.gm)
    let selects (u : State) (e : Nat × Master) (c : Instr) : Prop :=
      (anew e → Gives c s fun t =>
        Becomes (updDom u d (fun x => { took e x with seeded := false, state := 2, good := 0, bad := 0 })) [evt] s t
        ∧ (x.state ≠ 1 → x.gm ≠ e.2.gm → bit (regGet t evt) 9 = true) ∧ (x.state = 3 → bit (regGet t evt) 0 = true))
      ∧ (¬ anew e → x.state ≠ 0 → Gives c s fun t => t = { updDom u d (took e) with out := [] })
    (∀ a : Announce, x.state ≠ 0 → (pNatAt (imgOf s) 0x0D08 d).testBit p = true → nth false s.tim.link p = true →
      let new : Master := ⟨a.prio1.toNat, a.cls.toNat, a.acc.toNat, a.var.toNat, a.prio2.toNat, a.gm.toNat, a.steps.toNat, a.src.toNat,
        toSigned 16 a.utc.toNat⟩
      let u := updDom s d (fun x => { x with heard := hear x.heard p new })
      ∀ e, bestMaster u d = some e → selects u e (.announceRx d p a))
    ∧ (let u := updDom s d (fun x => { x with heard := x.heard.filter (fun y => decide (y.1 ≠ p.val)) })
      (∀ e, bestMaster u d = some e → selects u e (.announceTimeout d p))
      ∧ ((x.state = 0 ∨ (bestMaster u d = none ∧ x.state ≠ 3)) → Gives (.announceTimeout d p) s fun t => t = { u with out := [] })
      ∧ (bestMaster u d = none → x.state = 3 → Gives (.announceTimeout d p) s fun t =>
        Reported (updDom u d (fun x => { x with state := 4, good := 0, bad := 0 })) t ∧ Flagged fnTIM 0 [] s t))
    ∧ (∀ (m : SyncMsg), (x.state = 2 ∨ x.state = 3) → x.port = p.val → x.src = m.src.toNat → nth false s.tim.link p = true →
      let steered (o : Int) (sync : Option (Nat × Nat × Int)) (t : State) : Prop :=
        let res := o - x.o
        let good := if (res.natAbs : Int) ≤ lockTh s then x.good + 1 else 0
        let bad := if 4 * lockTh s < (res.natAbs : Int) then x.bad + 1 else 0
        let step := Config.trackerLoop (pBfp 40 (imgOf s) 0x0D0B) (decide (x.state = 3)) res
        if x.state = 2 ∧ x.seeded = false then
          t = { updDom s d (fun x => { x with sync := sync, o := o, seeded := true, resid := 0, good := 1, bad := 0 }) with out := [] }
        else
          let dest := if x.state = 2 ∧ 8 ≤ good then 3 else if x.state = 3 ∧ 3 ≤ bad then 4 else x.state
          Becomes (updDom s d (fun x => { x with
            sync := sync, resid := res, o := x.o + step.1, r := x.r + step.2, state := dest
            good := if dest = x.state then good else 0, bad := if dest = x.state then bad else 0 })) [evt] s t
          ∧ (x.state = 2 → dest = 3 → bit (regGet t evt) 1 = true) ∧ (dest = 4 → bit (regGet t evt) 0 = true)
      let base : Int := (ofTime96 m.origin.toNat : Int) + m.corr
      let pd := nth 0 x.pd p
      (m.kind = .oneStep → Gives (.syncMsgRx d p m) s (steered (base + pd - m.arrival) x.sync))
      ∧ (m.kind = .twoStep → Gives (.syncMsgRx d p m) s fun t =>
        t = { updDom s d (fun x => { x with sync := some (m.seq.toNat, m.arrival, m.corr) }) with out := [] })
      ∧ (m.kind = .followUp → ∀ q arr c, x.sync = some (q, arr, c) → q = m.seq.toNat →
        Gives (.syncMsgRx d p m) s (steered (base + c + pd - arr) none)))
    ∧ (ethUp s p = true →
      Gives (.pdelayReqTimer p) s (fun t =>
        let q := (nth 0 s.tim.pdSeq p + 1) % 65536
        t = { s with tim := { s.tim with pdSeq := setNth s.tim.pdSeq p q }
                     out := [.eth p (ptpFrame p 2 (pNatAt (imgOf s) 0x0D07 0) 0 q (zeros 20))] })
      ∧ (∀ (dom : Byte) (seq : BitVec 16) (src : BitVec 80) (corr : Int) (turn : Nat), Gives (.pdelayReqRx p dom seq src corr turn) s fun t =>
        t = { s with out := [.eth p (ptpFrame p 3 dom.toNat (corr + turn) seq.toNat (zeros 10 ++ beBytes 10 src.toNat))] })
      ∧ (∀ rtt turn : Nat, Gives (.pdelayRespRx p rtt turn) s fun t =>
        let set (x : Dom) : Dom := { x with pd := setNth x.pd p (roundDiv ((rtt : Int) - turn) 2) }
        t = { updDom (updDom s 0 set) 1 set with out := [] }))
    ∧ (∀ up : Bool, Gives (.ethLinkChange p up) s fun t =>
      let l := up && decide (pNatAt (imgOf s) 0x0D0E p ≠ 0)
      let u : State := { s with tim := { s.tim with link := setNth s.tim.link p l } }
      Becomes { u with tim := { u.tim with doms := t.tim.doms } } [evt] s t
      ∧ (l = false → x.state ≠ 0 → x.port = p.val → pNatAt (imgOf s) 0x0D06 d = 1 → s.sys.mode ≠ .md3 → s.sys.mode ≠ .md0 →
          (bestMaster u d = none → domOf t d = x)
          ∧ ∀ e, bestMaster u d = some e →
            (anew e → domOf t d = { took e x with seeded := false, state := 2, good := 0, bad := 0 })
            ∧ (¬ anew e → domOf t d = took e x)))

/-- R327, R328, R332, R337: the end of HO_LIMIT in holdover loses traceability; step commands are decided in the order of R332 and wait for
the next boundary; a choice of domain moves every time base that follows precision time; and the fraction's read latches the others.
Choices of the model: log entries 6, 7, 110, 205, 206, 207, 208. -/
def Obligations.TimeCommands : Prop :=
  ∀ (s : State) (b : Fin 4), s.Inv →
    ((tbOf s b).hold = true → (tbOf s b).trace = true → Gives (.holdoverLimit b) s fun t =>
      Reported (updTb s b (fun x => { x with trace := false })) t ∧ Flagged fnTIM 3 [] s t)
    ∧ (((tbOf s b).hold = false ∨ (tbOf s b).trace = false) → Gives (.holdoverLimit b) s fun t => t = { s with out := [] })
    ∧ (pfAnswers s .pf0 = true → windowOpen s fnTIM = true →
      let ns := toSigned 64 (reg64 s 0x20028)
      let e := srcEst s b - (tbOf s b).val
      let res (x : Instr) (st : Nat) : Prop := Gives x s fun t => Becomes { s with tim := { s.tim with stepRes := st } } [] s t
      let pends (x : Instr) (align : Bool) : Prop := Gives x s fun t =>
        Becomes (updTb { s with tim := { s.tim with stepRes := 1 } } b (fun x => { x with cmd := some ⟨align, ns⟩ })) [] s t
      (∀ key : BitVec 16, key ≠ 0x5453 → res (.stepRel .pf0 key b) 3 ∧ res (.align .pf0 key b) 3)
      ∧ (s.sys.mode.code < 2 → res (.stepRel .pf0 0x5453 b) 4 ∧ res (.align .pf0 0x5453 b) 4)
      ∧ (2 ≤ s.sys.mode.code → srcLocked s b = true → res (.stepRel .pf0 0x5453 b) 5)
      ∧ (2 ≤ s.sys.mode.code → srcLocked s b = false → res (.align .pf0 0x5453 b) 6)
      ∧ (2 ≤ s.sys.mode.code → srcLocked s b = false → stepRange s b (ns * 65536) = true → res (.stepRel .pf0 0x5453 b) 7)
      ∧ (2 ≤ s.sys.mode.code → srcLocked s b = true → stepRange s b e = true → res (.align .pf0 0x5453 b) 7)
      ∧ (2 ≤ s.sys.mode.code → srcLocked s b = false → stepRange s b (ns * 65536) = false → pends (.stepRel .pf0 0x5453 b) false)
      ∧ (2 ≤ s.sys.mode.code → srcLocked s b = true → stepRange s b e = false → pends (.align .pf0 0x5453 b) true)
      ∧ (∀ v : Word, field v 1 0 = 3 → Gives (.domselWrite .pf0 v) s fun t => t = { s with out := [] })
      ∧ (∀ v : Word, field v 1 0 ≠ 3 → Gives (.domselWrite .pf0 v) s fun t =>
        regGet t 0x20030 = v &&& 3
        ∧ Becomes { s with tim := { s.tim with tbs := t.tim.tbs } } [0x20030, regA fnTIM 0x40] s t
        ∧ (∀ k, k < 4 → tbOf t k =
            let x := tbOf s k
            if tbSrc s k = 1 ∧ field v 1 0 ≠ 0 ∧ field v 1 0 - 1 ≠ x.dom then
              { x with dom := field v 1 0 - 1, slewTo := x.led } else x)))
    ∧ (∀ pf : Pf, pfAnswers s pf = true → windowOpen s fnTIM = true → Gives (.tbFracRead pf b) s fun t =>
      let v := (tbOf t b).lat
      (tbOf s b).val ≤ v ∧ v < (tbOf s b).val + tickNs s * 65536
      ∧ t = { updTb s b (fun x => { x with lat := v }) with out := [], free := s.free + 1, rdata := at_ (v % 65536) 0 })

/-! ### Field I/O, management port and live block (chapter 16) -/

/-- R438 to R446, R450: the samples of an input move its counter, its filtered level at the counter's ends, and FIO_IN_CNT, but for an input in
BREAK; and the events that form the output levels again by the ranks of R443, from what the field die then holds: a host write, the end of the close pulse, the field supply, the common fault bit, silence and a complete configuration.
Choices of the model: log entries 222, 223, 225, 281, 282. -/
def Obligations.FieldInputsAndOutputs : Prop :=
  ∀ (s : State), s.Inv →
    let f := s.fio
    let formed (u : State) (l : List Nat) (t : State) : Prop :=
      let sent : Prop := u.fio.link = true ∧ u.fio.config = true ∧ u.img.live.isSome = true
      Becomes { u with fio := { u.fio with
        level := t.fio.level, safe := t.fio.safe, n9 := t.fio.n9, dieEn := t.fio.dieEn, dieSafe := t.fio.dieSafe } } l s t
      ∧ (sent → t.fio.dieEn = bitsOf 16 (outEn u) ∧ t.fio.dieSafe = (List.range 16).map (outSafe u))
      ∧ (¬ sent → t.fio.dieEn = u.fio.dieEn ∧ t.fio.dieSafe = u.fio.dieSafe)
      ∧ ∀ n, n < 16 → t.fio.level.testBit n = (outRank { u with fio := { u.fio with dieEn := t.fio.dieEn, dieSafe := t.fio.dieSafe } } n).2
    let evt := [regA fnFIO 0x40]
    (∀ v : Word, pfAnswers s .pf0 = true → windowOpen s fnFIO = true →
      (2 ≤ s.sys.mode.code → hostMask s (field v 31 16) = true → Gives (.fioOutWr .pf0 v) s (formed
        { s with fio := { f with outRes := 1, host := bitsOf 16 (fun n =>
          if (field v 31 16).testBit n then (field v 15 0).testBit n else f.host.testBit n) } } []))
      ∧ (s.sys.mode.code < 2 → Gives (.fioOutWr .pf0 v) s fun t =>
        Reported { s with fio := { f with outRes := 3 } } t ∧ Flagged fnFIO 6 [] s t)
      ∧ (2 ≤ s.sys.mode.code → hostMask s (field v 31 16) = false → Gives (.fioOutWr .pf0 v) s fun t =>
        Reported { s with fio := { f with outRes := 2 } } t ∧ Flagged fnFIO 6 [] s t))
    ∧ (∀ n, brkOut s = some n → n < 16 → Gives .brkPulseEnd s (formed { s with fio := { f with n9 := putBit f.n9 n false } } []))
    ∧ (∀ (i : Fin 16) (l : List Bool), ∀ c ∈ [Instr.fioInputChange i l, .fioFilterFilled (i, l)],
      (fioRuns s = true → (fioBreak s).testBit i = false → Gives c s fun t =>
        let n := pNatAt (imgOf s) 0x0F03 i
        let a := 0x150100 + 4 * i.val
        let step (x : Nat × Bool × Nat × Nat) (on : Bool) : Nat × Bool × Nat × Nat :=
          let k := if on then min n (x.1 + 1) else min n x.1 - 1
          let v := if n ≤ k then true else if k = 0 then false else x.2.1
          (k, v, min n (x.2.2.1 + 1), if v && !x.2.1 then satInc 32 x.2.2.2 else x.2.2.2)
        let r := l.foldl step (nth 0 f.cnt i, f.lvl.testBit i, nth 0 f.taken i, regF s a 31 0)
        Becomes { s with fio := { f with
          cnt := setNth f.cnt i r.1, lvl := putBit f.lvl i r.2.1, taken := setNth f.taken i r.2.2.1
          filled := if l ≠ [] ∧ n ≤ r.2.2.1 then putBit f.filled i true else f.filled } } [a] s t
        ∧ regF t a 31 0 = r.2.2.2)
      ∧ ((fioRuns s = false ∨ (fioBreak s).testBit i = true) → Gives c s fun t => t = { s with out := [] }))
    ∧ (∀ i : Fin 16, pNatAt (imgOf s) 0x0F04 i = 1 → f.brk.testBit i = false → Gives (.inputBreak i) s fun t =>
      Reported { s with fio := { f with brk := putBit f.brk i true } } t ∧ Flagged fnFIO 3 [] s t)
    ∧ (∀ i : Fin 16, Gives (.inputBreakEnd i) s fun t => t = { s with out := [], fio := { f with brk := putBit f.brk i false } })
    ∧ (∀ mv : BitVec 16,
      Gives (.fieldSupplyLow mv) s (fun t =>
        let g := { f with
          mv := mv.toNat, uv := f.uv || decide (mv.toNat < 18000), low := decide (mv.toNat < 15000)
          config := f.config && decide (mv.toNat ≠ 0) }
        formed { s with fio := g } evt t
        ∧ (f.uv = false → mv.toNat < 18000 → bit (regGet t (regA fnFIO 0x40)) 1 = true)
        ∧ (f.low = false → mv.toNat < 15000 → bit (regGet t (regA fnFIO 0x40)) 2 = true))
      ∧ Gives (.fieldSupplyOk mv) s (formed { s with fio := { f with
          mv := mv.toNat, uv := f.uv && decide (mv.toNat ≤ 19000), low := decide (mv.toNat < 15000) } } evt))
    ∧ (∀ on : Bool, Gives (.fieldOutputFault on) s fun t =>
      formed { s with fio := { f with fault := on } } evt t
      ∧ (on = true → f.fault = false → f.uv = false → Flagged fnFIO 0 [] s t))
    ∧ (f.link = true → Gives .fieldLinkSilent s fun t => Reported { s with fio := { f with link := false } } t ∧ Flagged fnFIO 5 [] s t)
    ∧ (∀ mask : BitVec 16, Gives (.fieldSilence mask) s (formed { s with fio := { f with silent := f.silent ||| mask.toNat } } []))
    ∧ (s.sys.mode ≠ .md0 → s.img.live.isSome = true → Gives .fieldConfigResend s fun t =>
      formed { s with fio := { f with link := true, config := true, silent := 0 } } evt t
      ∧ Flagged fnFIO 4 [] s t ∧ t.out.head? = some (.field (linkConfig s)))
    ∧ (s.sys.mode ≠ .md0 → s.img.live = none → Gives .fieldConfigResend s fun t =>
      t = { s with out := [], fio := { f with link := true } })

/-- R451 to R453, R456, R467: the live block is formed every refresh, in MD_0 with what other functions last gave, and latched by a read that
starts at its address or by word 0; the port, which answers once the core supply has been valid and outside a reset of MON, moves its
pointer with the bytes that are read and is busy until the transaction ends; and warnings set their flags.
Choices of the model: log entries 121, 224, 284, 285. -/
def Obligations.ManagementPort : Prop :=
  ∀ (s : State), s.Inv →
    let m := s.mon
    (∀ x : Measured, Gives (.monLiveRefresh x) s fun t =>
      let up := if s.sys.mode = .md0 then m.uptime else m.uptime + 1
      let u : State := { s with mon := { m with uptime := up } }
      t = { s with out := [], mon := { m with
        uptime := up, seq := (m.seq + 1) % 256, live := liveBytes u x ((m.seq + 1) % 256), fresh := true, freshH := true } }
      ∧ (s.sys.mode = .md0 → ∀ k ∈ [3, 4, 5, 8, 9, 10, 11, 0x34, 0x35], nth 0 t.mon.live k = nth 0 m.live k))
    ∧ (m.served = true → s.frst.inReset.testBit 22 = false →
      (∀ (p : BitVec 16) (d : List Byte) (more : Bool), Gives (.mgtWriteTxn p (d, more)) s fun t =>
        t = { s with out := [], mon := { m with ptr := p.toNat, busy := more } })
      ∧ (∀ (n : Nat) (more : Bool), m.ptr ≠ 0x200 → Gives (.mgtReadTxn (n, more)) s fun t =>
        t = { s with out := [.i2c (mgtBytes s n m.ptr).1], mon := { m with ptr := (mgtBytes s n m.ptr).2, busy := more } })
      ∧ (∀ (n : Nat) (more : Bool), m.ptr = 0x200 → Gives (.mgtReadTxn (n, more)) s fun t =>
        let u : State := { s with mon := { m with lat := latchBlock m.live m.fresh, fresh := false } }
        t = { u with out := [.i2c (mgtBytes u n 0x200).1], mon := { u.mon with ptr := (mgtBytes u n 0x200).2, busy := more } })
      ∧ Gives .mgtBusTimeout s (fun t => Reported { s with mon := { m with busy := false } } t ∧ Flagged fnMON 2 [] s t))
    ∧ ((m.served = false ∨ s.frst.inReset.testBit 22 = true) → ∀ (p : BitVec 16) (d : List Byte × Bool) (n : Nat × Bool),
      ∀ c ∈ [Instr.mgtWriteTxn p d, .mgtReadTxn n, .mgtBusTimeout], Gives c s fun t => t = { s with out := [] })
    ∧ (∀ (pf : Pf) (w : Fin 32), pfAnswers s pf = true → windowOpen s fnMON = true → Gives (.monLiveRead pf w) s fun t =>
      let u : State := if w.val = 0 then { s with mon := { m with latH := latchBlock m.live m.freshH, freshH := false } } else s
      t = { u with out := [], rdata := at_ (leAt u.mon.latH (4 * w.val) 4) 0 })
    ∧ (∀ r : Fin 12, Gives (.supplyWarn r) s fun t => Reported s t ∧ Flagged fnMON 0 [] s t)
    ∧ (∀ d : Fin 4, Gives (.tempWarn d) s fun t => Reported s t ∧ Flagged fnMON 1 [] s t)

/-! ### Redundancy (chapter 12) -/

/-- R340, R344, R345: what the observations of a unit call for changes redundancy alone, its flags, the epoch in the peat store and, through a
block and release, the mode controller, but not the mode; a claim that may not go on yields and keeps its increment, and the converters
and chains that a claim powered up in MD_3 go down with it.
Choices of the model: log entries 62, 84, 92, 265, 266. -/
def Obligations.RedundancyRulesFrame : Prop :=
  ∀ s0 s : State, s.Inv →
    let t := redEval s0 s
    Reported { s with
      red := t.red, sys := t.sys, adc := t.adc, mem := { s.mem with parity := t.mem.parity }
      peat := if t.peat.epoch = s.peat.epoch then s.peat else peatPost { s.peat with epoch := t.peat.epoch } [.epoch] } t
    ∧ (s.sys.mode ≠ .md3 → t.adc = s.adc ∧ t.mem.parity = s.mem.parity ∧ RegsBut [regA fnRED 0x40, regA fnRKS 0x40] s t)
    ∧ (∀ a, a < 0x110000 ∨ 0x130000 ≤ a → a ≠ regA fnRED 0x40 → a ≠ regA fnRKS 0x40 → regGet t a = regGet s a)
    ∧ t.sys.mode = s.sys.mode
    ∧ (redUp s = true → s.red.state = .claiming →
        ((s.red.tknIn = true ∧ preferred s = false) ∨ partnerShows s 3 = true ∨ partnerShows s 4 = true ∨ healthy s = false) →
        t.red.state = .standby ∧ t.red.epoch = s.red.eNew ∧ bit (regGet t (regA fnRED 0x40)) 6 = true)
    ∧ (redUp s = true → s.red.state = .claiming → ¬ (s.red.tknIn = true ∧ preferred s = false) → partnerShows s 3 = false →
        partnerShows s 4 = false → healthy s = true → t.red.state = .claiming ∧ t.peat = s.peat ∧ t.sys = s.sys)
    ∧ (redUp s = false → t.red = { s.red with hbkReq := s.red.hbkReq && synced s } ∧ t.peat = s.peat ∧ t.sys = s.sys)

/-- R97, R341 to R344, R349, R350: what the partner sends and the token line are kept, a heartbeat with its time transfer, a slot report and the
chunks of a snapshot; their loss is counted; and after each the observations are judged.
Choices of the model: log entries 84, 211, 212, 268. -/
def Obligations.PartnerFrames : Prop :=
  ∀ (s : State), s.Inv →
    let r := s.red
    let s0 : State := { s with out := [] }
    let judged (x : State) (l : List Nat) (t : State) : Prop := ∃ u, Becomes x l s u ∧ t = redEval s0 u
    (partnerIn s = true →
      (∀ (bytes : List Byte) (arr : Nat) (p : List Byte), partnerPayload 1 72 bytes = some p → hbAgain s (hbParse p) = false →
        Gives (.heartbeatRx bytes arr) s fun t =>
          let hb := hbParse p
          t.red.hb = some hb ∧ t.red.hbHere = true ∧ t.red.pstate = hb.state.toNat % 8 ∧ t.red.epochP = hb.epoch.toNat
          ∧ (∀ b, b < 4 → nth none t.tim.pofs b = some ((ofTime96 (nth 0 hb.tb b).toNat : Int) + partnerDelay s - arr))
          ∧ Reported { s with
              red := t.red, sys := t.sys, sa := t.sa, adc := t.adc, mem := { s.mem with parity := t.mem.parity }
              peat := if t.peat.epoch = s.peat.epoch then s.peat else peatPost { s.peat with epoch := t.peat.epoch } [.epoch]
              tim := { s.tim with pofs := t.tim.pofs, ptrace := hb.trace.toNat % 16 } } t
          ∧ (s.sys.mode ≠ .md3 → t.adc = s.adc ∧ RegsBut [regA fnRED 0x40, regA fnRKS 0x40] s t))
      ∧ (∀ (bytes : List Byte) (arr : Nat) (p : List Byte), partnerPayload 1 72 bytes = some p → hbAgain s (hbParse p) = true →
        Gives (.heartbeatRx bytes arr) s fun t => t = { s with out := [] })
      ∧ (∀ (bytes : List Byte) (p : List Byte), partnerPayload 3 52 bytes = some p → Gives (.slotReportRx bytes) s fun t =>
        t = { s with out := [], red := { r with slotRep := some ⟨(leAt p 1 1).testBit 0, (leAt p 1 1).testBit 1, (leAt p 1 1).testBit 2,
          BitVec.ofNat 384 (leAt p 4 48)⟩ } })
      ∧ (∀ c : SnapChunk, r.state ≠ .holder → r.snap.map (·.seq) ≠ some c.seq.toNat →
        let put (rx : Tab (List Byte)) (d : List Byte) := tabSet [] rx c.chunk d
        let bit16 := 2 ^ c.chunk.val
        (c.seq.toNat = r.rxSeq → r.rx.any (fun x => x.1 = c.chunk.val) = false → chunkData c = none →
          Gives (.snapChunkRx c) s (judged { s with red := { r with nak := r.nak ||| bit16 } } []))
        ∧ (∀ d, chunkData c = some d → c.seq.toNat = r.rxSeq → r.rx.any (fun x => x.1 = c.chunk.val) = false → (put r.rx d).length < 16 →
          Gives (.snapChunkRx c) s (judged { s with red := { r with
            rx := put r.rx d, nak := r.nak &&& (0xFFFF - bit16), rxAge := if c.chunk.val = 0 then tickNs s else r.rxAge } } []))
        ∧ (∀ d, chunkData c = some d → c.seq.toNat ≠ r.rxSeq → (put [] d).length < 16 →
          Gives (.snapChunkRx c) s (judged { s with red := { r with
            rxSeq := c.seq.toNat, rx := put [] d, nak := 0 &&& (0xFFFF - bit16), rxAge := tickNs s } } [regA fnRED 0x40, 0xE004C]))))
    ∧ (r.hbHere = true → Gives .heartbeatLoss s fun t =>
      judged { s with red := { r with hbHere := false, gone := s.tim.loc } } [regA fnRED 0x40, 0xE004C] t
      ∧ bit (regGet t (regA fnRED 0x40)) 2 = true ∧ regF t 0xE004C 15 0 = satInc 16 (regF s 0xE004C 15 0))
    ∧ (∀ (k : Fin 16) (x : Stream), r.stream = some x → x.nakd.testBit k = true → nth 0 x.tries k < rpar s 0x0E06 →
      Gives (.snapChunkRetry k) s fun t =>
        t = { s with out := t.out, txRd := t.txRd, red := { r with
          stream := some { x with nakd := x.nakd - 2 ^ k.val, lost := x.lost || !ppUp s, tries := updNth x.tries k (· + 1) } } }
        ∧ (ppUp s = true → t.out ≠ []))
    ∧ Gives .tknIReleased s (fun t => t = redEval s0 { s0 with red := { r with tknIn := false } })
    ∧ Gives .tknIClaiming s (fun t => t = redEval s0 { s0 with red := { r with tknIn := true } })
    ∧ (tknOut s = true → r.tknFault = false → Gives .tknReadbackFault s fun t =>
      judged { s with red := { r with tknFault := true } } [regA fnRED 0x40] t ∧ bit (regGet t (regA fnRED 0x40)) 10 = true)

/-- R234, R251, R345 to R348, R355, R379: a banked standby claims, with its converters powered up, when its partner is silent or orphaned, and holds after T_G with the token line released; the
lease that lapses ends a service pulse and the snapshot in the stream, turns the port's channels off where they are under the token, and blocks and
releases; a released unit stands by again; and a restore that does not end in time blocks and releases.
R358, R361: a write of RED_CTL with its key leaves its command for the next boundary, and one without it only its status; from PF1 nothing.
Choices of the model: log entries 7, 62, 82, 83, 84, 85, 92, 213, 267, 268. -/
def Obligations.ClaimAndRelease : Prop :=
  (∀ (s : State), s.Inv →
      let r := s.red
      let blocked (t : State) : Prop := s.sys.mode.blockable = true → t.sys.blockNext = true
      (∀ e, r.state = .standby → s.sys.mode = .md3 → redUp s = true → r.tknIn = false → nextEpoch s = some e →
        let claims (t : State) : Prop := ∃ u, Reported { s with
            red := { r with state := .claiming, eNew := e, claimAt := u.red.claimAt, takeOpen := true, pwr := true, copyOk := u.red.copyOk }
            peat := peatPost { s.peat with epoch := e } [.epoch], adc := u.adc, mem := { s.mem with parity := u.mem.parity } } u
          ∧ (r.copyOk = false → u.red.copyOk = false ∧ u.mem.parity = s.mem.parity)
          ∧ (∀ a, a < 0x110000 ∨ 0x130000 ≤ a → a ≠ regA fnRKS 0x40 → regGet u a = regGet s a)
          ∧ t = redEval { s with out := [], free := s.free + 1 } u
        (r.hbHere = false → Gives .silentClaim s claims) ∧ (partnerShows s 2 = true → Gives .orphanClaim s claims))
      ∧ (r.state = .claiming → redUp s = true → r.tknIn = false → Gives .claimGuardExpire s fun t =>
        t.red.state = .holder ∧ t.red.epoch = r.eNew ∧ t.red.lease = true ∧ t.red.leaseAt = s.tim.loc
        ∧ bit (regGet t (regA fnRED 0x40)) 0 = true
        ∧ regF t 0xE0048 31 16 = satInc 16 (regF s 0xE0048 31 16)
        ∧ (s.sys.mode ≠ .md3 → Becomes { s with red := { r with
            state := .holder, epoch := r.eNew, rx := [], rxSeq := 0, nak := 0, met := 0, lease := true, leaseAt := s.tim.loc } }
            [regA fnRED 0x40, 0xE0048] s t)
        ∧ (s.sys.mode = .md3 → ⟨.claimed,
            if snapUsable t = true then (Mode.ofCode (leAt ((t.red.snap.map (·.bytes)).getD []) 0x006 1)).getD .md2 else .md2, none, 0⟩ ∈ t.sys.causes)
        ∧ (s.sys.mode = .md3 → r.snap = none → t.red.snap = none ∧ bit (regGet t (regA fnRED 0x40)) 13 = true))
      ∧ (tokenHeld s = true → r.lease = true → Gives .leaseLapse s fun t =>
        Reported { s with
          red := { r with lease := false, stream := none }, sys := t.sys
          ggd := { s.ggd with chans := t.ggd.chans }, rdl := t.rdl, rdlOld := t.rdlOld
          crd := { s.crd with svc := none, svcRes := if s.crd.svc = none then s.crd.svcRes else 3 } } t
        ∧ (ddToken s = true → ∀ n, n < 24 → (chanOf t n).state ≠ 1 ∧ (chanOf t n).state ≠ 2)
        ∧ (s.crd.svc = none → t.rdl = s.rdl ∧ t.rdlOld = s.rdlOld
          ∧ RegsBut ([regA fnRED 0x40, regA fnRKS 0x40, regA fnGGD 0x40] ++ (List.range 24).map (0xF0104 + 0x10 * ·)) s t)
        ∧ bit (regGet t (regA fnRED 0x40)) 8 = true ∧ blocked t)
      ∧ (r.state = .released → Gives .releasedTimeout s fun t =>
        ∃ u, Reported { s with adc := u.adc, red := { r with
            state := .standby, tknFault := false, gone := if r.hbHere then r.gone else s.tim.loc, pwr := r.pwr && s.sys.mode ≠ .md3 } } u
          ∧ (r.pwr = false ∨ s.sys.mode ≠ .md3 → u.adc = s.adc ∧ RegsBut [regA fnRKS 0x40] s u)
          ∧ t = redEval { s with out := [] } u)
      ∧ (r.restored = true → Gives .restoreTimeout s fun t =>
        Reported { s with red := { r with restored := false }, sys := t.sys } t ∧ Flagged fnRED 12 [] s t ∧ blocked t)
      ∧ (synced s = true → rpar s 0x0E09 = 1 → Gives .hbkRequest s fun t => t = { s with out := [], red := { r with hbkReq := true } })
      ∧ (s.sys.mode = .md3 → r.copyOk = false → rgnAllows s 3 0xE00000 (planeCopy s).length true = true →
        Gives .planeCopyRebuildDone s fun t =>
          let w := devWrite { s with out := [] } 0xE00000 (planeCopy s)
          t = redEval { s with out := [] } { w with red := { w.red with copyOk := true } }
          ∧ ∀ a, a < 0xC00000 ∨ 0xE00000 + (planeCopy s).length ≤ a → devByte t a = devByte s a))
  ∧ (∀ (s : State), pfAnswers s .pf0 = true → windowOpen s fnRED = true →
      let pends (x : Instr) (c : Nat) : Prop := Gives x s fun t => t = { s with out := [], red := { s.red with cmd := some c } }
      let refused (x : Instr) : Prop := Gives x s fun t => t = { s with out := [], red := { s.red with cmdRes := 2 } }
      pends (.redClaim .pf0 0x5245) 1 ∧ pends (.redRelease .pf0 0x5245) 2 ∧ pends (.hbkInhibit .pf0 0x5245) 3 ∧ pends (.hbkAllow .pf0 0x5245) 4
      ∧ (∀ key : BitVec 16, key ≠ 0x5245 →
        refused (.redClaim .pf0 key) ∧ refused (.redRelease .pf0 key) ∧ refused (.hbkInhibit .pf0 key) ∧ refused (.hbkAllow .pf0 key))
      ∧ (∀ key : BitVec 16, pfAnswers s .pf1 = true → Gives (.redClaim .pf1 key) s (Becomes s [] s)))

/-! ### Stoker (chapter 14) -/

/-- R388 to R393, R398, R400, R404: a ring is set up while it is off, starts empty and stops with its billets aborted; a producer index within the
ring is taken and another halts it; a billet that arrives is counted and waits on its ready list, or completes at once with the STATUS
of the check it fails; and a completed billet is written back and moves CI.
Choices of the model: log entries 18, 65, 66, 71, 215, 216. -/
def Obligations.RingsAndBillets : Prop :=
  ∀ (s : State) (r : Fin 64), s.Inv →
    let a := ringA r + 0x10
    let k := ringOf s r
    (∀ v : Word, pfAnswers s .pf0 = true → windowOpen s fnSTK = true →
      (ringOn s r = false → ∀ x ∈ [Instr.ringEnable .pf0 r v, Instr.ringDisable .pf0 r v], Gives x s fun t =>
        Becomes (if bit v 0 then updRing s r (fun k => { Ring.reset with cause := k.cause }) else s) [a] s t
        ∧ regGet t a = (regGet s a &&& ~~~0xF90001) ||| (v &&& 0xF90001))
      ∧ (ringOn s r = true → bit v 0 = true → ∀ x ∈ [Instr.ringEnable .pf0 r v, Instr.ringDisable .pf0 r v], Gives x s fun t =>
        t = { s with out := [] })
      ∧ (ringOn s r = true → bit v 0 = false → ∀ x ∈ [Instr.ringEnable .pf0 r v, Instr.ringDisable .pf0 r v], Gives x s fun t =>
        ringOn t r = false ∧ ringOf t r = ⟨0, 0, 0, [], none, true, 5⟩ ∧ (∀ j, j ≠ r.val → ringOf t j = ringOf s j)
        ∧ Becomes { s with stk := t.stk } [a, regA fnSTK 0x40] s t))
    ∧ (∀ v : Word, pfAnswers s (ringPf s r) = true → windowOpen s fnSTK = true →
      let ahead (x : Nat) : Nat := (x + 2 ^ 32 - k.ci) % 2 ^ 32
      (ahead v.toNat ≤ ringSize s r → ahead k.pi ≤ ahead v.toNat → Gives (.ringPiWrite (ringPf s r) r v) s fun t =>
        t = { updRing s r (fun k => { k with pi := v.toNat }) with out := [] })
      ∧ (¬ (ahead v.toNat ≤ ringSize s r ∧ ahead k.pi ≤ ahead v.toNat) → k.halted = false → Gives (.ringPiWrite (ringPf s r) r v) s fun t =>
        Reported (updRing s r (fun k => { k with halted := true, cause := 1 })) t ∧ Flagged fnSTK 0 [] s t))
    ∧ (mayFetch s r = false → ∀ b : Billet, Gives (.billetFetch r [b]) s fun t => t = { s with out := [], free := s.free + 1 })
    ∧ (∀ (b : Billet) (j : Item), mayFetch s r = true → b.prio.toNat < 8 →
      let i : Item := ⟨r, k.fetch, s.stk.arrNext, b.prio.toNat, false, b⟩
      let w := workerFor b
      (billetCheck s r b = 0 → b.flags.getLsbD 0 = false → b.flags.getLsbD 2 = false → (workerOf s w).service ≠ none →
        (workerOf s w).next = some j → b.prio.toNat ≤ j.prio → Gives (.billetFetch r [b]) s fun t =>
          t.stk.rings = tabUpd Ring.reset s.stk.rings r (fun k => { k with fetch := (k.fetch + 1) % 2 ^ 32 })
          ∧ t.stk.ready = tabUpd [] s.stk.ready (readyKey w b.prio.toNat) (fun l => l ++ [i])
          ∧ t.stk.arrNext = s.stk.arrNext + 1 ∧ t.stk.workers = s.stk.workers
          ∧ Becomes { s with stk := t.stk } [regA fnSTK 0x40] s t)
      ∧ (billetCheck s r b ≠ 0 → Gives (.billetFetch r [b]) s fun t =>
          Out.dma (BitVec.ofNat 64 (slotAddr s r k.fetch + 3)) [BitVec.ofNat 8 (billetCheck s r b)] ∈ t.out
          ∧ t.stk.arrNext = s.stk.arrNext + 1 ∧ Becomes { s with stk := t.stk } [regA fnSTK 0x40] s t))
    ∧ (∀ (w : Fin 12) (i : Item) (x : Result), (workerOf s w).service = some i → (workerOf s w).result = some x →
      pfMaster s (ringPf s i.ring) = true → Gives (.billetComplete w) s fun t =>
        Out.dma (BitVec.ofNat 64 (slotAddr s i.ring i.idx + 0x14)) (leBytes 4 x.outLen) ∈ t.out
        ∧ Out.dma (BitVec.ofNat 64 (slotAddr s i.ring i.idx + 3)) [BitVec.ofNat 8 x.status] ∈ t.out
        ∧ ((ringOf s i.ring).fence = none → (ringOf s i.ring).done = [] → i.idx = (ringOf s i.ring).ci →
            t.stk.rings = tabUpd Ring.reset s.stk.rings i.ring (fun k => { k with ci := (i.idx + 1) % 2 ^ 32, done := [] })
            ∧ Out.dma (BitVec.ofNat 64 (reg64 s (ringA i.ring + 8))) (leBytes 4 ((i.idx + 1) % 2 ^ 32)) ∈ t.out)
        ∧ Becomes { s with stk := t.stk } [regA fnSTK 0x40] s t)

/-- R395 to R397, R402, R405, R407 to R412, R415, R417, R420, R431 to R434: the operations of the workers, each on the billet in SERVICE that
has no outcome yet: what leaves, what is written and the outcome.
Choices of the model: log entries 7, 53, 55, 64, 67, 68, 69, 70, 71, 72, 216, 217, 221, 269. -/
def Obligations.WorkerOperations : Prop :=
  ∀ (s : State) (i : Item), s.Inv →
    let at0 (w op : Nat) : Prop := (workerOf s w).service = some i ∧ (workerOf s w).result = none ∧ opOf i.b = op ∧ s.clk.state = 2
    let outcome (w : Nat) (x : Result) : State := updWorker s w (fun k => { k with result := some x })
    let dma (addr : Nat) (bs : List Byte) : List Out := if pfMaster s (ringPf s i.ring) then [.dma (BitVec.ofNat 64 addr) bs] else []
    let len := i.b.len.toNat
    let a := argOf i.b 0
    let host := i.b.addr.toNat
    let s0 : State := { s with out := [] }
    (s.clk.state ≠ 2 → ∀ x ∈ [Instr.nop, .evlogRead, .ethTx 0 [], .ethTx 1 [], .ethRxPost 0, .ethRxPost 1, .memRead, .memWrite [], .ptsRead,
        .peekBatch [], .peekBatchTimeout, .hash [], .attest, .traceRead], Gives x s fun t => t = s0)
    ∧ (at0 10 0x00 → Gives .nop s fun t => t = { outcome 10 ⟨1, 0, 0, 0⟩ with out := [] })
    ∧ (at0 0 0x01 → rickOff s logBase 0x100000 = false → rgnAllows s 5 logBase 0x100000 false = true →
      let cap := len / 32
      let back := (s.log.next + 2 ^ 32 - a) % 2 ^ 32
      let lost := back - logHeld s.log
      let n := min cap (min back (logHeld s.log))
      back < 2 ^ 31 → Gives .evlogRead s fun t =>
        let (r, u) := logRead s0 ((a + lost) % 2 ^ 32 % 32768) n
        (∀ st, r = .inl st → Reported { outcome 0 ⟨7, 0, 0, 0⟩ with mem := { s.mem with parity := satInc 16 s.mem.parity } } t
          ∧ bit (regGet t (regA fnRKS 0x40)) 0 = true)
        ∧ (∀ bs, r = .inr bs → t = { outcome 0 ⟨if n < cap then 9 else 1, 32 * n, (a + lost + n) % 2 ^ 32, lost⟩ with
          free := u.free
          out := dma host ((List.range n).flatMap (fun j => devRead s (logBase + 32 * (((a + lost) % 2 ^ 32 + j) % 32768)) 32)) }))
    ∧ (∀ (p : Fin 2) (f : List Byte), at0 (1 + p) 0x02 → ethUp s p = true → Gives (.ethTx p f) s fun t =>
      let x := (workerOf t (1 + p)).result.getD ⟨0, 0, 0, 0⟩
      t = { outcome (1 + p) ⟨1, 0, x.res0, x.res1⟩ with out := [.eth p (padTo len f)], free := s.free + 1 })
    ∧ (∀ p : Fin 2, at0 (3 + p) 0x03 → Gives (.ethRxPost p) s fun t =>
      t.stk.posts = s.stk.posts ++ [(p.val, i)] ∧ Becomes { s with stk := t.stk } [regA fnSTK 0x40] s t)
    ∧ (∀ (p : Fin 2) (f : List Byte), (ethUp s p = false ∨ 1522 < f.length) → Gives (.ethRxFrame p f) s fun t => t = s0)
    ∧ (∀ (p : Fin 2) (f : List Byte), ethUp s p = true → f.length ≤ 1522 →
      ((postTake p s.stk.posts).1 = none → Gives (.ethRxFrame p f) s fun t => Reported s t ∧ Flagged fnSTK 1 [0x50050] s t)
      ∧ ((postTake p s.stk.posts).1 = some i → pfMaster s (ringPf s i.ring) = true → Gives (.ethRxFrame p f) s fun t =>
        t.stk.posts = (postTake p s.stk.posts).2
        ∧ (f.length ≤ len → Out.dma (BitVec.ofNat 64 host) f ∈ t.out)
        ∧ Out.dma (BitVec.ofNat 64 (slotAddr s i.ring i.idx + 3)) [if f.length ≤ len then 1 else 10] ∈ t.out
        ∧ Becomes { s with stk := t.stk } [regA fnSTK 0x40] s t))
    ∧ (at0 10 0x04 →
      let m := stkMaster (ringPf s i.ring)
      (rgnAllows s m a len false = true → a < 0x10000000 → rickOff s a len = false → Gives .memRead s fun t =>
        if len ≠ 0 ∧ (freshBelow s 2).1 = 1 then
          Reported { outcome 10 ⟨7, 0, 0, 0⟩ with mem := { s.mem with parity := satInc 16 s.mem.parity } } t ∧ bit (regGet t (regA fnRKS 0x40)) 0 = true
        else t = { outcome 10 ⟨1, len, 0, 0⟩ with out := dma host (devRead s a len), free := t.free })
      ∧ (rgnAllows s m a len false = true → 0x10000000 ≤ a → s.mem.blkReady = true → rickOff s a len = false → Gives .memRead s fun t =>
        let groups := (List.range ((a + len + 7) / 8 - a / 8)).map (a / 8 + ·)
        let has (c g : Nat) : Bool := Config.groupState s.free g % 3 = c
        let ue := groups.filter (has 2)
        let bs := (devRead s a len).zipIdx.map (fun x => if ue.contains ((a + x.2) / 8) then Config.errByte s.free (a + x.2) else x.1)
        Becomes { outcome 10 ⟨1, len, ue.length, 0⟩ with
          mem := { s.mem with ueAddr := (ue.getLast?.map (fun g => BitVec.ofNat 32 (8 * g))).getD s.mem.ueAddr } } [0x70018, regA fnBLK 0x40] s t
        ∧ (∀ o ∈ dma host bs, o ∈ t.out)
        ∧ regF t 0x70018 15 0 = min (2 ^ 16 - 1) (regF s 0x70018 15 0 + (groups.filter (has 1)).length)
        ∧ regF t 0x70018 31 16 = min (2 ^ 16 - 1) (regF s 0x70018 31 16 + ue.length)
        ∧ (groups.any (has 1) = true → bit (regGet t (regA fnBLK 0x40)) 0 = true) ∧ (ue ≠ [] → bit (regGet t (regA fnBLK 0x40)) 1 = true))
      ∧ (rgnAllows s m a len false = true → 0x10000000 ≤ a → s.mem.blkReady = false → Gives .memRead s fun t => t = s0)
      ∧ (rgnAllows s m a len false = false → Gives .memRead s fun t =>
        Reported (outcome 10 ⟨6, 0, 0, 0⟩) t ∧ bit (regGet t (regA fnRKS 0x40)) 2 = true)
      ∧ (rgnAllows s m a len false = true → a < 0x10000000 → rickOff s a len = true → Gives .memRead s fun t =>
        Reported (outcome 10 ⟨7, 0, 0, 0⟩) t ∧ bit (regGet t (regA fnRKS 0x40)) 1 = true))
    ∧ (∀ data : List Byte, at0 10 0x05 → rgnAllows s (stkMaster (ringPf s i.ring)) a len true = true →
      (a < 0x10000000 ∨ s.mem.blkReady = true) → rickOff s a len = false → Gives (.memWrite data) s fun t =>
        let x := outcome 10 ⟨1, 0, 0, 0⟩
        (a < 0x10000000 → t = { x with out := [], mem := { s.mem with dev := t.mem.dev }, log := { s.log with ring := t.log.ring } })
        ∧ (0x10000000 ≤ a → Becomes { x with mem := { s.mem with dev := t.mem.dev, ueAddr := t.mem.ueAddr } } [0x70018, regA fnBLK 0x40] s t
          ∧ (a % 8 = 0 → len % 8 = 0 → t.mem.ueAddr = s.mem.ueAddr ∧ t.regs = s.regs ∧ t.out = []))
        ∧ (a + len ≤ logBase ∨ logBase + 0x100000 ≤ a →
            (∀ j, j < len → devByte t (a + j) = (padTo len data).getD j 0)
            ∧ (∀ b, b < a ∨ a + len ≤ b → b < logBase ∨ logBase + 0x100000 ≤ b → devByte t b = devByte s b)))
    ∧ (at0 6 0x06 → Gives .ptsRead s fun t => t = { outcome 6 ⟨1, len, 0, 0⟩ with out := dma host (peatRead s a len), free := s.free + 1 })
    ∧ (∀ ids : List (BitVec 16), at0 9 0x07 → (workerOf s 9).want = [] → Gives (.peekBatch ids) s fun t =>
      t = { updWorker s 9 (fun k => { k with
        want := ids.take (len / 2) ++ List.replicate (len / 2 - ids.length) 0, caught := [], since := s.sys.tickCnt }) with out := [] })
    ∧ (at0 9 0x07 → (workerOf s 9).want ≠ [] → (workerOf s 9).since + 1000 ≤ s.sys.tickCnt → Gives .peekBatchTimeout s fun t =>
      let k := workerOf s 9
      Reported (outcome 9 ⟨if k.caught.length < k.want.length then 9 else 1, 0, 0, 0⟩) t
      ∧ t.regs = s.regs ∧ (pfMaster s (ringPf s i.ring) = true → t.out.length = 1))
    ∧ (∀ data : List Byte, at0 11 0x08 →
      (a = 0 → Gives (.hash data) s fun t => t = { outcome 11 ⟨1, 0, crc32c (padTo len data), 0⟩ with out := [] })
      ∧ (a ≠ 0 → Gives (.hash data) s fun t => t = { outcome 11 ⟨1, 0, 0, 0⟩ with
          out := dma (argOf i.b 1 + argOf i.b 2 * 2 ^ 32) (sha384 (padTo len data)) }))
    ∧ (at0 7 0x09 →
      let room : Prop := rgnAllows s 4 0xD00000 0x100000 true = true ∧ rickOff s 0xD00000 0x100000 = false
      (s.peat.leaf < lmsLeaves → s.sec.attWait = 0 → ¬ room → Gives .attest s fun t =>
        ∃ st, (st = 6 ∨ st = 7) ∧ Reported (outcome 7 ⟨st, 0, 0, 0⟩) t)
      ∧ (s.peat.leaf < lmsLeaves → s.sec.attWait = 0 → room → Gives .attest s fun t =>
        Becomes { outcome 7 ⟨1, 2608, 0, 0⟩ with
          peat := { recPut { s.peat with leaf := s.peat.leaf + 1, reports := s.peat.reports + 1 } .lmsLeaf with
            wears := t.peat.wears, wear := t.peat.wear }
          sec := { s.sec with attWait := 10000000000 }
          mem := { s.mem with dev := s.mem.dev.filter (fun x => x.1 < 0xD00000 || 0xE00000 ≤ x.1) } } [regA fnSEC 0x40, regA fnPTS 0x40] s t)
      ∧ (lmsLeaves ≤ s.peat.leaf → Gives .attest s fun t => t = { outcome 7 ⟨1, 0, 2, 0⟩ with out := [] })
      ∧ (s.peat.leaf < lmsLeaves → s.sec.attWait ≠ 0 → Gives .attest s fun t =>
        t = { outcome 7 ⟨1, 0, 1, (s.sec.attWait + 999999) / 1000000⟩ with out := [] }))
    ∧ (at0 8 0x0A →
      let n := min (len / 16) (if s.stk.trHeld = 65536 then (s.stk.trNext + 65535 - a) % 65536 + 1 else if a < s.stk.trNext then s.stk.trNext - a else 0)
      Gives .traceRead s fun t => t = { outcome 8 ⟨1, 16 * n, (a + n) % 65536, 0⟩ with
        out := dma host ((List.range n).flatMap (fun j => leBytes 16 (tabGet 0 s.stk.trace ((a + j) % 65536)).toNat)) })
    ∧ (∀ v : Word, pfAnswers s .pf0 = true → windowOpen s fnSTK = true → Gives (.traceClear .pf0 v) s fun t =>
      Becomes (if bit v 3 then { s with stk := { s.stk with trace := [], trNext := 0, trHeld := 0 } } else s) [0x50100] s t
      ∧ regF t 0x50100 1 0 = field v 1 0)

/-! ### Charge images (chapter 3) -/

/-- R85, R88, R89, R91, R92, R97: a write of SEC_IMG_CTL without its key, during another command, outside the modes of R89 or aimed at a
slot in use is refused with its STATUS and changes no slot; LOAD and ERASE empty their slot at once; what a LOAD brings is stored where it
verifies, and the slot stays empty where it does not; ABORT ends the command in progress; BOOT_NEXT names the slot of the next boot.
Choices of the model: log entries 46, 91, 127, 271. -/
def Obligations.ImageSlots : Prop :=
  ∀ (s : State) (slot : Fin 2) (key : BitVec 16), pfAnswers s .pf0 = true → windowOpen s fnSEC = true →
    let starts : List Instr := [.imgLoad .pf0 key slot, .imgErase .pf0 key slot, .imgBootNext .pf0 key slot]
    let stat (st : Nat) : State := { s with out := [], sec := { s.sec with imgStatus := st } }
    let named (st : Nat) : State := { s with out := [], sec := { s.sec with imgStatus := st, imgSlot := slot } }
    let busy : Prop := s.sec.imgState ≠ 0 ∨ s.sec.ucLoading.isSome = true
    let held : Prop := slotActive s slot = true ∨ slotStaged s slot = true
    let put (x : ImgSlot) (k : Nat) : Peat := peatPost { s.peat with slots := setNth s.peat.slots k x } [.slotState]
    let empty (len : Nat) : Peat := peatJob (put ImgSlot.empty slot) ⟨.imageLine, slot, 0, (len + 63) / 64, []⟩
    let idle (x : State) (st : Nat) (t : State) : Prop := Becomes
      { x with sec := { x.sec with imgStatus := st, imgState := 0 }, stk := t.stk, peat := peatDrop x.peat .imageLine } [regA fnSTK 0x40, regA fnHIF 0x40] s t
    (key ≠ 0x494D → ∀ x ∈ starts ++ [.imgAbort .pf0 key], Gives x s fun t => t = stat 21)
    ∧ (key = 0x494D → busy → ∀ x ∈ starts, Gives x s fun t => t = stat 1)
    ∧ (key = 0x494D → ¬ busy → secMode s.sys.mode = false → ∀ x ∈ starts, Gives x s fun t => t = named 16)
    ∧ (key = 0x494D → ¬ busy → secMode s.sys.mode = true →
      (held → ∀ x ∈ [Instr.imgLoad .pf0 key slot, Instr.imgErase .pf0 key slot], Gives x s fun t => t = named 13)
      ∧ (¬ held → Gives (.imgLoad .pf0 key slot) s fun t =>
        t = { named 1 with
          peat := empty (regF s 0x90110 23 0), red := { s.red with repDue := true }
          sec := { s.sec with imgStatus := 1, imgSlot := slot, imgState := 1, imgKib := 0, imgLen := regF s 0x90110 23 0 } })
      ∧ (¬ held → Gives (.imgErase .pf0 key slot) s fun t =>
        t = { named 1 with
          peat := empty 0x800000, red := { s.red with repDue := true }, sec := { s.sec with imgStatus := 1, imgSlot := slot, imgState := 3 } })
      ∧ Gives (.imgBootNext .pf0 key slot) s fun t =>
        t = if (imgSlotOf s slot).valid then { named 2 with peat := peatPost { s.peat with bootSlot := slot.val } [.bootSel] } else named 13)
    ∧ (key = 0x494D → Gives (.imgAbort .pf0 key) s fun t =>
      if s.sec.imgState = 0 then t = { s with out := [] } else idle s 19 t)
    ∧ Gives .imgEraseDone s (fun t => if s.sec.imgState = 3 ∧ s.clk.state = 2 then idle s 2 t else t = { s with out := [] })
    ∧ (∀ bytes : List Byte,
      let loading : Prop := (s.sec.imgState = 1 ∨ s.sec.imgState = 2) ∧ s.clk.state = 2
      let room : Prop := rgnAllows s 4 0xD00000 0x100000 true = true ∧ rickOff s 0xD00000 0x100000 = false
      let full : Sec := { s.sec with imgKib := s.sec.imgLen / 1024 }
      (¬ loading → ∀ ok, Gives (.imgLoadDone ok bytes) s fun t => t = { s with out := [] })
      ∧ (loading → Gives (.imgLoadDone false bytes) s fun t => idle s 22 t ∧ bit (regGet t (regA fnHIF 0x40)) 3 = true)
      ∧ (loading → ¬ room → Gives (.imgLoadDone true bytes) s fun t =>
        idle { s with sec := full } 22 t)
      ∧ (loading → room → Gives (.imgLoadDone true bytes) s fun t =>
        let bs := padTo s.sec.imgLen bytes
        let st := imgCheck s s.sec.imgSlot bs s.sec.imgLen
        let u : State := { s with
          sec := full
          mem := { s.mem with dev := s.mem.dev.filter (fun x => x.1 < 0xD00000 || 0xE00000 ≤ x.1) } }
        idle (if st = 2 then { u with
          red := { s.red with repDue := true }, peat := put ⟨bs, true, false⟩ s.sec.imgSlot } else u) st t))

/-- R90, R92 to R94, R96: a write of FAB_IMG_CTL without its key, during a STAGE or COMMIT, outside its modes or without what it needs is
refused with its STATUS; STAGE loads the idle plane and matches its named nodes with those in force; UNSTAGE empties it; COMMIT waits for
the vote of the next boundary; and CONFIRM marks the active slot and advances the image's anti-rollback counter to its build.
Choices of the model: log entries 45, 127, 129, 130, 132. -/
def Obligations.FabricImages : Prop :=
  ∀ (s : State) (slot : Fin 2) (solo : Bool) (key : BitVec 16), pfAnswers s .pf0 = true → windowOpen s fnFAB = true →
    let stat (st : Nat) : State := { s with out := [], img := { s.img with status := st } }
    let busy : Prop := s.img.state = 1 ∨ s.img.state = 3
    (key ≠ 0x5357 → ∀ x ∈ [Instr.imgStage .pf0 key slot, .imgUnstage .pf0 key, .imgCommit .pf0 key solo, .imgConfirm .pf0 key],
      Gives x s fun t => t = stat 21)
    ∧ (key = 0x5357 → busy → ∀ x ∈ [Instr.imgStage .pf0 key slot, .imgUnstage .pf0 key], Gives x s fun t => t = stat 1)
    ∧ (key = 0x5357 → busy → Gives (.imgCommit .pf0 key solo) s (Becomes (stat 1) [] s))
    ∧ (key = 0x5357 → ¬ busy →
      Gives (.imgStage .pf0 key slot) s (fun t => t =
        if stageMode s.sys.mode = false then stat 16
        else if (imgSlotOf s slot).valid = false then stat 13
        else { stat 1 with
          img := { s.img with state := 1, status := 1, stSlot := slot.val, other := none }, red := { s.red with repDue := true } })
      ∧ Gives (.imgUnstage .pf0 key) s (fun t =>
        t = { stat 2 with img := { s.img with state := 0, status := 2 }, red := { s.red with repDue := true } })
      ∧ Gives (.imgCommit .pf0 key solo) s (fun t =>
        if commitMode s.sys.mode = false ∨ s.sys.trans.isSome = true then Becomes (stat 16) [] s t
        else if s.img.state ≠ 2 then Becomes (stat 18) [] s t
        else t = { stat 1 with img := { s.img with state := 3, status := 1, commit := some solo } }))
    ∧ (key = 0x5357 →
      (s.img.live = none → Gives (.imgConfirm .pf0 key) s fun t => t = stat 16)
      ∧ (∀ i, s.img.live = some i → Gives (.imgConfirm .pf0 key) s fun t =>
        let p := peatPost { s.peat with slots := updNth s.peat.slots s.sec.active (fun x => { x with confirmed := true }) } [.slotState]
        if tabGet 0 s.peat.arc i.arc < i.build then
          Becomes { stat 2 with peat := { recPut (arcPut p i.arc i.build) .arc with wears := t.peat.wears, wear := t.peat.wear } } [regA fnPTS 0x40] s t
          ∧ tabGet 0 t.peat.arc i.arc = min i.build (2 ^ 32 - 1)
        else t = { stat 2 with peat := p }))
    ∧ (s.img.state ≠ 1 → Gives .imgStageDone s fun t => t = { s with out := [] })
    ∧ (s.img.state = 1 → Gives .imgStageDone s fun t =>
      let new := readImage s.img.stSlot (imgSlotOf s s.img.stSlot).bytes
      let old := namedNodes (imgOf s)
      let like (x : List Byte × NodeRec) : Option NodeRec := (old.find? (fun y => y.1 = x.1)).map (·.2)
      let moved := ((namedNodes new).filter (fun x =>
        (like x).any (fun o => decide (o.type = x.2.type) && decide (o.sub = x.2.sub)))).length
      let met := ((namedNodes new).filter (fun x => (like x).isSome)).length
      t = { s with
        out := [], red := { s.red with repDue := true }
        img := { s.img with state := 2, status := 2, other := some new, moved := moved, soft := new.nodes.length - moved
                            drop := (imgOf s).nodes.length - met } })

/-! ### Memory and security (chapter 15) -/

/-- R421, R423 to R426: a line that was written takes its record's new content, and one that fails is counted retired; an anti-rollback
counter is asked only forward, for a free index, in the modes of R424; and a key record changes the table only where its fields and its
signatures are right and an entry stays.
Choices of the model: log entries 53, 55, 57, 58, 60, 61, 62, 218, 257, 261. -/
def Obligations.PeatStoreAndKeys : Prop :=
  ∀ (s : State), s.Inv →
    let s0 : State := { s with out := [] }
    let clear : Mem := { s.mem with dev := s.mem.dev.filter (fun x => x.1 < 0xD00000 || 0xE00000 ≤ x.1) }
    ((∀ kind ok, s.sys.mode = .md0 ∨ s.clk.state ≠ 2 ∨ s.peat.banks.find? (fun l => l.kind = kind) = none →
        Gives (.peatLineWriteDone kind ok) s fun t => t = s0)
      ∧ (∀ kind, s.sys.mode ≠ .md0 → s.clk.state = 2 → ∀ l, s.peat.banks.find? (fun l => l.kind = kind) = some l →
        let w := tabGet 0 s.peat.wears (lineNum s.peat l) + 1
        let worn : Peat := { s.peat with wears := tabSet 0 s.peat.wears (lineNum s.peat l) w, wear := max s.peat.wear w }
        let ends (x : State) (t : State) : Prop := ∃ u, Becomes x [regA fnPTS 0x40, 0x80048] s u ∧ t = redEval s0 u
          ∧ (w = 900000001 → bit (regGet u (regA fnPTS 0x40)) 2 = true)
        let stored (p : Peat) : Peat := bankFill { lineStore p l with banks := p.banks.erase l }
        Gives (.peatLineWriteDone kind false) s (fun t =>
          let p : Peat := { worn with retired := s.peat.retired + 1 }
          let q : Peat := if peatGroups kind = 0 then p else groupUpd p kind l.group (fun x => x.retire)
          let lost : Bool := kind = .epoch && s.peat.epochOk && (recRead q .epoch).isNone
          ends { s with peat := { q with epochOk := s.peat.epochOk && !lost } } t
          ∧ ∃ u, t = redEval s0 u ∧ regF u 0x80048 31 0 = satInc 32 (regF s 0x80048 31 0) ∧ bit (regGet u (regA fnPTS 0x40)) 0 = true
            ∧ (lost = true → bit (regGet u (regA fnPTS 0x40)) 1 = true))
        ∧ (kind = .epoch → Gives (.peatLineWriteDone kind true) s (ends { s with peat := stored { worn with epochOk := true } }))
        ∧ (kind = .calibration → Gives (.peatLineWriteDone kind true) s (ends { s with
            peat := stored { worn with calib := calPut s.peat.calib s.adc.cal.save }
            adc := { s.adc with cal := { s.adc.cal with save := [] } } }))
        ∧ (kind = .arc → Gives (.peatLineWriteDone kind true) s fun t =>
            let p := stored (match s.sec.arcPend with
              | some (n, v) => if tabGet 0 s.peat.arc n < v then { worn with arc := tabSet 0 s.peat.arc n (min v (2 ^ 32 - 1)) } else worn
              | none => worn)
            ends { s with
              peat := p
              sec := { s.sec with arcPend := none, arcRes := if s.sec.arcRes = 1 ∧ peatIdle p .arc = true then 2 else s.sec.arcRes } } t)
        ∧ (kind ∉ [PeatKind.epoch, .calibration, .arc] → Gives (.peatLineWriteDone kind true) s (ends { s with peat := stored worn }))))
    ∧ (∀ (key : BitVec 16) (idx : Fin 64), pfAnswers s .pf0 = true → windowOpen s fnSEC = true →
      let v := (regGet s 0x90024).toNat
      Gives (.arcAdvance .pf0 key idx) s fun t => t =
        if s.sec.arcRes = 1 then s0
        else if key ≠ 0x4143 then { s0 with sec := { s.sec with arcRes := 3 } }
        else if s.sys.mode ∉ [Mode.md2, .md10, .md11] then { s0 with sec := { s.sec with arcRes := 4 } }
        else if idx.val < 8 ∨ v ≤ tabGet 0 s.peat.arc idx.val then { s0 with sec := { s.sec with arcRes := 5 } }
        else { s0 with sec := { s.sec with arcRes := 1, arcPend := some (idx.val, v) }, peat := peatPost s.peat [.arc] })
    ∧ (∀ (key : BitVec 16) (ok : Bool) (bytes : List Byte), pfAnswers s .pf0 = true → windowOpen s fnSEC = true →
      let bs := padTo 2304 bytes
      let room : Prop := rgnAllows s 4 0xD00000 0x100000 true = true ∧ rickOff s 0xD00000 0x100000 = false
      let keyed (t : State) (bs : List Byte) : Peat := { recPut { s.peat with
        keys := keyTableAfter s.peat.keys bs, arc := tabSet 0 s.peat.arc 2 (min (tabGet 0 s.peat.arc 2 + 1) (2 ^ 32 - 1)) } .arc with
        wears := t.peat.wears, wear := t.peat.wear }
      let res (st : Nat) (m : Mem) (t : State) : Prop := t = { s0 with mem := m, sec := { s.sec with keyRes := st } }
      (key ≠ 0x4B59 → Gives (.keyApply .pf0 key ok bytes) s (res 3 s.mem))
      ∧ (s.sys.mode ∉ [Mode.md2, .md10, .md11] → Gives (.keyApply .pf0 0x4B59 ok bytes) s (res 4 s.mem))
      ∧ (s.sys.mode ∈ [Mode.md2, .md10, .md11] →
        Gives (.keyApply .pf0 0x4B59 false bytes) s (fun t =>
          Becomes { s with sec := { s.sec with keyRes := 8 } } [regA fnHIF 0x40] s t ∧ bit (regGet t (regA fnHIF 0x40)) 3 = true)
        ∧ (¬ room → Gives (.keyApply .pf0 0x4B59 true bytes) s (Becomes { s with sec := { s.sec with keyRes := 8 } } [] s))
        ∧ (room → Gives (.keyApply .pf0 0x4B59 true bytes) s fun t =>
          if keyRecordOk s bs = false then res 5 clear t
          else if keySigned s bs = false then res 6 clear t
          else if keyTableAfter s.peat.keys bs = [] then res 5 clear t
          else Becomes { s with
              mem := clear, sec := { s.sec with keyRes := 2 }, peat := keyed t bs }
              [regA fnSEC 0x40, regA fnPTS 0x40] s t
            ∧ bit (regGet t (regA fnSEC 0x40)) 1 = true)))

/-- R427 to R429: microcode is loaded into the slot that does not run, booted next only where it is valid and confirmed by its counter;
recovery is taken only in the halted MD_1, one command at a time, and boots next what it loaded where that verifies; ENROLL takes the
first key of an empty table; RESTART lets Kindle start again.
Choices of the model: log entries 51, 52, 53, 58, 59, 271. -/
def Obligations.MicrocodeAndRecovery : Prop :=
  ∀ (s : State) (slot : Fin 2) (key : BitVec 16), pfAnswers s .pf0 = true → windowOpen s fnSEC = true →
    let s0 : State := { s with out := [] }
    let uc (st : Nat) : State := { s0 with sec := { s.sec with ucStat := st } }
    let rcv (st : Nat) : State := { s0 with sec := { s.sec with rcvRes := st } }
    let len := regF s 0x90110 23 0
    let clear : Mem := { s.mem with dev := s.mem.dev.filter (fun x => x.1 < 0xD00000 || 0xE00000 ≤ x.1) }
    let ends (x : State) (t : State) : Prop :=
      Becomes { x with stk := t.stk, peat := peatDrop x.peat .imageLine } [regA fnSTK 0x40, regA fnHIF 0x40] s t
    let lines (p : Peat) (k : Nat) : Peat := peatJob (peatPost p [.slotState]) ⟨.imageLine, k, 0, (len + 63) / 64, []⟩
    let room : Prop := rgnAllows s 4 0xD00000 0x100000 true = true ∧ rickOff s 0xD00000 0x100000 = false
    let raised (p : Peat) (n v : Nat) (x : State) (t : State) : Prop :=
      if tabGet 0 s.peat.arc n < v then
        Becomes { x with peat := { recPut (arcPut p n v) .arc with wears := t.peat.wears, wear := t.peat.wear } } [regA fnPTS 0x40] s t
      else t = { x with peat := p }
    let ucCmds : List Instr := [.ucLoad .pf0 key slot, .ucBootNext .pf0 key slot, .ucConfirm .pf0 key]
    let rcvCmds : List Instr := [.loadImage .pf0 key slot, .loadUcode .pf0 key slot, .restart .pf0 key, .enroll .pf0 key true [], .enroll .pf0 key false []]
    let booted (p : Peat) (x : ImgSlot) (image : Bool) (k : Nat) : Peat :=
      if image then peatPost { peatPost { p with slots := setNth p.slots k x } [.slotState] with bootSlot := k } [.bootSel]
      else peatPost { peatPost { p with uc := setNth p.uc k x } [.slotState] with bootUc := k } [.bootSel]
    (key ≠ 0x5543 → ∀ x ∈ ucCmds, Gives x s fun t => t = uc 3)
    ∧ (key = 0x5543 → s.sec.ucLoading.isSome = true → ∀ x ∈ ucCmds, Gives x s fun t => t = uc 1)
    ∧ (key = 0x5543 → s.sec.ucLoading = none →
      Gives (.ucLoad .pf0 key slot) s (fun t => t =
        if s.sec.imgState ≠ 0 ∨ s.sec.rcv.isSome = true then uc 1
        else if secMode s.sys.mode = false then uc 4
        else if slot.val = s.sec.ucSlot then uc 7
        else { uc 1 with
          peat := lines { s.peat with uc := setNth s.peat.uc slot ImgSlot.empty } (2 + slot)
          sec := { s.sec with ucStat := 1, ucLoading := some slot.val, imgLen := len } })
      ∧ Gives (.ucBootNext .pf0 key slot) s (fun t => t =
        if secMode s.sys.mode = false then uc 4
        else if (ucSlotOf s slot).valid = false then uc 7
        else { uc 2 with peat := peatPost { s.peat with bootUc := slot.val } [.bootSel] })
      ∧ Gives (.ucConfirm .pf0 key) s (fun t =>
        let v := leAt (ucSlotOf s s.sec.ucSlot).bytes 0x28 4
        if s.sys.mode = .md1 then t = uc 4
        else raised (peatPost { s.peat with uc := updNth s.peat.uc s.sec.ucSlot (fun x => { x with confirmed := true }) } [.slotState]) 0 v (uc 2) t))
    ∧ (s.sec.ucLoading = none ∨ s.clk.state ≠ 2 → ∀ ok bytes, Gives (.ucLoadDone ok bytes) s fun t => t = s0)
    ∧ (∀ k bytes, s.sec.ucLoading = some k → s.clk.state = 2 →
      Gives (.ucLoadDone false bytes) s (fun t =>
        ends { s with sec := { s.sec with ucLoading := none, ucStat := 8 } } t ∧ bit (regGet t (regA fnHIF 0x40)) 3 = true)
      ∧ (¬ room → Gives (.ucLoadDone true bytes) s (ends { s with sec := { s.sec with ucLoading := none, ucStat := 8 } }))
      ∧ (room → Gives (.ucLoadDone true bytes) s (
        let bs := padTo s.sec.imgLen bytes
        let st := ucCheck s k bs s.sec.imgLen
        ends { s with
          mem := clear, sec := { s.sec with ucLoading := none, ucStat := st }
          peat := if st = 2 then peatPost { s.peat with uc := setNth s.peat.uc k ⟨bs, true, false⟩ } [.slotState] else s.peat })))
    ∧ (s.sec.rcv.isSome = true → ∀ x ∈ rcvCmds, Gives x s fun t => t = rcv 1)
    ∧ (s.sec.rcv = none → key ≠ 0x5256 → ∀ x ∈ rcvCmds, Gives x s fun t => t = rcv 3)
    ∧ (s.sec.rcv = none → key = 0x5256 → ¬ (s.sys.mode = .md1 ∧ s.sys.halt = true) → ∀ x ∈ rcvCmds, Gives x s fun t => t = rcv 4)
    ∧ (s.sec.rcv = none → key = 0x5256 → s.sys.mode = .md1 → s.sys.halt = true →
      Gives (.loadImage .pf0 key slot) s (fun t => t = { s0 with
        peat := lines { s.peat with slots := setNth s.peat.slots slot ImgSlot.empty } slot, red := { s.red with repDue := true }
        sec := { s.sec with rcvRes := 1, rcv := some (true, slot.val), imgLen := len } })
      ∧ Gives (.loadUcode .pf0 key slot) s (fun t => t = { s0 with
        peat := lines { s.peat with uc := setNth s.peat.uc slot ImgSlot.empty } (2 + slot)
        sec := { s.sec with rcvRes := 1, rcv := some (false, slot.val), imgLen := len } })
      ∧ Gives (.restart .pf0 key) s (fun t => t = { s0 with
        sys := { s.sys with halt := false }
        sec := { s.sec with rcvRes := 2, bootRes := 0, bootFirst := 0, bootOther := 0, idKnown := false } })
      ∧ (∀ bytes, Gives (.enroll .pf0 key false bytes) s fun t =>
        Becomes (rcv 8) [regA fnHIF 0x40] s t ∧ bit (regGet t (regA fnHIF 0x40)) 3 = true)
      ∧ (∀ bytes, ¬ room → Gives (.enroll .pf0 key true bytes) s (Becomes (rcv 8) [] s))
      ∧ (∀ bytes, room → let bs := padTo len bytes
        let first : Prop := s.peat.keys = [] ∧ leAt bs 4 1 = 1 ∧ 192 ≤ bs.length
        Gives (.enroll .pf0 key true bytes) s fun t =>
          if keyRecordOk s bs = false then t = { rcv 5 with mem := clear }
          else if ¬ first ∧ keySigned s bs = false then t = { rcv 6 with mem := clear }
          else if keyTableAfter s.peat.keys bs = [] then t = { rcv 5 with mem := clear }
          else Becomes { s with
            mem := clear, sec := { s.sec with rcvRes := 2 }
            peat := { recPut (arcPut { s.peat with keys := keyTableAfter s.peat.keys bs } 2 (tabGet 0 s.peat.arc 2 + 1)) .arc with
              wears := t.peat.wears, wear := t.peat.wear } }
            [regA fnSEC 0x40, regA fnPTS 0x40] s t))
    ∧ (s.sec.rcv = none ∨ s.clk.state ≠ 2 → ∀ ok bytes, Gives (.recoveryLoadDone ok bytes) s fun t => t = s0)
    ∧ (∀ image k bytes, s.sec.rcv = some (image, k) → s.clk.state = 2 →
      Gives (.recoveryLoadDone false bytes) s (fun t =>
        ends { s with sec := { s.sec with rcv := none, rcvRes := 8 } } t ∧ bit (regGet t (regA fnHIF 0x40)) 3 = true)
      ∧ (¬ room → Gives (.recoveryLoadDone true bytes) s (ends { s with sec := { s.sec with rcv := none, rcvRes := 8 } }))
      ∧ (room → Gives (.recoveryLoadDone true bytes) s (
        let bs := padTo s.sec.imgLen bytes
        let ic := imgCheck s k bs s.sec.imgLen
        let st := if image then (if ic = 2 then 2 else if 7 ≤ ic ∧ ic ≤ 9 then 6 else 5) else ucCheck s k bs s.sec.imgLen
        let u : State := { s with mem := clear, sec := { s.sec with rcv := none, rcvRes := st } }
        let x : ImgSlot := ⟨bs, true, false⟩
        ends (if st ≠ 2 then u
          else { u with peat := booted s.peat x image k, red := { s.red with repDue := s.red.repDue || image } }))))

/-- R44, R372, R374, R376, R427: Kindle runs in MD_1 until it ends there. It halts where no microcode slot verifies, where its self-test fails and where no
image slot verifies; else the boot slot's image, or failing it the other's, comes into force, and the unit enters MD_2, or MD_10 with its
lock-out where a demand stands, a demand or reaction came during MD_1, or the stored check value is not the image's.
Choices of the model: log entries 51, 53, 119, 128, 139, 218, 231, 271. -/
def Obligations.KindleEnds : Prop :=
  ∀ (s : State), s.Inv →
    let s0 : State := { s with out := [] }
    let runs : Prop := s.sys.mode = .md1 ∧ s.sys.halt = false ∧ s.clk.state = 2
    let r := kindleRead s0
    let k := r.peat.bootSlot
    let b := r.peat.bootUc
    let room : Prop := rgnAllows s 4 0xD00000 0x100000 true = true ∧ rickOff s 0xD00000 0x100000 = false
    let clear : State := { r with mem := { r.mem with dev := r.mem.dev.filter (fun x => x.1 < 0xD00000 || 0xE00000 ≤ x.1) } }
    let halts (u : State) (res : Nat) : State := { u with sys := { s.sys with halt := true }, sec := { u.sec with bootRes := res } }
    let none_ : Prop := ucRuns r b = false ∧ ucRuns r (1 - b) = false
    let uc : Nat := if ucRuns r b then b else 1 - b
    let first := kindleImage r k
    let second := kindleImage r (1 - k)
    let other := (imgSlotOf r (1 - k)).valid
    (¬ runs → ∀ ok, Gives (.kindleDone ok) s fun t => t = s0)
    ∧ (Becomes { s with
          sec := { s.sec with idKnown := true }, peat := r.peat, adc := { s.adc with coef := r.adc.coef }, red := { s.red with epoch := r.peat.epoch }
          rdl := { s.rdl with failed := r.peat.failed, dirty := false }, rdlOld := { s.rdlOld with failed := r.peat.failed, dirty := false } }
        [0x80048, regA fnPTS 0x40] s r
      ∧ regGet r 0x80048 = BitVec.ofNat 32 s.peat.retired
      ∧ (recHeld s.peat .epoch = false → r.peat.epoch = s.peat.epoch ∧ r.peat.epochOk = s.peat.epochOk)
      ∧ (∀ v, recHeld s.peat .epoch = true → recRead s.peat .epoch = some v → r.peat.epoch = v.headD 0 ∧ r.peat.epochOk = true)
      ∧ (recHeld s.peat .epoch = true → recRead s.peat .epoch = none → r.peat.epochOk = false)
      ∧ (recHeld s.peat .failedMap = false → r.peat.failed = s.peat.failed)
      ∧ (recHeld s.peat .bootSel = false → k = s.peat.bootSlot ∧ b = s.peat.bootUc)
      ∧ (∀ v, recHeld s.peat .bootSel = true → recRead s.peat .bootSel = some v → k = v.headD 0 ∧ b = (v.drop 1).headD 0)
      ∧ (∀ kind ∈ recKinds, recHeld s.peat kind = true → recRead s.peat kind = none → bit (regGet r (regA fnPTS 0x40)) 1 = true))
    ∧ (runs → ¬ room → ∀ ok, Gives (.kindleDone ok) s (Becomes (halts r 3) [] r))
    ∧ (runs → room → Gives (.kindleDone false) s fun t =>
      t = if none_ then halts clear 3 else halts { clear with sec := { clear.sec with ucSlot := uc } } 4)
    ∧ (runs → room → Gives (.kindleDone true) s fun t =>
      if none_ then t = halts clear 3
      else if first ≠ 2 ∧ (other = false ∨ second ≠ 2) then t = halts { clear with
          peat := peatPost { r.peat with proof := 0 } [.proofHours], saf := { s.saf with hour := 0, proofDue := false }
          sec := { clear.sec with ucSlot := uc, bootFirst := first, bootOther := if other then second else 0 } } 5
      else
        let j := if first = 2 then k else 1 - k
        let img := readImage j (imgSlotOf r j).bytes
        let demand := s.saf.sbA || s.saf.sbB || s.saf.cplA || s.saf.cplB || [1, 2, 3, 4, 5, 7].any (fun c => s.saf.due.testBit c)
        let checked := r.peat.checkVal.any (fun v => img.cv = v.toNat)
        t.img.live = some img ∧ t.img.other = none ∧ t.sec.active = j ∧ t.sec.bootImg = j ∧ t.sec.ucSlot = uc
        ∧ t.sec.bootRes = (if first = 2 then 1 else 2) ∧ t.sec.bootFirst = first ∧ t.sys.tickCode = pNat img 0x0106 ∧ t.peat.proof = 0
        ∧ t.sys.mode = (if demand = false ∧ checked = true then .md2 else .md10) ∧ t.sys.prev = .md1
        ∧ (¬ (demand = false ∧ checked = true) → t.saf.lock = true) ∧ t.saf.due = 0 ∧ t.saf.proofDue = false
        ∧ (first ≠ 2 → bit (regGet t (regA fnSEC 0x40)) 0 = true))

/-! ### Operating modes (chapter 2) -/

/-- R50 to R53: a write of SYS_MODE_REQ is refused without its key, from PF1 for a target that is not its own, and in MD_0 and MD_1; during a
transition it is held; else it waits for the vote of the next boundary, in the place of the function's earlier one. The mode stays.
R44, R45, R158, R159: the end of a limit, a target that is reached, the fault condition and its recovery each put their row of the
transition table to the next vote in the mode where the row starts, and do nothing in any other.
Choices of the model: log entries 4, 133, 134, 228. -/
def Obligations.ModeRequestsAndCauses : Prop :=
  (∀ (s : State) (pf : Pf) (v : Word), s.Inv → pfAnswers s pf = true →
      let m := s.sys
      let own := field v 3 0 ∈ [4, 5, 6, 7, 8, 9] ∨ (field v 3 0 = 2 ∧ m.mode.forms = true)
      let r : Req := ⟨field v 3 0, field v 7 4, if pf = .pf0 then .pf0 else .pf1, m.reqNum + 1⟩
      let res (y : Sys) (st : Nat) : Sys := { y with reqNum := m.reqNum + 1, resTarget := field v 3 0, resSeq := field v 7 4, resStatus := st }
      let ends (st : Nat) (t : State) : Prop := Becomes { s with sys := res m st } [] s t
      (field v 31 16 ≠ 0x4D44 → Gives (.modeRequest pf v) s (ends 8))
      ∧ (field v 31 16 = 0x4D44 → pf = .pf1 → ¬ own → Gives (.modeRequest pf v) s (ends 7))
      ∧ (field v 31 16 = 0x4D44 → (pf = .pf0 ∨ own) →
        (m.mode = .md0 ∨ m.mode = .md1 → Gives (.modeRequest pf v) s (ends 5))
        ∧ (m.mode ≠ .md0 → m.mode ≠ .md1 →
          (m.trans.isSome = true → m.held = none → Gives (.modeRequest pf v) s fun t =>
            t = { s with out := [], sys := { res m 1 with held := some r } })
          ∧ (m.trans.isSome = true → ∀ h, m.held = some h → h.num ≤ m.reqNum → Gives (.modeRequest pf v) s fun t =>
            Becomes { s with
              sys := { res m 1 with held := some r }
              sa := match h.origin with
                | .entry k => updNth s.sa k (fun e => { e with res := 4 })
                | _ => s.sa } [] s t)
          ∧ (m.trans = none → (∀ q ∈ m.requests, q.num ≤ m.reqNum) → Gives (.modeRequest pf v) s fun t =>
            Becomes { s with
              sys := { res m 0 with requests := m.requests.filter (fun q => q.origin ≠ r.origin) ++ [r] } } [] s t))))
  ∧ (∀ (s : State), s.Inv →
      let m := s.sys.mode
      let s0 : State := { s with out := [] }
      let votes (r : Row) (dest : Mode) (t : State) : Prop :=
        t = if ⟨r, dest, none, 0⟩ ∈ s.sys.causes then s0 else { s0 with sys := { s.sys with causes := s.sys.causes ++ [⟨r, dest, none, 0⟩] } }
      let only (at0 : Mode) (r : Row) (dest : Mode) (t : State) : Prop := if m = at0 then votes r dest t else t = s0
      Gives .prechgLimitExpire s (fun t => if preComplete s = true then t = s0 else only .md4 .prechargeLimit .md2 t)
      ∧ Gives .stopLimitExpire s (fun t => if s.sys.trans = some .stopRamp then votes .stop .md2 t else t = s0)
      ∧ Gives .serviceLimitExpire s (only .md11 .serviceLimit .md2)
      ∧ Gives .inrushLimitExpire s (only .md5 .inrush .md2)
      ∧ Gives .rtLimitExpire s (only .md8 .rtLimit .md2)
      ∧ Gives .syncLimitExpire s (only .md6 .syncLimit s.sys.before6)
      ∧ Gives .rampTargetReached s (only .md5 .rampDone .md9)
      ∧ Gives .faultCondition s (fun t =>
        if m = .md7 then votes .faultForm .md8 t else only .md9 .faultIsland .md8 t)
      ∧ Gives .recoveryMet s (only .md8 .recovered (if s.swg.cond.brkNow = some true ∧ s.swg.cond.island = false then .md7 else .md9)))

/-- R54: a write of SYS_MRST is refused with its status from PF1, without its key, and in a mode or state that does not allow it; else MD_0
begins as `State.inMd0` has it, every field output takes its safe level, and the synthesiser starts where nothing holds MD_0.
Choices of the model: log entries 11, 13, 30, 136, 222, 224. -/
def Obligations.ModuleReset : Prop :=
  ∀ (s : State) (v : Word), s.Inv →
    let m := s.sys.mode
    let ends (st : Nat) (t : State) : Prop := Becomes { s with
      sys := { s.sys with reqNum := s.sys.reqNum + 1, resTarget := 0, resSeq := 0, resStatus := st } } [] s t
    let may : Prop := ((m = .md1 ∧ s.sys.halt = true) ∨ m ∈ [Mode.md2, .md3, .md10, .md11]) ∧ switching s = false
    (pfAnswers s .pf1 = true → Gives (.moduleReset .pf1 v) s (ends 7))
    ∧ (pfAnswers s .pf0 = true →
      (field v 31 16 ≠ 0x4D52 → Gives (.moduleReset .pf0 v) s (ends 8))
      ∧ (field v 31 16 = 0x4D52 → bit v 0 = false → Gives (.moduleReset .pf0 v) s fun t => t = { s with out := [] })
      ∧ (field v 31 16 = 0x4D52 → bit v 0 = true → ¬ may → Gives (.moduleReset .pf0 v) s (ends 6))
      ∧ (field v 31 16 = 0x4D52 → bit v 0 = true → may → Gives (.moduleReset .pf0 v) s fun t =>
        t = { (s.inMd0 s.mon).outputsSafe with
          sys := { Sys.reset with mrst := true }
          clk := { (s.inMd0 s.mon).clk with state := if s.mon.rails = 0 ∧ s.mon.resetN = true ∧ s.clk.refOk = true then 1 else 0 } }))

/-- R55, R56, R374: a replica that differs is masked and counted until the next boundary, or fenced where it was resynchronised within the last
1,000 ticks; with one masked or fenced, or with no majority, the unit stops safe until MD_0.
Choices of the model: log entries 123, 231, 232. -/
def Obligations.ReplicasDiffer : Prop :=
  ∀ (s : State) (r : Fin 3), s.Inv → s.sys.mode ≠ .md0 →
    let y := s.tmr
    let same (t : State) : Prop := t = { s with out := [] }
    let stops (t : State) : Prop := ∃ u, Becomes { s with tmr := { y with dead := true } } [] s u ∧ SafeStopped 1 7 u t
    let recent : Prop := (nth none y.resync r).any (fun k => decide (s.sys.tickCnt ≤ k + 1000)) = true
    ((y.fenced = some r ∨ y.dead = true) → Gives (.tmrReplicaDiffer r) s same)
    ∧ (y.dead = false → y.fenced ≠ some r → y.fenced.isSome = true → Gives (.tmrReplicaDiffer r) s stops)
    ∧ (y.dead = false → y.fenced = none →
      (∀ q, y.masked = some q → q ≠ r → Gives (.tmrReplicaDiffer r) s stops)
      ∧ (y.masked = some r → Gives (.tmrReplicaDiffer r) s same)
      ∧ (y.masked = none → ¬ recent → Gives (.tmrReplicaDiffer r) s fun t =>
        Becomes { s with tmr := { y with masked := some r } } [0x40] s t
        ∧ regF t 0x40 2 0 = 2 ^ r.val ∧ regF t 0x40 31 16 = satInc 16 (regF s 0x40 31 16) ∧ regF t 0x40 10 8 = regF s 0x40 10 8)
      ∧ (y.masked = none → recent → Gives (.tmrReplicaDiffer r) s fun t =>
        Becomes { s with tmr := { y with fenced := some r } } [0x40] s t
        ∧ regF t 0x40 2 0 = 2 ^ r.val ∧ regF t 0x40 31 16 = satInc 16 (regF s 0x40 31 16) ∧ regF t 0x40 10 8 = 2 ^ r.val))
    ∧ Gives .tmrTwoOfTwoDiffer s (fun t => if y.fenced.isSome = true ∧ y.dead = false then stops t else same t)
    ∧ Gives .tmrNoMajority s (fun t => if y.dead = true then same t else stops t)

/-! ### Scheduled actions (chapter 2) and the safe block function (chapter 13) -/

/-- R57 to R60, R65: a write of SYS_SA_CTL_k arms an entry whose time and fields are valid, stores it unarmed with its status where they are
not, and disarms it; the entries of the N9, and arming one that is armed, are refused. -/
def Obligations.ScheduledActions : Prop :=
  ∀ (s : State) (pf : Pf) (k : Fin 64) (v : Word), s.Inv → pfAnswers s pf = true → ∀ x ∈ [Instr.saArm pf k v, Instr.saDisarm pf k v],
    let e := nth SaEntry.empty s.sa k
    let ctl := v &&& 0xFFFFF0F2
    let put (e' : SaEntry) (t : State) : Prop := t = { s with out := [], sa := setNth s.sa k e' }
    let valid : Prop := e.ns.toNat ≤ 999999999 ∧ field v 31 12 ≤ 1000000 ∧ field v 7 4 ≤ 6
    ((60 ≤ k.val ∨ (e.armed = true ∧ bit v 0 = true)) → Gives x s (Becomes s [] s))
    ∧ (k.val < 60 → e.armed = true → bit v 0 = false → Gives x s (put { e with armed := false, status := 0 }))
    ∧ (k.val < 60 → e.armed = false → bit v 0 = false → Gives x s (put { e with ctl := ctl }))
    ∧ (k.val < 60 → e.armed = false → bit v 0 = true → ¬ valid → Gives x s (put { e with ctl := ctl, status := 5, res := 0 }))
    ∧ (k.val < 60 → e.armed = false → bit v 0 = true → valid →
        Gives x s (put { e with ctl := ctl, armed := true, status := 1, res := 0, delay := 0 }))

/-- R367 to R370: the demand of an input stops the unit safe where no channel was in demand before, and a coupler that fails does so always; two failed tests in a row set a coupler's
demand and a hundred passed clear it; inputs that disagree too long set DISC, which leaves once both have been in demand and left it.
Choices of the model: log entries 33, 139, 259, 260. -/
def Obligations.SafeBlockInputs : Prop :=
  ∀ (s : State), s.Inv →
    let f := s.saf
    let chA (f : Saf) : Bool := f.sbA || f.cplA
    let chB (f : Saf) : Bool := f.sbB || f.cplB
    let demand (f : Saf) : Bool := chA f || chB f
    let agreed (g : Saf) : Saf :=
      let both := g.discBoth || (g.disc && chA g && chB g)
      if g.disc ∧ both ∧ chA g = false ∧ chB g = false then { g with disc := false, discBoth := false } else { g with discBoth := both }
    let cause (f : Saf) : Nat := (if f.sbA then 1 else 0) + if f.sbB then 2 else 0
    (∀ (ch : SafeCh) (on : Bool), Gives (.sbInput ch on) s fun t =>
      let g : Saf := if ch = .a then { f with sbA := on } else { f with sbB := on }
      let u : State := { s with out := [], saf := agreed g }
      if demand g = true ∧ demand f = false then SafeStopped 0 (cause g) u t else t = u)
    ∧ (s.sys.mode = .md0 ∨ chA f = chB f → Gives .sbDiscrepancy s fun t => t = { s with out := [] })
    ∧ (s.sys.mode ≠ .md0 → chA f ≠ chB f → Gives .sbDiscrepancy s fun t =>
      ∃ u, Reported { s with saf := { f with disc := true, discBoth := false } } u ∧ Flagged fnSAF 3 [] s u
        ∧ SafeStopped 1 4 u t)
    ∧ (∀ a b : Bool,
      (s.sys.mode = .md0 → Gives (.couplerTest a b) s fun t => t = { s with out := [] })
      ∧ (s.sys.mode ≠ .md0 → Gives (.couplerTest a b) s fun t =>
        let g : Saf := { f with
          cplA := if a then f.cplA && decide (f.passA + 1 < 100) else f.cplA || decide (1 ≤ f.failA)
          failA := if a then 0 else min (f.failA + 1) 2, passA := if a then min (f.passA + 1) 100 else 0
          cplB := if b then f.cplB && decide (f.passB + 1 < 100) else f.cplB || decide (1 ≤ f.failB)
          failB := if b then 0 else min (f.failB + 1) 2, passB := if b then min (f.passB + 1) 100 else 0 }
        let sets := (g.cplA && !f.cplA) || (g.cplB && !f.cplB)
        if sets = false then t = { s with out := [], saf := agreed g }
        else ∃ u, Becomes { s with saf := g } [regA fnSAF 0x40] s u ∧ bit (regGet u (regA fnSAF 0x40)) 4 = true
          ∧ SafeStopped 0 5 u { t with saf := { t.saf with disc := g.disc, discBoth := g.discBoth } }
          ∧ t.saf.disc = (agreed g).disc ∧ t.saf.discBoth = (agreed g).discBoth))

/-- R366, R374 to R377: the button's states; the acknowledgement and the confirmation with their expiry; and the valid press, which completes a
confirmation of the check value, or clears the lock-out and asks for MD_2 where every condition of R374 holds, or is refused with the first
that does not.
Choices of the model: log entries 78, 79, 80, 260, 264. -/
def Obligations.DeliberateReset : Prop :=
  ∀ (s : State) (key : BitVec 16), s.Inv →
    let f := s.saf
    let s0 : State := { s with out := [] }
    let saf (g : Saf) : State := { s0 with saf := g }
    let ends (g : Saf) (st : Nat) (t : State) : Prop := Becomes (saf { g with res := st }) [] s t
    let stuck (g : Saf) (t : State) : Prop := Reported (saf { g with rstate := .stuck }) t ∧ Flagged fnSAF 5 [] s t
    let down : Saf := { f with btn := true }
    let up : Saf := { f with btn := false }
    let live : Prop := pfAnswers s .pf0 = true
    Gives .rstSafePress s (fun t =>
      if f.rstate = .released then t = saf { down with rstate := .pressed } else if f.rstate = .pressed then t = saf down else ends down 7 t)
    ∧ Gives .rstStuck s (fun t => if f.rstate = .pressed then stuck f t else t = s0)
    ∧ Gives .rstStuckClear s (fun t => t = if f.rstate = .stuck ∧ f.btn = false then saf { f with rstate := .released } else s0)
    ∧ (live → key ≠ 0x5352 → ∀ x ∈ [Instr.safAck .pf0 key, Instr.safCancel .pf0 key], Gives x s (ends f 3))
    ∧ (live → Gives (.safAck .pf0 0x5352) s (ends { f with ack := true } 1))
    ∧ (live → Gives (.safCancel .pf0 0x5352) s fun t => t = saf { f with ack := false })
    ∧ Gives .ackExpire s (fun t => if f.ack = true then ends { f with ack := false } 11 t else t = s0)
    ∧ Gives .cvConfirmExpire s (fun t => if f.confArm = true then ends { f with confArm := false } 11 t else t = s0)
    ∧ (live → Gives (.cvConfirm .pf0 key) s fun t =>
      if key ≠ 0x4356 then ends f 3 t
      else if s.sys.mode ≠ .md10 then ends f 4 t
      else if s.img.live.any (fun i => decide (i.cv = (regGet s 0x14002C).toNat)) = true then ends { f with confArm := true } 1 t
      else ends f 10 t)
    ∧ (∀ ms : Nat, f.rstate ≠ .pressed → Gives (.rstSafeRelease ms) s fun t => t = saf up)
    ∧ (∀ ms : Nat, f.rstate = .pressed → Gives (.rstSafeRelease ms) s fun t =>
      let g : Saf := { up with rstate := .released }
      let checked := s.peat.checkVal.any (fun v => s.img.live.any (fun i => i.cv = v.toNat))
      if 5000 < ms then stuck up t
      else if ms < 200 then ends { g with shorts := f.shorts + 1 } 9 t
      else if f.confArm = true then
        Becomes { saf { g with confArm := false, res := 12 } with
          peat := peatPost { s.peat with checkVal := some (BitVec.ofNat 32 (imgOf s).cv) } [.checkValue] } [] s t
      else if f.ack = false then ends g 8 t
      else if s.sys.mode ≠ .md10 then ends g 4 t
      else if f.sbA = true ∨ f.sbB = true ∨ f.cplA = true ∨ f.cplB = true then ends g 5 t
      else if f.disc = true then ends g 6 t
      else if checked = false then ends g 10 t
      else if reactionHere s = true then ends g 14 t
      else
        t.saf = { g with lock := false, ack := false, res := 2 }
        ∧ ⟨.reset, .md2, none, 0⟩ ∈ t.sys.causes
        ∧ Becomes { s with saf := t.saf, sys := { s.sys with causes := t.sys.causes }, fio := t.fio } [regA fnSAF 0x40, 0x140048] s t
        ∧ bit (regGet t (regA fnSAF 0x40)) 2 = true ∧ regF t 0x140048 31 16 = satInc 16 (regF s 0x140048 31 16))
    ∧ Gives .proofDue s (fun t =>
      if s.sys.mode = .md0 ∨ s.peat.proof < 8760 ∨ f.proofDue = true then t = s0
      else Reported (saf { f with proofDue := true }) t ∧ Flagged fnSAF 6 [] s t)

/-! ### Function resets (chapter 1) -/

/-- R36 to R40, R48, R93, R183, R404: a reset is held during a transition, ignored while its function is not ready, flagged in SYS_FRST_REF where the
mode or switching forbids it, and else executed: its registers take their reset values, the function its reset state, and it is counted;
it is then not ready until its completion; and the completion of a transition to or from MD_3 ends it.
Choices of the model: log entries 34, 35, 36, 37, 38, 39, 40, 192, 194, 226, 227, 229, 233. -/
def Obligations.FunctionResets : Prop :=
  ∀ (s : State) (fn : Fin 23), s.Inv →
    let s0 : State := { s with out := [] }
    let x : Instr := .functionReset .pf0 (BitVec.ofNat 32 (2 ^ fn.val))
    (pfAnswers s .pf0 = true →
      (∀ v : Word, s.sys.trans.isSome = true → Gives (.functionReset .pf0 v) s fun t =>
        t = { s0 with frst := { s.frst with held := s.frst.held ||| v.toNat % 2 ^ 23 } })
      ∧ (s.sys.trans = none → s.frst.inReset.testBit fn = true → Gives x s fun t => t = redEval s0 s0)
      ∧ (s.sys.trans = none → s.frst.inReset.testBit fn = false → frstOk s fn = false → Gives x s fun t =>
        ∃ u, Becomes s [0x108] s u ∧ regGet u 0x108 = regGet s 0x108 ||| at_ 1 fn ∧ t = redEval s0 u)
      ∧ (s.sys.trans = none → s.frst.inReset.testBit fn = false → frstOk s fn = true → Gives x s fun t =>
        let r := if switching s = true ∧ (fn.val ∈ [fnFAB, fnSWG, fnRDL, fnCRD, fnGGD] ∨ (fn.val = fnPWM ∧ ddToken s = true))
          then blockRelease s0 else s0
        let u := frstEffect { r with regs := regsFrst fn (frstKeep fn) r.regs } fn
        (∃ y, Becomes { u with
            frst := { s.frst with inReset := s.frst.inReset ||| 2 ^ fn.val }, fio := y.fio, ggd := { u.ggd with tpc := y.ggd.tpc } } [0x10C] u y
          ∧ regF y 0x10C 15 0 = satInc 16 (regF u 0x10C 15 0) ∧ t = redEval s0 y)
        ∧ t.frst.inReset = s.frst.inReset ||| 2 ^ fn.val ∧ t.sys.mode = s.sys.mode
        ∧ (fn.val = fnSYS → t.sa = List.replicate 64 SaEntry.empty)
        ∧ (fn.val = fnFAB → t.fab.cells = [] ∧ t.img.state = 0 ∧ t.img.commit = if s.img.state = 0 then s.img.commit else none)
        ∧ (fn.val = fnSWG → t.swg.mach = Swg.reset.mach ∧ t.swgOld = Swg.reset)
        ∧ (fn.val = fnRDL → t.rdl.failed = s.rdl.failed)
        ∧ (fn.val = fnCRD → (∀ n, n < 48 → (laneOf t n).state = 0) ∧ ∀ n, 48 ≤ n → laneOf t n = laneOf s n)
        ∧ (fn.val = fnGGD ∨ fn.val = fnPWM → ∀ n, n < 24 → (chanOf t n).state ∉ [1, 2, 3])
        ∧ (fn.val = fnBLK → t.mem.blkReady = false ∧ t.mem.scrub = false)
        ∧ (fn.val = fnETH → t.tim.link = [false, false])))
    ∧ (s.frst.inReset.testBit fn = false ∨ frstMay s fn = false → Gives (.functionResetDone fn) s fun t => t = s0)
    ∧ (frstMay s fn = ((fn.val ≠ fnBLK ∨ s.mem.blkReady = true ∨ s.sys.mode = .md3) ∧ (fn.val ≠ fnCLK ∨ s.clk.state = 2) : Bool))
    ∧ (s.frst.inReset.testBit fn = true → frstMay s fn = true → Gives (.functionResetDone fn) s fun t =>
      t.frst = { s.frst with inReset := s.frst.inReset - 2 ^ fn.val } ∧ regF t 0x10C 20 16 = fn
      ∧ (fn.val ∉ [fnCRD, fnRED, fnSTK] → t = { s0 with frst := t.frst, regs := t.regs, fio := t.fio, ggd := { s.ggd with tpc := t.ggd.tpc } } ∧ RegsBut [0x10C] s t))
    ∧ (¬ (s.sys.trans = some .toBanked ∨ s.sys.trans = some .fromBanked) → Gives .modeTransitionDone s fun t => t = s0)
    ∧ ((s.sys.trans = some .toBanked ∨ s.sys.trans = some .fromBanked) → Gives .modeTransitionDone s fun t =>
      t.sys.trans = none ∧ t.sys.live = none ∧ t.sys.mode = s.sys.mode ∧ t.frst.held = 0
      ∧ (s.frst.held = 0 → s.sys.live = none → t = { s0 with sys := { s.sys with trans := none } }))

/-! ### Control fabric (chapter 4) -/

/-- R104, R114 to R116, R123, R127: a compensator whose feedback or freeze reaches its limit in normal action enters its loss action, is counted
and flagged, and a TRIP while the unit switches stops it safe or blocks it; a stage that may shift down does, and a decomposition whose
fill ends stands with its outputs; no other node, and a node not evaluated, changes nothing.
Choices of the model: log entries 4, 142, 143, 144, 279, 280. -/
def Obligations.FabricNodes : Prop :=
  ∀ (s : State) (node : Fin 8192), s.Inv →
    let s0 : State := { s with out := [] }
    let c := cellOf s node
    let put (c' : Cell) : Fab := { s.fab with cells := tabSet Cell.fresh s.fab.cells node c' }
    let invalid (c : Cell) : Cell := { c with outs := c.outs.map (fun w => { w with v := false }) }
    (nodeNormal s node = none → ∀ x ∈ [Instr.nodeFeedbackLoss node, .nodeFreeze node], Gives x s fun t => t = s0)
    ∧ (∀ r, nodeNormal s node = some r → nodeU r 0x42 2 = 0 → Gives (.nodeFreeze node) s fun t => t = s0)
    ∧ (∀ r, nodeNormal s node = some r → ∀ x ∈ [(Instr.nodeFeedbackLoss node, 0), (Instr.nodeFreeze node, 1)],
      (x.2 = 1 → nodeU r 0x42 2 ≠ 0) → Gives x.1 s fun t =>
        let a := nodeU r 0x3D 1 + 1
        let c1 : Cell := { c with
          act := a, cause := x.2, frozen := if x.2 = 1 then c.last else c.frozen
          loss := if x.2 = 0 then max c.loss (nodeU r 0x40 2) else c.loss
          freeze := if x.2 = 1 then max c.freeze (nodeU r 0x42 2) else c.freeze }
        let hi := if x.2 = 0 then 15 else 31
        ∃ u, Becomes { s with fab := { put (if a = 3 then invalid c1 else c1) with
            lastEvt := if a = 3 then 2 else x.2, lastNode := node } } [regA fnFAB 0x40, 0xA0048] s u
          ∧ bit (regGet u (regA fnFAB 0x40)) x.2 = true ∧ (a = 3 → bit (regGet u (regA fnFAB 0x40)) 2 = true)
          ∧ regF u 0xA0048 hi (hi - 15) = satInc 16 (regF s 0xA0048 hi (hi - 15))
          ∧ if a = 3 ∧ switching s = true then (if nodeSafety r = true then SafeStopped 1 7 u t else t = blockRelease u) else t = u)
    ∧ (nodeIn s node = none → ∀ x ∈ [Instr.nodeDownshift node, .xformFillEnd node, .fabLockstepMismatch node], Gives x s fun t => t = s0)
    ∧ (∀ r, nodeIn s node = some r →
      Gives (.nodeDownshift node) s (fun t =>
        let small := ((c.outs.filter (·.v)).map (·.m) ++ c.hist).all (fun m => decide (m.natAbs < 2 ^ 29))
        t = if nodeStaged r = true ∧ c.evald = true ∧ r.outExp < c.stage ∧ small = true then { s0 with fab := put { c with
            stage := c.stage - 1, hist := c.hist.map (2 * ·), down := 0
            outs := c.outs.map (fun w => if w.v then ⟨2 * w.m, w.e - 1, true⟩ else w) } } else s0)
      ∧ Gives (.xformFillEnd node) s (fun t =>
        let valid := (nodeIns (fabEnv s s.fab.cells) s.fab.cells r).all (·.v)
        t = if r.type = 5 ∧ r.sub = 4 ∧ c.evald = true ∧ 0 < c.fill then
            { s0 with fab := put { c with fill := 0, outs := formOuts c.outs valid c.stage c.hist } } else s0))

/-- R30, R127 to R129: a lockstep mismatch of an evaluated node is flagged, counted and named; the next frames repeat the last completed tick,
its compare values are dropped, the riddle engine has not advanced, and while the unit switches it stops safe or blocks. A node is armed
for capture in place of one already armed, and the first read after a capture latches it.
Choices of the model: log entries 93, 96, 145. -/
def Obligations.FabricMismatchAndPeek : Prop :=
  ∀ (s : State) (node : Fin 8192), s.Inv →
    let s0 : State := { s with out := [] }
    (∀ r, nodeIn s node = some r → Gives (.fabLockstepMismatch node) s fun t => ∃ u,
      Becomes { s with
        sys := { s.sys with repeatNext := true }, swg := u.swg, fab := u.fab
        rdl := { s.rdlOld with dirty := s.rdl.dirty || s.rdlOld.dirty || decide (s.rdl.failed ≠ s.rdlOld.failed) }
        ggd := { s.ggd with chans := s.ggd.chans.map (fun c => { c with cmp := none }) } } [regA fnFAB 0x40, 0xA0050] s u
      ∧ u.fab.lastEvt = 9 ∧ u.fab.lastNode = node.val ∧ u.fab.before = s.fab.before ∧ u.fab.idx = s.fab.idx
      ∧ bit (regGet u (regA fnFAB 0x40)) 9 = true ∧ regF u 0xA0050 31 16 = satInc 16 (regF s 0xA0050 31 16)
      ∧ regF u 0xA0050 12 0 = node.val ∧ regF u 0xA0050 15 15 = (if nodeSafety r = true then 1 else 0)
      ∧ if switching s = true then (if nodeSafety r = true then SafeStopped 1 7 u t else t = blockRelease u) else t = u)
    ∧ (∀ (pf : Pf) (v : Word), pfAnswers s pf = true → windowOpen s fnFAB = true →
      Gives (.peekArm pf v) s (fun t =>
        t = { s0 with regs := t.regs, fab := { s.fab with peekArm := some (field v 12 0) } }
        ∧ RegsBut [0xA0200] s t ∧ regF t 0xA0200 12 0 = field v 12 0)
      ∧ (s.fab.capture = none → Gives (.peekStatRead pf) s fun t =>
        t = { s0 with rdata := at_ (s.fab.peekSeq % 16) 4 ||| at_ s.fab.latched.act 0 })
      ∧ (∀ x, s.fab.capture = some x → Gives (.peekStatRead pf) s fun t =>
        t = { s0 with
          fab := { s.fab with capture := none, latched := x }
          rdata := at_ 1 8 ||| at_ (s.fab.peekSeq % 16) 4 ||| at_ x.act 0 }))

/-! ### Swing engine (chapter 5) -/

/-- R143, R150, R155 to R157, R161: a seeded tracker locks where the engine tracks; the account's hold and an input's hold end with their flag, once; the
close conditions of MD_6, held, arm the breaker entry for the predicted time; a close that is not confirmed is flagged; and an island found
in MD_7 is flagged and counted.
Choices of the model: log entries 4, 153, 154, 237, 239. -/
def Obligations.SwingEvents : Prop :=
  ∀ (s : State), s.Inv →
    let g := s.swg
    let s0 : State := { s with out := [] }
    let both (f : Swg → Swg) : State := { s0 with swg := f s.swg, swgOld := f s.swgOld }
    (∀ grid : Bool,
      let x := if grid then g.grd else g.bus
      let tracks : Prop := s.clk.state = 2 ∧ (s.sys.mode = .md2 ∨ s.sys.mode.forms = true)
      let lock (y : Tracker) : Tracker := { y with locked := true, count := max y.count (20000000 / tickNs s) }
      Gives (.trackerLock grid) s fun t => t =
        if tracks ∧ x.seeded = true ∧ x.locked = false then
          both (fun g => if grid then { g with grd := lock g.grd } else { g with bus := lock g.bus })
        else s0)
    ∧ (let n := pNat (imgOf s) 0x0735
      Gives .energyHoldEnd s (fun t =>
        if g.inp.acctOk = false ∧ g.inp.acctLoss ≤ n then
          Reported (both (fun g => { g with inp := { g.inp with acctLoss := n + 1 } })) t ∧ Flagged fnSWG 1 [] s t
        else t = s0)
      ∧ ∀ ep : Fin 16, Gives (.swgInputHoldEnd ep) s fun t =>
        if inputGone s ep = true ∧ nth 0 g.inp.loss ep ≤ n then
          Reported (both (fun g => holdTracks (swgEnv s) ep { g with inp := { g.inp with loss := setNth g.inp.loss ep (n + 1) } })) t
          ∧ Flagged fnSWG 0 [] s t
        else t = s0)
    ∧ (∀ ep : Fin 16, Gives (.swgInputLossLimit ep) s fun t =>
      t = if inputGone s ep = true ∧ lossReacts ep = true ∧ switching s = true then blockRelease s0 else s0)
    ∧ (let run := max g.cond.holdRun ((st (swgEnv s) 0x072C + tickNs s - 1) / tickNs s)
      let waits : Prop := s.sys.mode = .md6 ∧ g.cond.brkState = 2
      (¬ waits → Gives .syncHoldDone s fun t => t = s0)
      ∧ (waits → predict (swgEnv s) g.grd g.mach = none → Gives .syncHoldDone s fun t =>
        t = both (fun g => { g with cond := { g.cond with holdRun := run } }))
      ∧ (waits → ∀ ns, predict (swgEnv s) g.grd g.mach = some ns → Gives .syncHoldDone s fun t =>
        let e := nth SaEntry.empty t.sa 60
        t = { both (fun g => { g with cond := { g.cond with
            holdRun := run, brkState := 3, attempts := min (g.cond.attempts + 1) 255 } }) with sa := setNth s.sa 60 e }
        ∧ e.armed = true ∧ e.status = 1 ∧ e.action = 7 ∧ (ns < 2 ^ 48 * 1000000000 → e.time = ns)))
    ∧ Gives .closeWindowExpire s (fun t =>
      if s.sys.mode = .md6 ∧ g.cond.brkState = 4 then
        Reported (both (fun g => { g with cond := { g.cond with brkState := 6, winEnd := none } })) t ∧ Flagged fnSWG 5 [] s t
      else t = s0)
    ∧ Gives .islandDetected s (fun t =>
      if s.sys.mode = .md7 ∧ g.cond.island = false ∧ sp (swgEnv s) 0x0731 ≠ 0 then
        Becomes (both (fun g => { g with cond := { g.cond with
          island := true, islRun := max g.cond.islRun ((st (swgEnv s) 0x0732 + tickNs s - 1) / tickNs s) } })) [regA fnSWG 0x40, 0xB0048] s t
        ∧ bit (regGet t (regA fnSWG 0x40)) 9 = true ∧ regF t 0xB0048 31 16 = satInc 16 (regF s 0xB0048 31 16)
      else t = s0)

/-- R30, R135, R165: after a lockstep mismatch the engine stands as before the tick with a soft-start pending, and the ports act as in an overrun;
a capture is armed in both states the engine may go on from, and its first read latches it.
Choices of the model: log entries 94, 96. -/
def Obligations.SwingMismatchAndCapture : Prop :=
  ∀ (s : State), s.Inv →
    let s0 : State := { s with out := [] }
    let runs : Prop := s.clk.state = 2 ∧ 2 ≤ s.sys.mode.code ∧ s.sys.mode ≠ .md3 ∧ s.frst.inReset.testBit fnSWG = false
    (¬ runs → Gives .swgLockstepMismatch s fun t => t = s0)
    ∧ (runs → Gives .swgLockstepMismatch s fun t => ∃ u,
      Becomes { s with
        sys := { s.sys with repeatNext := true }, swg := u.swg, swgOld := u.swg, fab := u.fab
        rdl := { s.rdlOld with dirty := s.rdl.dirty || s.rdlOld.dirty || decide (s.rdl.failed ≠ s.rdlOld.failed) }
        ggd := { s.ggd with chans := s.ggd.chans.map (fun c => { c with cmp := none }) } } [regA fnSWG 0x40] s u
      ∧ u.swg.mach = s.swgOld.mach ∧ u.swg.grd = { s.swgOld.grd with seeded := false }
      ∧ u.swg.bus = { s.swgOld.bus with seeded := false } ∧ u.swg.cond.wait = true
      ∧ bit (regGet u (regA fnSWG 0x40)) 8 = true ∧ t = if switching s = true then blockRelease u else u)
    ∧ (∀ (pf : Pf) (v : Word), pfAnswers s pf = true → windowOpen s fnSWG = true →
      Gives (.swgSnapArm pf v) s (fun t =>
        t = if bit v 0 then { s0 with swg := { s.swg with arm := true }, swgOld := { s.swgOld with arm := true } } else s0)
      ∧ (s.swg.cap = none → Gives (.swgSnapStatRead pf) s fun t =>
        t = { s0 with rdata := at_ (s.swg.seq % 16) 4 ||| at_ s.swg.lat.state 0 })
      ∧ (∀ x, s.swg.cap = some x → Gives (.swgSnapStatRead pf) s fun t =>
        let took (g : Swg) : Swg := { g with cap := none, lat := x, seq := s.swg.seq }
        t = { s0 with swg := took s.swg, swgOld := took s.swgOld, rdata := at_ 1 8 ||| at_ (s.swg.seq % 16) 4 ||| at_ x.state 0 }))

/-! ### Riddle engine (chapter 6) -/

/-- R168, R169: an UNKNOWN submodule whose measurement stays away becomes FAILED and, in a deblocked arm, takes BYPASS; and a host command on the failed
map is accepted for the next phase D, or refused with the first STATUS that applies.
Choices of the model: log entries 98, 99. -/
def Obligations.FailedMap : Prop :=
  ∀ (s : State) (sm : Fin 512), s.Inv →
    let s0 : State := { s with out := [] }
    (∀ arm : Fin 6,
      let k := arm.val * 512 + sm.val
      let w := 0xC0100 + 0x20 * arm.val
      let may : Prop := rdlArm s arm = true ∧ sm.val < armSms (imgOf s) arm ∧ (smOf s.rdl arm sm).unknown = true ∧ smReason s.rdl arm sm = 0
      (¬ may → Gives (.smMeasLoss arm sm) s fun t => t = s0)
      ∧ (may → Gives (.smMeasLoss arm sm) s fun t =>
        let r : Rdl := { s.rdl with
          failed := tabSet 0 s.rdl.failed k 3, dirty := true
          sms := tabUpd Sm.fresh s.rdl.sms k (fun m => { m with unknown := false, miss := 0 }) }
        let byp : Prop := (armOf r arm).deb = true ∧ (smOf r arm sm).choice ≠ 1
        Becomes { s with
          rdlOld := t.rdlOld
          rdl := if byp then { r with sms := tabUpd Sm.fresh r.sms k (fun m =>
            { m with choice := 1, age := 0, dwell := 0, changes := satInc 32 m.changes }) } else r }
          [regA fnRDL 0x40, w + 0xC, w + 0x10] s t
        ∧ t.rdlOld.failed = tabSet 0 s.rdlOld.failed k 3 ∧ bit (regGet t (regA fnRDL 0x40)) 4 = true
        ∧ (byp → regF t (w + 0xC) 31 0 = min (regF s (w + 0xC) 31 0 + 1) (2 ^ 32 - 1))))
    ∧ (∀ (arm : Fin 8) (key : BitVec 16), pfAnswers s .pf0 = true → windowOpen s fnRDL = true →
      ∀ x ∈ [(Instr.smSet .pf0 key arm sm, 1, sm.val), (Instr.smClear .pf0 key arm sm, 2, sm.val), (Instr.smClearArm .pf0 key arm, 3, 0)],
        let cmd := x.2.1
        let res (st : Nat) : State := { s0 with rdl := { s.rdl with failRes := st }, rdlOld := { s.rdlOld with failRes := st } }
        let there : Prop := armOn (imgOf s) arm = true ∧ (cmd ≠ 3 → sm.val < armSms (imgOf s) arm)
        let mode : Prop := if cmd = 1 then 2 ≤ s.sys.mode.code else s.sys.mode ∈ [Mode.md2, .md10, .md11]
        let chosen : Prop := cmd ≠ 1 ∧ ∃ i, i < armSms (imgOf s) arm ∧ (smOf s.rdl arm i).choice ≠ 0
        (key ≠ 0x4643 → Gives x.1 s fun t => t = res 3)
        ∧ (key = 0x4643 → ¬ there → Gives x.1 s fun t => t = res 4)
        ∧ (key = 0x4643 → there → ¬ mode → Gives x.1 s fun t => t = res 2)
        ∧ (key = 0x4643 → there → mode → chosen → Gives x.1 s fun t => t = res 5)
        ∧ (key = 0x4643 → there → mode → ¬ chosen → Gives x.1 s fun t => t = { s0 with
            rdl := { s.rdl with failRes := 1, cmds := s.rdl.cmds ++ [(cmd, arm.val, x.2.2)] }
            rdlOld := { s.rdlOld with failRes := 1, cmds := s.rdlOld.cmds ++ [(cmd, arm.val, x.2.2)] } }))

/-- R177, R180, R185: an invalid demand, arm current or uplink set that reaches its limit is flagged and, while the unit switches, blocks and
releases; a held uplink set that ends invalidates the account; and after a lockstep mismatch the engine has not advanced and soft-starts.
Choices of the model: log entries 4, 94, 100, 157. -/
def Obligations.RiddleLimits : Prop :=
  ∀ (s : State) (arm : Fin 6), s.Inv →
    let s0 : State := { s with out := [] }
    let upd (f : Arm → Arm) : State := { s0 with
      rdl := { s.rdl with arms := updNth s.rdl.arms arm f }, rdlOld := { s.rdlOld with arms := updNth s.rdlOld.arms arm f } }
    let limit (f : Arm → Arm) (b : Nat) (t : State) : Prop := ∃ u, Reported (upd f) u ∧ Flagged fnRDL b [] s u
      ∧ t = if switching s = true then blockRelease u else u
    let ticks (ns : Nat) : Nat := (ns + tickNs s - 1) / tickNs s
    let p (n : Nat) : Nat := pNat (imgOf s) n
    let silent : Prop := rdlArm s arm = true ∧ portSet s arm = none
    Gives (.demLossLimit arm) s (fun t => if armSelects s arm = true ∧ (sinkWord s 0 0 arm).v = false
      then limit (fun x => { x with demBad := max x.demBad (p 0x0810) }) 0 t else t = s0)
    ∧ Gives (.armCurrentLossLimit arm) s (fun t => if armSelects s arm = true ∧ (sinkWord s 6 0 arm).v = false
      then limit (fun x => { x with iBad := max x.iBad (ticks (p 0x0811)) }) 1 t else t = s0)
    ∧ (silent → Gives (.uplinkLossLimit arm) s (limit (fun x => { x with upBad := max x.upBad (ticks (p 0x080E)) }) 2))
    ∧ (¬ silent → ∀ x ∈ [Instr.uplinkLossLimit arm, .uplinkHoldEnd arm], Gives x s fun t => t = s0)
    ∧ (silent → (armOf s.rdl arm).upBad ≤ p 0x080D → Gives (.uplinkHoldEnd arm) s fun t =>
      let u := upd (fun x => { x with upBad := p 0x080D + 1 })
      Becomes { u with
        rdl := { u.rdl with acctOk := false, acctInv := true }, rdlOld := { u.rdlOld with acctOk := false, acctInv := true }
        fab := { s.fab with src := t.fab.src } } [regA fnRDL 0x40] s t
      ∧ (s.rdl.acctInv = false → bit (regGet t (regA fnRDL 0x40)) 3 = true))
    ∧ (let runs : Prop := s.clk.state = 2 ∧ rdlRuns s.sys.mode.code = true ∧ s.frst.inReset.testBit fnRDL = false
      (¬ runs → Gives .rdlLockstepMismatch s fun t => t = s0)
      ∧ (runs → Gives .rdlLockstepMismatch s fun t => ∃ u,
        Becomes { s with
          sys := { s.sys with repeatNext := true }
          rdl := { s.rdlOld with
            dirty := s.rdl.dirty || s.rdlOld.dirty || decide (s.rdl.failed ≠ s.rdlOld.failed), start := true }
          rdlOld := { s.rdlOld with start := true }
          fab := { s.fab with src := u.fab.src } } [regA fnRDL 0x40] s u
        ∧ bit (regGet u (regA fnRDL 0x40)) 8 = true ∧ t = if switching s = true then blockRelease u else u))

/-- R187, R189, R192, R194, R198: identification runs start in their mode where none runs, or are refused with their STATUS; an abort ends the run in
progress; the first read after a run or a capture latches it; and the precharge sequence fails, completes and lets go of its outputs.
Choices of the model: log entries 40, 96, 97. -/
def Obligations.IdentificationAndPrecharge : Prop :=
  ∀ (s : State), s.Inv →
    let s0 : State := { s with out := [] }
    let r := s.rdl
    let both (f : Rdl → Rdl) : State := { s0 with rdl := f s.rdl, rdlOld := f s.rdlOld }
    let res (st : Nat) : State := both (fun r => { r with idStat := st })
    (pfAnswers s .pf0 = true → windowOpen s fnRDL = true → ∀ leg : Fin 4,
      let starts : List Instr := [.capRunStart .pf0 0x4944, .indRunStart .pf0 0x4944 leg]
      (∀ key : BitVec 16, key ≠ 0x4944 → ∀ x ∈ [Instr.capRunStart .pf0 key, .indRunStart .pf0 key leg, .idRunAbort .pf0 key],
        Gives x s fun t => t = res 9)
      ∧ (r.run.isSome = true → ∀ x ∈ starts, Gives x s fun t => t = res 10)
      ∧ (r.run = none → Gives (.capRunStart .pf0 0x4944) s fun t => t =
        if s.sys.mode = .md4 then both (fun r => { r with
          run := some ⟨true, 0, 0, List.replicate 6 0, 0, 0, 0, 0, 0, 0, 0⟩, idStat := 1, idKind := 1 }) else res 7)
      ∧ (r.run = none → Gives (.indRunStart .pf0 0x4944 leg) s fun t => t =
        if s.sys.mode ≠ .md11 then res 7
        else if s.crd.svc.isSome = true then res 10
        else if indOk (rdlEnv s) r leg = true then both (fun r => { r with
          run := some ⟨false, leg, 0, List.replicate 6 0, 0, 0, 0, 0, 0, 0, 0⟩, idStat := 1, idKind := 2 }) else res 8)
      ∧ (r.run = none → s.rdlOld.run = none → Gives (.idRunAbort .pf0 0x4944) s fun t => t = s0)
      ∧ (r.run.isSome = true → Gives (.idRunAbort .pf0 0x4944) s fun t =>
        Reported { s with
          rdl := { r with run := none, idStat := 6, idSeq := (r.idSeq + 1) % 16, idFresh := true }, rdlOld := t.rdlOld } t
        ∧ Flagged fnRDL 10 [] s t))
    ∧ (∀ (pf : Pf) (v : Word), pfAnswers s pf = true → windowOpen s fnRDL = true →
      Gives (.smCaptureArm pf v) s (fun t =>
        t = { both (fun r => { r with sel := some (field v 11 9, field v 8 0) }) with regs := t.regs }
        ∧ RegsBut [0xC0200] s t ∧ regF t 0xC0200 11 0 = field v 11 0)
      ∧ (r.cap = none → Gives (.smStatRead pf) s fun t => t = { s0 with rdata := at_ (r.capSeqLat % 16) 4 })
      ∧ (∀ c, r.cap = some c → Gives (.smStatRead pf) s fun t =>
        t = { both (fun x => { x with cap := none, lat := c, capSeqLat := r.capSeq, capSeq := r.capSeq }) with
          rdata := at_ 1 8 ||| at_ (r.capSeq % 16) 4 })
      ∧ (r.idFresh = false ∨ r.run.isSome = true → Gives (.idStatRead pf) s fun t =>
        t = { s0 with rdata := at_ r.idStat 16 ||| at_ (r.idSeqLat % 16) 4 ||| at_ r.idKind 0 })
      ∧ (r.idFresh = true → r.run = none → Gives (.idStatRead pf) s fun t =>
        t = { both (fun r => { r with
            idFresh := false, idSeqLat := r.idSeq, idCLat := r.arms.map idCWord, idLLat := r.idL.map idLWord }) with
          rdata := at_ r.idStat 16 ||| at_ 1 8 ||| at_ (r.idSeq % 16) 4 ||| at_ r.idKind 0 }))
    ∧ (let goes (st : Nat) (cause : Nat) (f : Rdl → Rdl) : State := both (fun r => f { r with pre := { r.pre with
        state := st, cause := if st = 5 then cause else r.pre.cause, run := 0, hist := [], relPend := false } })
      Gives .preBypConfExpire s (fun t =>
        if r.pre.state = 2 ∧ pNat (imgOf s) 0x011A ≠ 16 then Reported { goes 5 1 id with fio := t.fio } t ∧ Flagged fnRDL 13 [] s t else t = s0)
      ∧ Gives .preSettleDone s (fun t =>
        if r.pre.state = 3 ∧ preSettled s = true then Reported (goes 4 0 id) t ∧ Flagged fnRDL 12 [] s t else t = s0)
      ∧ Gives .preOutputRelease s (fun t =>
        if r.pre.relPend = true then
          Reported { both (fun r => { r with pre := { r.pre with relPend := false } }) with fio := t.fio } t ∧ t.regs = s.regs
        else t = s0))

/-! ### Host interface (chapter 14) and register bus (chapter 1) -/

/-- R381 to R387: a failed read of host memory ends the request it served with its status; a function-level reset and a loss of the link return
the configuration to its reset values, halt the function's rings, end the reads that its commands started, with what the loads among them
still had to write to the peat store, and are counted; the link comes
up within GEN_CAP outside MD_0 and a running MD_1, and retrains where RETRAIN is written; a configuration write reaches its function while
the link is up, and an entry of its vector table while the function answers; and a vector unmasked sends what is pending.
Choices of the model: log entries 15, 20, 54, 73, 75, 76, 77, 276. -/
def Obligations.PcieEndpoint : Prop :=
  ∀ (s : State) (pf : Pf), s.Inv →
    let s0 : State := { s with out := [] }
    let h := s.hif
    let evt := regA fnHIF 0x40
    let same (x y : PfCfg) : Prop := x = { y with pend := x.pend }
    let put (c : PfCfg) : State := { s0 with hif := if pf = .pf0 then { h with pf0 := c } else { h with pf1 := c } }
    let loads : Bool := imgLoading s || s.sec.ucLoading.isSome || s.sec.rcv.isSome
    let work (ends : Bool) (t : State) (l : List Nat) : Prop :=
      Becomes { s with
        hif := t.hif, stk := t.stk, sec := t.sec, rcd := t.rcd
        peat := if ends then peatDrop s.peat .imageLine else s.peat } (regA fnSTK 0x40 :: evt :: l) s t
    let drops (p : Nat → Prop) (t : State) : Prop := ∀ r, r < 64 →
      (p r → ringOf t r = { ringOf s r with fence := none, done := [], fetch := (ringOf s r).pi, halted := true, cause := 3 })
      ∧ (¬ p r → ringOf t r = ringOf s r)
    let gone (t : State) : Prop :=
      (imgLoading s = true → t.sec.imgState = 0 ∧ t.sec.imgStatus = 22)
      ∧ t.sec.ucLoading = none ∧ t.sec.ucStat = (if s.sec.ucLoading.isSome = true then 8 else s.sec.ucStat)
      ∧ t.sec.rcv = none ∧ t.sec.rcvRes = (if s.sec.rcv.isSome = true then 8 else s.sec.rcvRes)
    let read (pfs : List Pf) (t : State) : Prop :=
      (∀ k, rdOf s = some k → s.rcd.rdPf ∈ pfs → t.rcd.rdStat = 7 ∧ t.rcd.rdSlot = k ∧ (slotOf t k).state = 2)
      ∧ ((rdBusy s = false ∨ s.rcd.rdPf ∉ pfs) → t.rcd = s.rcd)
    let refused (t : State) : Prop := Reported s t ∧ Flagged fnHIF 4 [] s t
    (∀ u : DmaUser, dmaBusy s u = false → Gives (.dmaError u) s fun t => t = s0)
    ∧ (∀ u : DmaUser, dmaBusy s u = true → Gives (.dmaError u) s fun t =>
      work (decide (u ∈ [.imageLoad, .ucodeLoad, .recovery])) t [] ∧ bit (regGet t evt) 3 = true
      ∧ (u = .imageLoad → t.sec.imgState = 0 ∧ t.sec.imgStatus = 22 ∧ t.rcd = s.rcd)
      ∧ (u = .ucodeLoad → t.sec = { s.sec with ucLoading := none, ucStat := 8 } ∧ t.rcd = s.rcd)
      ∧ (u = .recovery → t.sec = { s.sec with rcv := none, rcvRes := 8 } ∧ t.rcd = s.rcd)
      ∧ (u = .recorderRead → t.rcd.rdStat = 6 ∧ t.sec = s.sec ∧ t.stk = s.stk)
      ∧ (∀ r, u = .ringFetch r → (ringOf t r).halted = true ∧ (ringOf t r).cause = 2 ∧ t.sec = s.sec ∧ t.rcd = s.rcd)
      ∧ (∀ w, u = .worker w →
          t.stk = { s.stk with workers := updNth s.stk.workers w (fun k => { k with result := some ⟨7, 0, 0, 0⟩ }) }
          ∧ t.sec = s.sec ∧ t.rcd = s.rcd))
    ∧ (h.up = false → ∀ x ∈ [Instr.pcieFlr pf, .pcieLinkDown], Gives x s fun t => t = s0)
    ∧ (h.up = true → Gives (.pcieFlr pf) s fun t =>
      work (decide (pf = .pf0) && loads) t [0x40048]
      ∧ (pf = .pf0 → t.hif.pf0 = PfCfg.reset ∧ same t.hif.pf1 h.pf1 ∧ gone t)
      ∧ read [pf] t
      ∧ (pf = .pf1 → t.hif.pf1 = PfCfg.reset ∧ same t.hif.pf0 h.pf0 ∧ t.sec = s.sec)
      ∧ t.hif.up = true ∧ t.hif.gen = h.gen ∧ t.hif.width = h.width
      ∧ drops (fun r => ringPf s r = pf) t
      ∧ bit (regGet t evt) (if pf = .pf0 then 0 else 1) = true ∧ regF t 0x40048 31 16 = satInc 16 (regF s 0x40048 31 16))
    ∧ (h.up = true → Gives .pcieLinkDown s fun t =>
      work loads t [0x40048] ∧ t.hif = ⟨false, 0, 0, PfCfg.reset, PfCfg.reset⟩
      ∧ drops (fun _ => True) t ∧ gone t ∧ read [.pf0, .pf1] t
      ∧ regF t 0x40048 15 0 = satInc 16 (regF s 0x40048 15 0))
    ∧ (∀ (gen : Fin 4) (width : Fin 3),
      let may : Prop := h.up = false ∧ s.sys.mode ≠ .md0 ∧ (s.sys.mode = .md1 → s.sys.halt = true)
      Gives (.pcieLinkUp gen width) s fun t =>
        if may then
          Reported { s with hif := { h with up := true, gen := min (gen.val + 1) (max 1 (min 4 (regF s 0x40014 2 0))), width := 2 ^ width.val } } t
          ∧ Flagged fnHIF 2 [] s t
        else t = s0)
    ∧ (∀ v : Word, pfAnswers s .pf0 = true → windowOpen s fnHIF = true → Gives (.linkRetrain .pf0 v) s fun t =>
      RegsBut [0x40014] s t ∧ regF t 0x40014 2 0 = field v 2 0
      ∧ (bit v 3 = true → h.up = true → 1 ≤ t.hif.gen ∧ t.hif.gen ≤ max 1 (min 4 (field v 2 0))
        ∧ t = { s0 with regs := t.regs, free := s.free + 1, hif := { h with gen := t.hif.gen } })
      ∧ ((bit v 3 = false ∨ h.up = false) → t = { s0 with regs := t.regs }))
    ∧ (∀ f : CfgField,
      let c := pfOf s pf
      let reaches : Bool := match f with
        | .vector _ _ _ => pfAnswers s pf
        | _ => h.up
      (reaches = true → Gives (.configSpaceWrite pf f) s fun t => t = put (match f with
        | .powerState b => { c with d3hot := b }
        | .memSpace b => { c with memSp := b }
        | .busMaster b => { c with busM := b }
        | .msixEnable b => { c with msixEn := b }
        | .vector k a d => { c with table := tabSet (0, 0) c.table k (a, d) }))
      ∧ (h.up = false → Gives (.configSpaceWrite pf f) s fun t => t = s0)
      ∧ (reaches = false → h.up = true → Gives (.configSpaceWrite pf f) s refused))
    ∧ (∀ vec : Fin 64,
      let c := pfOf s pf
      let b : DWord := BitVec.ofNat 64 (2 ^ vec.val)
      (h.up = false → Gives (.msixUnmask pf vec) s fun t => t = s0)
      ∧ (pfAnswers s pf = false → h.up = true → Gives (.msixUnmask pf vec) s refused)
      ∧ (pfAnswers s pf = true → Gives (.msixUnmask pf vec) s fun t => t =
        if c.pend.getLsbD vec ∧ c.msixEn ∧ c.busM then
          { put { c with mask := c.mask &&& ~~~b, pend := c.pend &&& ~~~b } with
            out := [.msix pf vec.val (tabGet (0, 0) c.table vec.val).1 (tabGet (0, 0) c.table vec.val).2] }
        else put { c with mask := c.mask &&& ~~~b }))

/-- R14 to R16, R18, R19, R382, R383: a write reaches a register that answers: its RW and RWS bits take the value and its W1C bits written 1 clear; a
64-bit register takes both words with the upper; and a write where nothing answers, to a closed window, to a reserved address, of a wrong
size, from PF1 to a register of PF0 or to a shadow register that R249 bars changes no register; where the link is up, one to a function that
does not answer is an unsupported request.
Choices of the model: log entries 8, 9, 14, 15, 16, 17. -/
def Obligations.RegisterWrites : Prop :=
  ∀ (s : State) (pf : Pf) (addr : BitVec 23) (v : Word), s.Inv →
    let s0 : State := { s with out := [] }
    let a := addr.toNat
    let writes : List Instr := [.regWrite pf addr v, .reg64LowerWrite pf addr v, .reg64UpperWrite pf addr v]
    let opens : Prop := pfAnswers s pf = true ∧ windowOpen s (a / 0x10000) = true
    let plain : Prop := rowOf pf a v = none ∧ inRows a 0x51000 0x20 64 = none ∧ inRows a 0x100100 0x40 24 = none
      ∧ inRows a 0x120100 0x20 32 = none ∧ a ≠ 0x110018 ∧ (hasEvt (a / 0x10000) = true → a % 0x10000 ≠ 0x40 ∧ a % 0x10000 ≠ 0x44)
    let stored (d : RegDef) (h : Bool) (x old : Word) : Word :=
      mergeMask old x (halfOf h (d.rw ||| d.rws)) &&& ~~~(x &&& halfOf h d.w1c)
    (pfAnswers s pf = false → ∀ x ∈ writes ++ [.regBadAccess pf addr .sizeWrite, .regBadAccess pf addr (.reservedWrite v)],
      (s.hif.up = false → Gives x s fun t => t = s0)
      ∧ (s.hif.up = true → Gives x s fun t => Reported s t ∧ Flagged fnHIF 4 [] s t))
    ∧ (pfAnswers s pf = true → a % 4 ≠ 0 → ∀ x ∈ writes, Gives x s (Becomes s [] s))
    ∧ (pfAnswers s pf = true → a / 0x10000 < 23 → windowOpen s (a / 0x10000) = false →
      ∀ x ∈ writes ++ [.regBadAccess pf addr .sizeWrite, .regBadAccess pf addr (.reservedWrite v)], Gives x s fun t => t = s0)
    ∧ (opens → a % 4 = 0 → regDefOf a = none → ∀ x ∈ writes, Gives x s (Becomes s [] s))
    ∧ (opens → ∀ x ∈ [Instr.regBadAccess pf addr .sizeWrite, .regBadAccess pf addr (.reservedWrite v)], Gives x s (Becomes s [] s))
    ∧ (∀ d i h, regDefOf a = some (d, i, h) → a % 4 = 0 →
      (opens → d.pf0 = true → pf = .pf1 → a ≠ 0x30 → ∀ x ∈ writes, Gives x s (Becomes s [] s))
      ∧ (opens → ¬ (d.pf0 = true ∧ pf = .pf1) → d.wide = true → h = true → ∀ n, inRows (a - 4) 0x100100 0x40 24 = some n → n.2 = 8 →
        (shadowBar s pf n.1).isSome = true → ∀ x ∈ writes, Gives x s (Becomes s [] s))
      ∧ (opens → ¬ (d.pf0 = true ∧ pf = .pf1) → plain →
        (d.wide = false → ∀ x ∈ writes, Gives x s fun t =>
          t = { s0 with regs := t.regs } ∧ RegsBut [a] s t ∧ regGet t a = stored d h v (regGet s a))
        ∧ (d.wide = true → h = false → ∀ x ∈ writes, Gives x s fun t =>
          t = { s0 with hold64 := tabSet none s.hold64 a (some v) })
        ∧ (d.wide = true → h = true → inRows (a - 4) 0x51000 0x20 64 = none → inRows (a - 4) 0x100100 0x40 24 = none →
          ∀ x ∈ writes, Gives x s fun t =>
            let low := (tabGet none s.hold64 (a - 4)).getD (if d.w1c ≠ 0 then 0 else regView s (a - 4))
            t = { s0 with regs := t.regs, hold64 := tabErase s.hold64 (a - 4) } ∧ RegsBut [a - 4, a] s t
            ∧ regGet t (a - 4) = stored d false low (regGet s (a - 4)) ∧ regGet t a = stored d true v (regGet s a))))
    ∧ (pf = .pf0 → opens → ∀ x ∈ [(0x24, Instr.modeRequest .pf0 v), (0x30, .moduleReset .pf0 v), (0x100, .functionReset .pf0 v),
        (0x10010, .clkCfgWrite .pf0 v), (0x20030, .domselWrite .pf0 v), (0x60010, .rickPower .pf0 v), (0x70014, .scrubNow .pf0 v),
        (0xA0200, .peekArm .pf0 v), (0x150020, .fioOutWr .pf0 v)], a = x.1 → exec (.regWrite .pf0 addr v) s = exec x.2 s)
    ∧ (∀ (fn : Fin 23) (en : Bool), hasEvt fn = true → pfAnswers s pf = true → windowOpen s fn = true → Gives (.evtRegWrite pf fn en v) s fun t =>
      let r := regA fn 0x40
      t = { s0 with regs := t.regs, out := t.out, hif := t.hif } ∧ Reported s t ∧ RegsBut [r, r + 4] s t
      ∧ (en = false → regGet t r = regGet s r &&& ~~~v ∧ regGet t (r + 4) = regGet s (r + 4))
      ∧ (en = true → regGet t r = regGet s r ∧ regGet t (r + 4) &&& ~~~v = 0)
      ∧ (regGet t r &&& regGet t (r + 4) = 0 → t.out = [] ∧ t.hif = s.hif))

/-- R14 to R16, R383: a read answers the register as it stands; the lower word of a 64-bit register latches the upper, which its next read returns; a
closed window and a wrong size read all ones, and a reserved address zero; where the link is up, a read of a function that does not
answer is an unsupported request.
Choices of the model: log entries 8, 9, 14, 15. -/
def Obligations.RegisterReads : Prop :=
  ∀ (s : State) (pf : Pf) (addr : BitVec 23),
    let s0 : State := { s with out := [] }
    let a := addr.toNat
    let opens : Prop := pfAnswers s pf = true ∧ windowOpen s (a / 0x10000) = true
    let closed : Prop := pfAnswers s pf = true ∧ a / 0x10000 < 23 ∧ windowOpen s (a / 0x10000) = false
    let read : Instr := .reg64LowerRead pf addr
    (pfAnswers s pf = false → ∀ x ∈ [read, .regBadAccess pf addr .sizeRead, .regBadAccess pf addr .reservedRead],
      (s.hif.up = false → Gives x s fun t => t = s0)
      ∧ (s.hif.up = true → s.Inv → Gives x s fun t => Reported s t ∧ Flagged fnHIF 4 [] s t))
    ∧ (closed → ∀ x ∈ [read, Instr.regBadAccess pf addr .sizeRead, .regBadAccess pf addr .reservedRead], Gives x s fun t =>
        t = { s0 with rdata := 0xFFFFFFFF })
    ∧ (pfAnswers s pf = true → a % 4 ≠ 0 → Gives read s fun t => Becomes { s with rdata := 0xFFFFFFFF } [] s t)
    ∧ (opens → Gives (.regBadAccess pf addr .sizeRead) s (Becomes { s with rdata := 0xFFFFFFFF } [] s))
    ∧ (opens → Gives (.regBadAccess pf addr .reservedRead) s (Becomes { s with rdata := 0 } [] s))
    ∧ (opens → a % 4 = 0 → regDefOf a = none → Gives read s (Becomes { s with rdata := 0 } [] s))
    ∧ (∀ d i h, regDefOf a = some (d, i, h) → opens → a % 4 = 0 → readRowOf pf a = none →
      (d.wide = false → Gives read s fun t => t = { s0 with rdata := regView s a })
      ∧ (d.wide = true → h = false → Gives read s fun t =>
        t = { s0 with rdata := regView s a, latch64 := tabSet none s.latch64 (a + 4) (some (regView s (a + 4))) })
      ∧ (d.wide = true → h = true → Gives read s fun t =>
        t = { s0 with rdata := (tabGet none s.latch64 a).getD (regView s a), latch64 := tabErase s.latch64 a }))

/-! ### The tick (chapter 1) -/

/-- R27, R28, R30, R319, R365: a boundary stands at a multiple of the tick, at least half a tick after the SYS time base, counts the tick, and ends a gap of the
clocks; an overrun repeats the last completed tick's frames, drops its compare values, holds the riddle engine, is counted with its phase,
and the second within 16 ticks blocks and releases; a mismatch of the time base blocks and releases.
Choices of the model: log entries 5, 29, 95. -/
def Obligations.TicksAndOverruns : Prop :=
  ∀ (s : State), s.Inv →
    let s0 : State := { s with out := [] }
    let v := (tbOf s (sysTb s)).val
    (∀ us build offs skip, (s.sys.mode = .md0 ∨ s.clk.state ≠ 2) → Gives (.tickBoundary us build offs skip) s fun t => t = s0)
    ∧ (∀ us build offs skip, s.sys.mode ≠ .md0 → s.clk.state = 2 → Gives (.tickBoundary us build offs skip) s fun t =>
      t.sys.tickCnt = s.sys.tickCnt + 1 ∧ t.sys.bound % tickNs s = 0 ∧ (s.frst.held = 0 → t.clk.gap = false) ∧ t.clk.lost = none
      ∧ tickNs s * 65536 ≤ 2 * (t.sys.bound * 65536 - v)
      ∧ (s.clk.gap = false → 2 * (t.sys.bound * 65536 - v) ≤ 3 * (tickNs s * 65536))
      ∧ (s.sys.mode = .md1 → t.sys.mode = .md1 ∧ t.sys.causes = s.sys.causes))
    ∧ (let runs : Prop := s.clk.state = 2 ∧ 2 ≤ s.sys.mode.code ∧ s.sys.mode ≠ .md3 ∧ s.sys.ovrAt ≠ some s.sys.tickCnt
      let second : Prop := s.sys.ovrAt.any (fun c => decide (s.sys.tickCnt ≤ c + 16)) = true
      ∀ ph : Fin 5, (¬ runs → Gives (.tickOverrun ph) s fun t => t = s0)
      ∧ (runs → Gives (.tickOverrun ph) s fun t =>
        t.sys.repeatNext = true ∧ t.sys.ovrAt = some s.sys.tickCnt ∧ t.sys.tickCnt = s.sys.tickCnt ∧ t.sys.mode = s.sys.mode
        ∧ t.rdl = { s.rdlOld with dirty := s.rdl.dirty || s.rdlOld.dirty || decide (s.rdl.failed ≠ s.rdlOld.failed) } ∧ (∀ n, n < 24 → (chanOf t n).cmp = none)
        ∧ regF t 0x110 31 16 = satInc 16 (regF s 0x110 31 16) ∧ regF t 0x110 10 8 = ph.val + 1
        ∧ (second → (s.sys.mode.blockable = true → t.sys.blockNext = true) ∧ ∀ n, n < 24 → (chanOf t n).state ∉ [1, 2, 3])))
    ∧ Gives .sysTbMismatch s (fun t => t =
      if s.sys.mode.blockable = true then { s0 with sys := { s.sys with
        causes := if ⟨.blockRelease, .md2, none, 0⟩ ∈ s.sys.causes then s.sys.causes else s.sys.causes ++ [⟨.blockRelease, .md2, none, 0⟩]
        blockNext := true, relCause := if s.sys.blockNext then s.sys.relCause else 3 } } else s0)

end
end

