-- ==== Sys2Proof/Laws/Tab.lean ====
section
/-!
SUPPORT. The laws of sparse tables: reading after writing, and that every operation keeps the canonical form.
-/
namespace Sys2Proof.Machine
set_option Elab.async false

variable {α : Type}

theorem tabGet_insert_same (d : α) (t : Tab α) (k : Nat) (v : α) : tabGet d (tabInsert t k v) k = v := by
  induction t with
  | nil => simp [tabInsert, tabGet]
  | cons x t ih => simp only [tabInsert]; split <;> (try split) <;> simp_all [tabGet]

theorem tabGet_insert_other (d : α) (t : Tab α) (k j : Nat) (v : α) (h : j ≠ k) :
    tabGet d (tabInsert t k v) j = tabGet d t j := by
  induction t with
  | nil => simp [tabInsert, tabGet, Ne.symm h]
  | cons x t ih => simp only [tabInsert]; split <;> (try split) <;> simp_all [tabGet, Ne.symm h]

theorem tabGet_erase_other (d : α) (t : Tab α) (k j : Nat) (h : j ≠ k) : tabGet d (tabErase t k) j = tabGet d t j := by
  induction t with
  | nil => rfl
  | cons x t ih =>
    simp only [tabErase]
    split
    · next e => simp [tabGet, e, Ne.symm h]
    · split
      · rfl
      · simp [tabGet, ih]

variable [DecidableEq α]

/-- A table whose keys start higher is also one whose keys start lower. -/
theorem tabWfFrom_mono {d : Nat → α} {lo hi : Nat} (h : lo ≤ hi) : ∀ {t : Tab α}, tabWfFrom d hi t = true → tabWfFrom d lo t = true
  | [], _ => rfl
  | (k, v) :: t, w => by
    simp only [tabWfFrom, Bool.and_eq_true, decide_eq_true_eq] at w ⊢
    exact ⟨⟨Nat.le_trans h w.1.1, w.1.2⟩, w.2⟩

/-- Below its first key a canonical table reads as unlisted. -/
theorem tabGet_below {d : Nat → α} {lo k : Nat} (c : α) (h : k < lo) : ∀ {t : Tab α}, tabWfFrom d lo t = true → tabGet c t k = c
  | [], _ => rfl
  | (j, v) :: t, w => by
    simp only [tabWfFrom, Bool.and_eq_true, decide_eq_true_eq] at w
    have hne : j ≠ k := by omega
    simp only [tabGet, hne, ite_false]
    exact tabGet_below c (by omega) w.2

theorem tabWfFrom_erase {d : Nat → α} (k : Nat) : ∀ {t : Tab α} {lo : Nat}, tabWfFrom d lo t = true → tabWfFrom d lo (tabErase t k) = true
  | [], _, _ => rfl
  | (j, v) :: t, lo, w => by
    have w' := w
    simp only [tabWfFrom, Bool.and_eq_true, decide_eq_true_eq] at w
    simp only [tabErase]
    split
    · exact tabWfFrom_mono (by omega) w.2
    · split
      · exact w'
      · simp only [tabWfFrom, Bool.and_eq_true, decide_eq_true_eq]
        exact ⟨w.1, tabWfFrom_erase k w.2⟩

theorem tabWfFrom_insert {d : Nat → α} {k : Nat} {v : α} (hv : v ≠ d k) :
    ∀ {t : Tab α} {lo : Nat}, lo ≤ k → tabWfFrom d lo t = true → tabWfFrom d lo (tabInsert t k v) = true
  | [], _, h, _ => by simp [tabInsert, tabWfFrom, h, hv]
  | (j, u) :: t, lo, h, w => by
    have w' := w
    simp only [tabWfFrom, Bool.and_eq_true, decide_eq_true_eq] at w
    simp only [tabInsert]
    split
    · next e => subst e; simp only [tabWfFrom, Bool.and_eq_true, decide_eq_true_eq]; exact ⟨⟨h, hv⟩, w.2⟩
    · split
      · next _ hlt =>
        simp only [tabWfFrom, Bool.and_eq_true, decide_eq_true_eq]
        exact ⟨⟨h, hv⟩, ⟨by omega, w.1.2⟩, w.2⟩
      · simp only [tabWfFrom, Bool.and_eq_true, decide_eq_true_eq]
        exact ⟨w.1, tabWfFrom_insert hv (by omega) w.2⟩

/-- A write keeps the canonical form. -/
theorem tabWf_set {d : Nat → α} {t : Tab α} {k : Nat} {v : α} (w : tabWf d t = true) : tabWf d (tabSet (d k) t k v) = true := by
  unfold tabSet
  split
  · exact tabWfFrom_erase k w
  · next h => exact tabWfFrom_insert h (Nat.zero_le _) w

/-- The same where every unlisted key reads as one value. -/
theorem tabWf_set_const {d : α} {t : Tab α} {k : Nat} {v : α} (w : tabWf (fun _ => d) t = true) :
    tabWf (fun _ => d) (tabSet d t k v) = true := tabWf_set (d := fun _ => d) w

/-- Forgetting entries keeps the canonical form. -/
theorem tabWfFrom_filter {d : Nat → α} (p : Nat × α → Bool) :
    ∀ {t : Tab α} {lo : Nat}, tabWfFrom d lo t = true → tabWfFrom d lo (t.filter p) = true
  | [], _, _ => rfl
  | (j, u) :: t, lo, w => by
    simp only [tabWfFrom, Bool.and_eq_true, decide_eq_true_eq] at w
    have ih := tabWfFrom_filter p w.2
    by_cases hp : p (j, u) = true
    · rw [List.filter_cons_of_pos hp]
      simp only [tabWfFrom, Bool.and_eq_true, decide_eq_true_eq]
      exact ⟨w.1, ih⟩
    · rw [List.filter_cons_of_neg hp]
      exact tabWfFrom_mono (by omega) ih

theorem tabWf_filter {d : Nat → α} {t : Tab α} (p : Nat × α → Bool) (w : tabWf d t = true) : tabWf d (t.filter p) = true :=
  tabWfFrom_filter p w

/-- A read after a write to the same key of a canonical table gives the value written. -/
theorem tabGet_set_same {d : Nat → α} {t : Tab α} {k : Nat} {v : α} (w : tabWf d t = true) :
    tabGet (d k) (tabSet (d k) t k v) k = v := by
  unfold tabSet
  split
  · next h =>
    subst h
    have : ∀ {t : Tab α} {lo : Nat}, tabWfFrom d lo t = true → tabGet (d k) (tabErase t k) k = d k := by
      intro t
      induction t with
      | nil => intros; rfl
      | cons x t ih =>
        intro lo w
        obtain ⟨j, u⟩ := x
        simp only [tabWfFrom, Bool.and_eq_true, decide_eq_true_eq] at w
        simp only [tabErase]
        split
        · next e => exact tabGet_below (d k) (by omega) w.2
        · next hne =>
          split
          · next hlt =>
            simp only [tabGet, if_neg hne]
            exact tabGet_below (d k) (by omega) w.2
          · simp only [tabGet, if_neg hne]
            exact ih w.2
    exact this w
  · exact tabGet_insert_same _ _ _ _

/-- A write to one key leaves every other key as it was. -/
theorem tabGet_set_other (d c : α) (t : Tab α) (k j : Nat) (v : α) (h : j ≠ k) : tabGet c (tabSet d t k v) j = tabGet c t j := by
  unfold tabSet
  split
  · exact tabGet_erase_other c t k j h
  · exact tabGet_insert_other c t k j v h

/-- The stored value of a counter that is only ever raised. -/
theorem tabGet_set_raise {t : Tab Nat} {k v j : Nat} (h : tabGet 0 t k ≤ v) (hv : v ≠ 0) :
    tabGet 0 t j ≤ tabGet 0 (tabSet 0 t k v) j := by
  unfold tabSet
  rw [if_neg hv]
  by_cases e : j = k
  · subst e; rw [tabGet_insert_same]; exact h
  · exact Nat.le_of_eq (tabGet_insert_other _ _ _ _ _ e).symm

/-- Dropping registers to their reset values keeps the canonical form. -/
theorem tabWfFrom_regsFrst (fn : Nat) (keep : Nat → Bool) :
    ∀ {t : Tab Word} {lo : Nat}, tabWfFrom regReset lo t = true → tabWfFrom regReset lo (regsFrst fn keep t) = true
  | [], _, _ => rfl
  | (j, u) :: t, lo, w => by
    simp only [tabWfFrom, Bool.and_eq_true, decide_eq_true_eq] at w
    have ih := tabWfFrom_regsFrst fn keep w.2
    simp only [regsFrst]
    split
    · split
      · exact tabWfFrom_mono (by omega) ih
      · next h =>
        simp only [tabWfFrom, Bool.and_eq_true, decide_eq_true_eq]
        exact ⟨⟨w.1.1, h⟩, ih⟩
    · simp only [tabWfFrom, Bool.and_eq_true, decide_eq_true_eq]
      exact ⟨w.1, ih⟩

theorem tabWf_regsFrst (fn : Nat) (keep : Nat → Bool) {t : Tab Word} (w : tabWf regReset t = true) :
    tabWf regReset (regsFrst fn keep t) = true :=
  tabWfFrom_regsFrst fn keep w

theorem tabWf_regsFrst_foldl (keep : Nat → Bool) : ∀ (fns : List Nat) {t : Tab Word}, tabWf regReset t = true →
    tabWf regReset (fns.foldl (fun t fn => regsFrst fn keep t) t) = true
  | [], _, w => w
  | fn :: fns, _, w => tabWf_regsFrst_foldl keep fns (tabWf_regsFrst fn keep w)

end Sys2Proof.Machine
end

