-- ==== Sys2Proof/Laws/Keep.lean ====
section
/-!
SUPPORT. The relation that every operation keeps: what no command changes, what it only raises, and which of the rarer changes (of the
mode, of the safe lock-out, of the tick) it leaves alone. Each operation has one lemma of this form.
-/
namespace Sys2Proof.Machine
set_option Elab.async false

/-- From `s` to `t` the queue is the same, the stores stay well kept and no anti-rollback counter goes back; with `m` the mode is the same
or MD_10, with `l` a safe lock-out stays, and with `k` the tick is the same. -/
structure Keep (m l k : Bool) (s t : State) : Prop where
  queue : t.pending = s.pending
  inv   : s.Inv → t.Inv
  arc   : ArcLe s.peat t.peat
  mode  : m = true → t.sys.mode = s.sys.mode ∨ t.sys.mode = .md10
  lock  : l = true → s.saf.lock = true → t.saf.lock = true
  tick  : k = true → t.sys.tickCnt = s.sys.tickCnt ∧ t.sys.bound = s.sys.bound

variable {m l k : Bool} {s0 s t : State}

theorem Keep.refl (m l k : Bool) (s : State) : Keep m l k s s :=
  ⟨rfl, id, fun _ => Nat.min_le_left _ _, fun _ => .inl rfl, fun _ => id, fun _ => ⟨rfl, rfl⟩⟩

theorem Keep.trans {u : State} (a : Keep m l k s t) (b : Keep m l k t u) : Keep m l k s u where
  queue := b.queue.trans a.queue
  inv h := b.inv (a.inv h)
  arc j := Nat.le_trans (Nat.le_min.2 ⟨a.arc j, Nat.min_le_right _ _⟩) (b.arc j)
  mode h := by
    rcases b.mode h with e | e
    · rcases a.mode h with f | f
      · exact .inl (e.trans f)
      · exact .inr (e.trans f)
    · exact .inr e
  lock h g := b.lock h (a.lock h g)
  tick h := ⟨(b.tick h).1.trans (a.tick h).1, (b.tick h).2.trans (a.tick h).2⟩

/-- Every clause together gives any of them. -/
theorem Keep.weaken (a : Keep true true true s t) : Keep m l k s t :=
  ⟨a.queue, a.inv, a.arc, fun _ => a.mode rfl, fun _ => a.lock rfl, fun _ => a.tick rfl⟩

@[simp] theorem length_updNth {α : Type} (l : List α) (n : Nat) (f : α → α) : (updNth l n f).length = l.length := by
  simp [updNth]

@[simp] theorem length_setNth {α : Type} (l : List α) (n : Nat) (v : α) : (setNth l n v).length = l.length := by
  simp [setNth]

/-- The clauses of the change of one state, where the parts they speak of are the same. -/
theorem Keep.same (h1 : t.pending = s.pending) (h2 : t.mem.dev = s.mem.dev) (h3 : t.mem.pwr = s.mem.pwr) (h4 : t.regs = s.regs)
    (h5 : t.log.ring = s.log.ring) (h6 : t.peat.arc = s.peat.arc) (h7 : t.sys.mode = s.sys.mode)
    (h8 : t.saf.lock = s.saf.lock) (h9 : t.sys.tickCnt = s.sys.tickCnt) (h10 : t.sys.bound = s.sys.bound)
    (h11 : s.Shape → t.Shape) : Keep m l k s t where
  queue := h1
  inv h := by
    unfold State.Inv EvLog.wf at h ⊢
    rw [h2, h3, h4, h5]
    exact ⟨h.1, h.2.1, h.2.2.1, h.2.2.2.1, h11 h.2.2.2.2⟩
  arc j := by rw [h6]; exact Nat.min_le_left _ _
  mode _ := .inl h7
  lock _ h := by rw [h8]; exact h
  tick _ := ⟨h9, h10⟩

/-- A state is changed in parts that no clause speaks of. -/
theorem keep_mk {fr ou rd h6 l6 sy sa fs tm lg im fa sw so rl ro cr tx gg ad rc ck ti fi mo hi st re sf me se pe}
    (h : Keep m l k s0 s) (h1 : sy.mode = s.sys.mode) (h2 : sy.tickCnt = s.sys.tickCnt) (h3 : sy.bound = s.sys.bound)
    (h4 : lg.ring = s.log.ring) (h5 : sf.lock = s.saf.lock) (h7 : me.dev = s.mem.dev) (h8 : me.pwr = s.mem.pwr)
    (h9 : pe.arc = s.peat.arc)
    (h11 : s.sa.length = 64 → sa.length = 64 := by first | exact id | exact fun _ => by simp_all [Crd.wf, Ggd.wf, Adc.wf, Tim.wf, Stk.wf])
    (h12 : s.crd.wf → cr.wf := by first | exact id | exact fun _ => by simp_all [Crd.wf, Ggd.wf, Adc.wf, Tim.wf, Stk.wf])
    (h13 : s.ggd.wf → gg.wf := by first | exact id | exact fun _ => by simp_all [Crd.wf, Ggd.wf, Adc.wf, Tim.wf, Stk.wf])
    (h14 : s.adc.wf → ad.wf := by first | exact id | exact fun _ => by simp_all [Crd.wf, Ggd.wf, Adc.wf, Tim.wf, Stk.wf])
    (h15 : s.tim.wf → ti.wf := by first | exact id | exact fun _ => by simp_all [Crd.wf, Ggd.wf, Adc.wf, Tim.wf, Stk.wf])
    (h16 : s.stk.wf → st.wf := by first | exact id | exact fun _ => by simp_all [Crd.wf, Ggd.wf, Adc.wf, Tim.wf, Stk.wf])
    (h17 : s.txRd.length = 50 → tx.length = 50 := by first | exact fun h => h | exact fun h => (length_setNth _ _ _).trans h) :
    Keep m l k s0 ⟨s.pending, fr, ou, rd, s.regs, h6, l6, sy, sa, fs, tm, lg, im, fa, sw, so, rl, ro, cr, tx, gg, ad, rc, ck, ti, fi, mo,
      hi, st, re, sf, me, se, pe⟩ :=
  h.trans (Keep.same rfl h7 h8 rfl h4 h9 h1 h5 h2 h3
    fun i => ⟨h11 i.1, h17 i.2.1, h12 i.2.2.1, h13 i.2.2.2.1, h14 i.2.2.2.2.1, h15 i.2.2.2.2.2.1, h16 i.2.2.2.2.2.2⟩)

/-- Both ways of a choice; the first often goes on from the second. -/
theorem keep_ite {c : Prop} [Decidable c] {a b : State} (hb : Keep m l k s0 b) (ha : Keep m l k s0 b → Keep m l k s0 a) :
    Keep m l k s0 (if c then a else b) := by split <;> simp_all

theorem keep_ite_fst {α : Type} {c : Prop} [Decidable c] {a b : State × α} (hb : Keep m l k s0 b.1)
    (ha : Keep m l k s0 b.1 → Keep m l k s0 a.1) :
    Keep m l k s0 (if c then a else b).1 := by split <;> simp_all

theorem keep_ite_snd {α : Type} {c : Prop} [Decidable c] {a b : α × State} (hb : Keep m l k s0 b.2)
    (ha : Keep m l k s0 b.2 → Keep m l k s0 a.2) :
    Keep m l k s0 (if c then a else b).2 := by split <;> simp_all

/-- A fold over a list. -/
theorem keep_foldl {α : Type} {f : State → α → State} (hf : ∀ s a, Keep m l k s0 s → Keep m l k s0 (f s a)) :
    ∀ (xs : List α) {s : State}, Keep m l k s0 s → Keep m l k s0 (xs.foldl f s)
  | [], _, h => h
  | x :: xs, _, h => keep_foldl hf xs (hf _ x h)

/-- A fold that carries something beside the state. -/
theorem keep_foldl_snd {α β : Type} {f : β × State → α → β × State}
    (hf : ∀ p a, Keep m l k s0 p.2 → Keep m l k s0 (f p a).2) :
    ∀ (xs : List α) {p : β × State}, Keep m l k s0 p.2 → Keep m l k s0 (xs.foldl f p).2
  | [], _, h => h
  | x :: xs, _, h => keep_foldl_snd hf xs (hf _ x h)

/-- The same with the state first. -/
theorem keep_foldl_fst {α β : Type} {f : State × β → α → State × β}
    (hf : ∀ p a, Keep m l k s0 p.1 → Keep m l k s0 (f p a).1) :
    ∀ (xs : List α) {p : State × β}, Keep m l k s0 p.1 → Keep m l k s0 (xs.foldl f p).1
  | [], _, h => h
  | x :: xs, _, h => keep_foldl_fst hf xs (hf _ x h)

theorem keep_of_snd {α : Type} {p : α × State} {a : α} (e : p = (a, s)) (h : Keep m l k s0 p.2) : Keep m l k s0 s := by
  subst e; exact h

theorem keep_of_snd3 {α β : Type} {p : α × β × State} {a : α} {b : β} (e : p = (a, b, s)) (h : Keep m l k s0 p.2.2) : Keep m l k s0 s := by
  subst e; exact h

theorem keep_of_fst {α : Type} {p : State × α} {a : α} (e : p = (s, a)) (h : Keep m l k s0 p.1) : Keep m l k s0 s := by
  subst e; exact h

/-- What a command answers keeps the relation. -/
def KeepO (m l k : Bool) (s : State) (o : Host.Outcome State Fault Refusal) : Prop := ∀ t, o = .next t → Keep m l k s t

theorem keepO_next (h : Keep m l k s0 t) : KeepO m l k s0 (.next t) := fun _ e => by
  injection e with e; exact e ▸ h

theorem KeepO.from {o : Host.Outcome State Fault Refusal} (h : Keep m l k s0 s) (ho : KeepO m l k s o) : KeepO m l k s0 o :=
  fun t e => h.trans (ho t e)

theorem keepO_ite {c : Prop} [Decidable c] {a b : Host.Outcome State Fault Refusal} (ha : KeepO m l k s0 a)
    (hb : KeepO m l k s0 b) : KeepO m l k s0 (if c then a else b) := by split <;> assumption

/-- The mode becomes MD_10. -/
theorem keep_md10 {f : Sys → Sys} (h : Keep m l k s0 s) (hm : (f s.sys).mode = .md10) (h1 : (f s.sys).tickCnt = s.sys.tickCnt)
    (h2 : (f s.sys).bound = s.sys.bound) : Keep m l k s0 { s with sys := f s.sys } :=
  ⟨h.queue, h.inv, h.arc, fun _ => .inr hm, h.lock, fun i => ⟨h1.trans (h.tick i).1, h2.trans (h.tick i).2⟩⟩

/-- Where the mode is not looked at it may change. -/
theorem keep_mode {f : Sys → Sys} (h : Keep false l k s0 s) (h1 : (f s.sys).tickCnt = s.sys.tickCnt)
    (h2 : (f s.sys).bound = s.sys.bound) : Keep false l k s0 { s with sys := f s.sys } :=
  ⟨h.queue, h.inv, h.arc, nofun, h.lock, fun i => ⟨h1.trans (h.tick i).1, h2.trans (h.tick i).2⟩⟩

/-- The safe lock-out is set. -/
theorem keep_locked {f : Saf} (h : Keep m l k s0 s) (hf : f.lock = true) : Keep m l k s0 { s with saf := f } :=
  ⟨h.queue, h.inv, h.arc, h.mode, fun _ _ => hf, h.tick⟩

/-- The peat store changes, and no counter goes back. -/
theorem keep_peat {p : Peat} (h : Keep m l k s0 s) (hp : ArcLe s.peat p) : Keep m l k s0 { s with peat := p } :=
  h.trans ⟨rfl, id, hp, fun _ => .inl rfl, fun _ => id, fun _ => ⟨rfl, rfl⟩⟩

theorem ArcLe.of_eq {p q : Peat} (h : q.arc = p.arc) : ArcLe p q := fun j => by rw [h]; exact Nat.min_le_left _ _

/-- One register is written. -/
theorem keep_regSet {a : Nat} {v : Word} (h : Keep m l k s0 s) : Keep m l k s0 (regSet s a v) where
  queue := h.queue
  inv i := ⟨(h.inv i).1, tabWf_set (h.inv i).2.1, (h.inv i).2.2⟩
  arc := h.arc
  mode := h.mode
  lock := h.lock
  tick := h.tick

end Sys2Proof.Machine
end

