-- ==== Sys2Proof/Laws/KeepFlags.lean ====
section
/-!
SUPPORT. What every operation of Machine/Flags.lean keeps.
-/
namespace Sys2Proof.Machine
set_option Elab.async false

variable {m l k : Bool} {s0 : State}

theorem regPut_keep {s : State} {a hi lo v : Nat} (h : Keep m l k s0 s) : Keep m l k s0 (regPut s a hi lo v) :=
  keep_regSet h

theorem regInc_keep {s : State} {a hi lo : Nat} (h : Keep m l k s0 s) : Keep m l k s0 (regInc s a hi lo) :=
  keep_regSet h

theorem begin_keep {s : State} (h : Keep m l k s0 s) : Keep m l k s0 (begin s) := by
  unfold begin
  repeat' with_reducible first
    | assumption
    | refine keep_ite ?_ (fun _ => ?_)
    | refine keep_mk ?_ rfl rfl rfl rfl rfl rfl rfl rfl

theorem send_keep {s : State} {o : Out} (h : Keep m l k s0 s) : Keep m l k s0 (send s o) := by
  unfold send
  repeat' with_reducible first
    | assumption
    | refine keep_ite ?_ (fun _ => ?_)
    | refine keep_mk ?_ rfl rfl rfl rfl rfl rfl rfl rfl

theorem setPf_keep {s : State} {pf : Pf} {c : PfCfg} (h : Keep m l k s0 s) : Keep m l k s0 (setPf s pf c) := by
  unfold setPf
  repeat' with_reducible first
    | assumption
    | refine keep_ite ?_ (fun _ => ?_)
    | refine keep_mk ?_ rfl rfl rfl rfl rfl rfl rfl rfl

theorem msix_keep {s : State} {pf : Pf} {vec : Nat} (h : Keep m l k s0 s) : Keep m l k s0 (msix s pf vec) := by
  unfold msix
  repeat' with_reducible first
    | assumption
    | refine setPf_keep ?_
    | refine send_keep ?_
    | refine keep_ite ?_ (fun _ => ?_)

theorem msixBoth_keep {s : State} {vec : Nat} (h : Keep m l k s0 s) : Keep m l k s0 (msixBoth s vec) := by
  unfold msixBoth
  repeat' with_reducible first
    | assumption
    | refine msix_keep ?_

theorem setFlag_keep {s : State} {fn : Nat} {b : Nat} (h : Keep m l k s0 s) : Keep m l k s0 (setFlag s fn b) := by
  unfold setFlag
  repeat' with_reducible first
    | assumption
    | refine keep_regSet ?_
    | refine msixBoth_keep ?_
    | refine keep_ite ?_ (fun _ => ?_)

end Sys2Proof.Machine
end

