-- ==== Sys2Proof/Laws/KeepOps.lean ====
section
/-!
SUPPORT. What every operation of Machine/Ops.lean keeps.
-/
namespace Sys2Proof.Machine
set_option Elab.async false

variable {m l k : Bool} {s0 : State}

theorem fresh_keep {s : State} (h : Keep m l k s0 s) : Keep m l k s0 (fresh s).2 := by
  unfold fresh
  repeat' with_reducible first
    | assumption
    | refine keep_ite_snd ?_ (fun _ => ?_)
    | refine keep_ite ?_ (fun _ => ?_)
    | refine keep_mk ?_ rfl rfl rfl rfl rfl rfl rfl rfl

theorem freshBelow_keep {s : State} {n : Nat} (h : Keep m l k s0 s) : Keep m l k s0 (freshBelow s n).2 := by
  unfold freshBelow
  repeat' with_reducible first
    | assumption
    | refine keep_ite_snd ?_ (fun _ => ?_)
    | refine keep_ite ?_ (fun _ => ?_)
    | refine keep_mk ?_ rfl rfl rfl rfl rfl rfl rfl rfl

theorem stamp_keep {s : State} (h : Keep m l k s0 s) : Keep m l k s0 (stamp s).2 := by
  unfold stamp
  repeat' with_reducible first
    | assumption
    | refine freshBelow_keep ?_

theorem devPut_keep {s : State} {addr : Nat} {b : Byte} (h : Keep m l k s0 s) : Keep m l k s0 (devPut s addr b) := by
  unfold devPut
  split
  · exact ⟨h.queue, fun i => ⟨(h.inv i).1, (h.inv i).2.1, tabWf_set (d := fun _ => 0) (h.inv i).2.2.1, (h.inv i).2.2.2⟩,
      h.arc, h.mode, h.lock, h.tick⟩
  · exact ⟨h.queue, fun i => ⟨tabWf_set (d := fun _ => 0) (h.inv i).1, (h.inv i).2.1, (h.inv i).2.2.1, (h.inv i).2.2.2⟩,
      h.arc, h.mode, h.lock, h.tick⟩

theorem devWrite_keep : ∀ {bs : List Byte} {s : State} {a : Nat}, Keep m l k s0 s → Keep m l k s0 (devWrite s a bs)
  | [], _, _, h => h
  | _ :: bs, _, _, h => devWrite_keep (bs := bs) (devPut_keep h)

theorem countDeny_keep {s : State} (h : Keep m l k s0 s) : Keep m l k s0 (countDeny s) := by
  unfold countDeny
  repeat' with_reducible first
    | assumption
    | refine setFlag_keep ?_
    | refine keep_ite ?_ (fun _ => ?_)
    | refine keep_mk ?_ rfl rfl rfl rfl rfl rfl rfl rfl

theorem logAt_keep {s : State} {u : Nat} {fn : Nat} {code : Nat} {arg : Nat} (h : Keep m l k s0 s) : Keep m l k s0 (logAt s u fn code arg) := by
  unfold logAt
  dsimp only
  repeat' split
  · exact h
  · exact ⟨h.queue, fun i => ⟨(h.inv i).1, (h.inv i).2.1, tabWf_set (d := fun _ => 0) (h.inv i).2.2.1, (h.inv i).2.2.2⟩,
      h.arc, h.mode, h.lock, h.tick⟩
  · exact countDeny_keep h

theorem logNow_keep {s : State} {fn : Nat} {code : Nat} {arg : Nat} (h : Keep m l k s0 s) : Keep m l k s0 (logNow s fn code arg) := by
  unfold logNow
  repeat' with_reducible first
    | assumption
    | refine stamp_keep ?_
    | refine logAt_keep ?_

theorem logBound_keep {s : State} {fn : Nat} {code : Nat} {arg : Nat} (h : Keep m l k s0 s) : Keep m l k s0 (logBound s fn code arg) := by
  unfold logBound
  repeat' with_reducible first
    | assumption
    | refine logAt_keep ?_

theorem raise_keep {s : State} {fn : Nat} {b : Nat} {i1 : Nat} {i2 : Nat} (h : Keep m l k s0 s) : Keep m l k s0 (raise s fn b i1 i2) := by
  unfold raise
  repeat' with_reducible first
    | assumption
    | refine setFlag_keep ?_
    | refine logNow_keep ?_
    | refine keep_ite ?_ (fun _ => ?_)

theorem accessErr_keep {s : State} {pf : Pf} {addr : Nat} {kind : Nat} (h : Keep m l k s0 s) : Keep m l k s0 (accessErr s pf addr kind) := by
  unfold accessErr
  repeat' with_reducible first
    | assumption
    | refine logNow_keep ?_

theorem parityAccess_keep {s : State} (h : Keep m l k s0 s) : Keep m l k s0 (parityAccess s) := by
  unfold parityAccess
  repeat' with_reducible first
    | assumption
    | refine raise_keep ?_
    | refine keep_ite ?_ (fun _ => ?_)
    | refine keep_mk ?_ rfl rfl rfl rfl rfl rfl rfl rfl

theorem denyAccess_keep {s : State} (h : Keep m l k s0 s) : Keep m l k s0 (denyAccess s) := by
  unfold denyAccess
  repeat' with_reducible first
    | assumption
    | refine raise_keep ?_
    | refine keep_ite ?_ (fun _ => ?_)
    | refine keep_mk ?_ rfl rfl rfl rfl rfl rfl rfl rfl

theorem devAsk_keep {s : State} {m_1 : Nat} {addr : Nat} {len : Nat} {wr : Bool} (h : Keep m l k s0 s) : Keep m l k s0 (devAsk s m_1 addr len wr).2 := by
  unfold devAsk
  repeat' with_reducible first
    | assumption
    | refine denyAccess_keep ?_
    | refine raise_keep ?_
    | refine keep_ite_snd ?_ (fun _ => ?_)

theorem parityRead_keep {s : State} {addr : Nat} {len : Nat} (h : Keep m l k s0 s) : Keep m l k s0 (parityRead s addr len).2 := by
  unfold parityRead
  repeat' with_reducible first
    | assumption
    | refine freshBelow_keep ?_
    | refine parityAccess_keep ?_
    | refine keep_ite_snd ?_ (fun _ => ?_)

theorem rickRead_keep {s : State} {m_1 : Nat} {addr : Nat} {len : Nat} (h : Keep m l k s0 s) : Keep m l k s0 (rickRead s m_1 addr len).2 := by
  unfold rickRead
  repeat' with_reducible first
    | assumption
    | refine devAsk_keep ?_
    | refine parityRead_keep ?_
    | refine keep_ite_snd ?_ (fun _ => ?_)

theorem regAdd_keep {s : State} {a : Nat} {hi : Nat} {lo : Nat} {n : Nat} (h : Keep m l k s0 s) : Keep m l k s0 (regAdd s a hi lo n) := by
  unfold regAdd
  repeat' with_reducible first
    | assumption
    | refine regPut_keep ?_

theorem blkErrs_keep {s : State} {n : Nat} {m_2 : Nat} {last : Nat} (h : Keep m l k s0 s) : Keep m l k s0 (blkErrs s n m_2 last) := by
  unfold blkErrs
  repeat' with_reducible first
    | assumption
    | refine raise_keep ?_
    | refine regAdd_keep ?_
    | refine keep_ite ?_ (fun _ => ?_)
    | refine keep_mk ?_ rfl rfl rfl rfl rfl rfl rfl rfl

theorem blkLook_keep {s : State} {groups : List Nat} (h : Keep m l k s0 s) : Keep m l k s0 (blkLook s groups).2 := by
  unfold blkLook
  repeat' with_reducible first
    | assumption
    | refine blkErrs_keep ?_
    | refine keep_ite_snd ?_ (fun _ => ?_)
    | refine keep_ite ?_ (fun _ => ?_)
    | refine keep_mk ?_ rfl rfl rfl rfl rfl rfl rfl rfl

theorem blkRead_keep {s : State} {addr : Nat} {bs : List Byte} (h : Keep m l k s0 s) : Keep m l k s0 (blkRead s addr bs).2.2 := by
  unfold blkRead
  repeat' with_reducible first
    | assumption
    | refine blkLook_keep ?_

end Sys2Proof.Machine
end

