-- ==== Sys2Proof/Laws/KeepReact.lean ====
section
/-!
SUPPORT. What every operation of Machine/React.lean keeps.
-/
namespace Sys2Proof.Machine
set_option Elab.async false

variable {m l k : Bool} {s0 : State}

theorem updChain_keep {s : State} {i : Nat} {f : Chain → Chain} (h : Keep m l k s0 s) : Keep m l k s0 (updChain s i f) := by
  unfold updChain
  repeat' with_reducible first
    | assumption
    | refine keep_ite ?_ (fun _ => ?_)
    | refine keep_mk ?_ rfl rfl rfl rfl rfl rfl rfl rfl

theorem chainsRestart_keep {s : State} {l_1 : List Nat} {kind : Nat} (h : Keep m l k s0 s) : Keep m l k s0 (chainsRestart s l_1 kind) := by
  unfold chainsRestart
  repeat' with_reducible first
    | assumption
    | refine updChain_keep ?_
    | refine keep_ite ?_ (fun _ => ?_)
    | refine keep_foldl ?_ _ ?_
    | refine keep_foldl_snd ?_ _ ?_
    | intro _

theorem adcRestart_keep {s : State} (h : Keep m l k s0 s) : Keep m l k s0 (adcRestart s) := by
  unfold adcRestart
  repeat' with_reducible first
    | assumption
    | refine chainsRestart_keep ?_

theorem addCause_keep {s : State} {c : Cause} (h : Keep m l k s0 s) : Keep m l k s0 (addCause s c) := by
  unfold addCause
  repeat' with_reducible first
    | assumption
    | refine keep_ite ?_ (fun _ => ?_)
    | refine keep_mk ?_ rfl rfl rfl rfl rfl rfl rfl rfl

theorem blockReleaseBy_keep {s : State} {rel : Nat} (h : Keep m l k s0 s) : Keep m l k s0 (blockReleaseBy s rel) := by
  unfold blockReleaseBy
  repeat' with_reducible first
    | assumption
    | refine addCause_keep ?_
    | refine keep_ite ?_ (fun _ => ?_)
    | refine keep_mk ?_ rfl rfl rfl rfl rfl rfl rfl rfl

theorem blockRelease_keep {s : State} (h : Keep m l k s0 s) : Keep m l k s0 (blockRelease s) := by
  unfold blockRelease
  repeat' with_reducible first
    | assumption
    | refine blockReleaseBy_keep ?_

theorem pf0Only_keep {s : State} {pf : Pf} {addr : Nat} {f : State → State} (hf : ∀ s, Keep m l k s0 s → Keep m l k s0 (f s)) (h : Keep m l k s0 s) : Keep m l k s0 (pf0Only s pf addr f) := by
  unfold pf0Only
  repeat' with_reducible first
    | assumption
    | refine hf _ ?_
    | refine accessErr_keep ?_
    | refine keep_ite ?_ (fun _ => ?_)

theorem unsupported_keep {s : State} (h : Keep m l k s0 s) : Keep m l k s0 (unsupported s) := by
  unfold unsupported
  repeat' with_reducible first
    | assumption
    | refine raise_keep ?_
    | refine keep_ite ?_ (fun _ => ?_)

theorem hostAccess_keep {s : State} {pf : Pf} {fn : Nat} {f : State → State} (hf : ∀ s, Keep m l k s0 s → Keep m l k s0 (f s)) (h : Keep m l k s0 s) : Keep m l k s0 (hostAccess s pf fn f) := by
  unfold hostAccess
  repeat' with_reducible first
    | assumption
    | refine hf _ ?_
    | refine unsupported_keep ?_
    | refine keep_ite ?_ (fun _ => ?_)

theorem hostRead_keep {s : State} {pf : Pf} {fn : Nat} {f : State → State} (hf : ∀ s, Keep m l k s0 s → Keep m l k s0 (f s)) (h : Keep m l k s0 s) : Keep m l k s0 (hostRead s pf fn f) := by
  unfold hostRead
  repeat' with_reducible first
    | assumption
    | refine hf _ ?_
    | refine unsupported_keep ?_
    | refine keep_ite ?_ (fun _ => ?_)
    | refine keep_mk ?_ rfl rfl rfl rfl rfl rfl rfl rfl

theorem hostPf0_keep {s : State} {pf : Pf} {addr : Nat} {f : State → State} (hf : ∀ s, Keep m l k s0 s → Keep m l k s0 (f s)) (h : Keep m l k s0 s) : Keep m l k s0 (hostPf0 s pf addr f) := by
  unfold hostPf0
  repeat' with_reducible first
    | assumption
    | refine hf _ ?_
    | refine hostAccess_keep ?_ ?_
    | refine pf0Only_keep ?_ ?_
    | refine keep_ite ?_ (fun _ => ?_)
    | intro _

end Sys2Proof.Machine
end

