-- ==== Sys2Proof/Laws/KeepPeat.lean ====
section
/-!
SUPPORT. What every operation of Machine/Peat.lean keeps.
-/
namespace Sys2Proof.Machine
set_option Elab.async false

variable {m l k : Bool} {s0 : State}

/-! ### What the operations on the store do to the counters -/

theorem bankStep_arc (p : Peat) : (bankStep p).arc = p.arc := by
  unfold bankStep
  repeat' split
  all_goals rfl

theorem bankFill_arc (p : Peat) : (bankFill p).arc = p.arc := by simp [bankFill, bankStep_arc]

theorem peatJob_arc (p : Peat) (j : PJob) : (peatJob p j).arc = p.arc := bankFill_arc _

theorem peatPost_arc (p : Peat) (ks : List PeatKind) : (peatPost p ks).arc = p.arc := bankFill_arc _

theorem peatDrop_arc (p : Peat) (k : PeatKind) : (peatDrop p k).arc = p.arc := bankFill_arc _

theorem groupUpd_arc (p : Peat) (k : PeatKind) (g : Nat) (f : RGroup → RGroup) : (groupUpd p k g f).arc = p.arc := rfl

theorem lineStore_arc (p : Peat) (l : PLine) : (lineStore p l).arc = p.arc := by
  unfold lineStore
  split <;> rfl

theorem recPut_arc (p : Peat) (k : PeatKind) : (recPut p k).arc = p.arc := by
  have key : ∀ (l : List Nat) (p : Peat), (l.foldl (fun p g => groupUpd p k g (fun x => x.put true (recVal p k))) p).arc = p.arc := by
    intro l
    induction l with
    | nil => exact fun _ => rfl
    | cons g l ih => exact fun p => (ih _).trans (groupUpd_arc _ _ _ _)
  exact key _ _

/-- A counter that is joined with others does not decrease. -/
theorem arcJoin_le (j : Nat) : ∀ (l : List (Nat × Nat)) (t : Tab Nat), tabGet 0 t j ≤ tabGet 0 (arcJoin t l) j
  | [], _ => Nat.le_refl _
  | x :: l, t => by
    refine Nat.le_trans ?_ (arcJoin_le j l _)
    by_cases e : j = x.1
    · unfold tabSet
      dsimp only
      split
      · next h => subst e; rw [show tabGet 0 t x.1 = 0 by omega]; exact Nat.zero_le _
      · subst e; rw [tabGet_insert_same]; exact Nat.le_max_left _ _
    · exact Nat.le_of_eq (tabGet_set_other _ _ _ _ _ _ e).symm

theorem recLoad_arc (p : Peat) (k : PeatKind) (v : List Nat) : ArcLe p (recLoad p k v) := by
  unfold recLoad
  split
  case h_2 => exact fun j => Nat.le_trans (Nat.min_le_left _ _) (arcJoin_le _ _ _)
  all_goals exact .of_eq rfl

theorem recAbsent_arc (p : Peat) (k : PeatKind) : ArcLe p (recAbsent p k) := by
  unfold recAbsent
  split
  · exact .of_eq rfl
  · exact .of_eq rfl
  · exact recLoad_arc _ _ _

/-- A counter that advances. -/
theorem arcPut_le {p : Peat} {n v : Nat} (hv : tabGet 0 p.arc n < v) : ArcLe p (arcPut p n v) := fun j => by
  show min (tabGet 0 p.arc j) _ ≤ tabGet 0 (tabSet 0 p.arc n (min v 0xFFFFFFFF)) j
  by_cases e : j = n
  · subst e
    unfold tabSet
    rw [if_neg (by omega), tabGet_insert_same]
    omega
  · rw [tabGet_set_other _ _ _ _ _ _ e]
    exact Nat.min_le_left _ _

theorem peatNext_arc (s : State) (k : PeatKind) : ArcLe s.peat (peatNext s k) := by
  unfold peatNext
  repeat' split
  all_goals first
    | exact arcPut_le (by assumption)
    | exact .of_eq rfl

/-- The store changes, and no counter goes back. -/
theorem peatSet_arc_keep {s : State} {f : Peat → Peat} (h : Keep m l k s0 s) (hp : ArcLe s.peat (f s.peat)) : Keep m l k s0 (peatSet s f) :=
  keep_peat h hp

theorem peatSet_keep {s : State} {f : Peat → Peat} (hf : (f s.peat).arc = s.peat.arc) (h : Keep m l k s0 s) : Keep m l k s0 (peatSet s f) := by
  unfold peatSet
  exact keep_mk h rfl rfl rfl rfl rfl rfl rfl hf

theorem peatWrite_keep {s : State} {ks : List PeatKind} {f : Peat → Peat} (hf : (f s.peat).arc = s.peat.arc) (h : Keep m l k s0 s) : Keep m l k s0 (peatWrite s ks f) := by
  exact keep_peat h (.of_eq ((peatPost_arc _ _).trans hf))

theorem lineTaken_keep {s : State} {k_1 : PeatKind} (h : Keep m l k s0 s) : Keep m l k s0 (lineTaken s k_1) := by
  refine Keep.trans h ⟨rfl, fun i => ?_, peatNext_arc s _, fun _ => .inl rfl, fun _ => id, fun _ => ⟨rfl, rfl⟩⟩
  refine ⟨i.1, i.2.1, i.2.2.1, i.2.2.2.1, i.2.2.2.2.1, i.2.2.2.2.2.1, i.2.2.2.2.2.2.1, i.2.2.2.2.2.2.2.1, ?_, i.2.2.2.2.2.2.2.2.2⟩
  show Adc.wf (if _ then _ else _)
  split <;> exact i.2.2.2.2.2.2.2.2.1

theorem lineWorn_keep {s : State} {l_1 : PLine} (h : Keep m l k s0 s) : Keep m l k s0 (lineWorn s l_1) := by
  unfold lineWorn
  repeat' with_reducible first
    | assumption
    | refine peatSet_keep ?_ ?_
    | refine raise_keep ?_
    | refine keep_ite ?_ (fun _ => ?_)
    | rfl

theorem lineDone_keep {s : State} {l_1 : PLine} (h : Keep m l k s0 s) : Keep m l k s0 (lineDone s l_1) := by
  unfold lineDone
  repeat' with_reducible first
    | assumption
    | refine lineTaken_keep ?_
    | refine peatSet_keep ?_ ?_
    | exact (bankFill_arc _).trans (lineStore_arc _ _)
    | refine keep_ite ?_ (fun _ => ?_)
    | rfl
    | intro _
    | refine keep_mk ?_ rfl rfl rfl rfl rfl rfl rfl rfl

theorem lineLost_keep {s : State} {l_1 : PLine} (h : Keep m l k s0 s) : Keep m l k s0 (lineLost s l_1) := by
  unfold lineLost
  repeat' with_reducible first
    | assumption
    | refine raise_keep ?_
    | refine regInc_keep ?_
    | refine peatSet_keep ?_ ?_
    | exact groupUpd_arc _ _ _ _
    | refine keep_ite ?_ (fun _ => ?_)
    | rfl

theorem recNow_keep {s : State} {k_1 : PeatKind} (h : Keep m l k s0 s) : Keep m l k s0 (recNow s k_1) := by
  unfold recNow
  repeat' with_reducible first
    | assumption
    | refine lineWorn_keep ?_
    | refine peatSet_keep ?_ ?_
    | exact recPut_arc _ _
    | refine keep_ite ?_ (fun _ => ?_)
    | refine keep_foldl ?_ _ ?_
    | refine keep_foldl_snd ?_ _ ?_
    | rfl
    | intro _

theorem peatCut_keep {s : State} (h : Keep m l k s0 s) : Keep m l k s0 (peatCut s) := by
  unfold peatCut
  refine peatSet_keep rfl (keep_foldl (fun s x h => ?_) _ h)
  have h1 : Keep m l k s0 (freshBelow s 2).2 := freshBelow_keep h
  dsimp only
  split
  · exact keep_peat h1 fun j => lineStore_arc (peatNext (freshBelow s 2).2 _) x ▸ peatNext_arc _ _ j
  split
  · exact h1
  · exact peatSet_keep rfl h1

theorem recTake_keep {s : State} {k_1 : PeatKind} (h : Keep m l k s0 s) : Keep m l k s0 (recTake s k_1) := by
  unfold recTake
  split
  · exact h
  split
  · exact keep_peat h (recLoad_arc _ _ _)
  · exact raise_keep (keep_peat h (recAbsent_arc _ _))

theorem recsTake_keep {s : State} (h : Keep m l k s0 s) : Keep m l k s0 (recsTake s) := by
  unfold recsTake
  repeat' with_reducible first
    | assumption
    | refine recTake_keep ?_
    | refine keep_ite ?_ (fun _ => ?_)
    | refine keep_foldl ?_ _ ?_
    | refine keep_foldl_snd ?_ _ ?_
    | intro _

theorem mapPost_keep {s : State} (h : Keep m l k s0 s) : Keep m l k s0 (mapPost s) := by
  unfold mapPost
  repeat' with_reducible first
    | assumption
    | refine peatWrite_keep ?_ ?_
    | refine keep_ite ?_ (fun _ => ?_)
    | rfl
    | intro _
    | refine keep_mk ?_ rfl rfl rfl rfl rfl rfl rfl rfl

end Sys2Proof.Machine
end

