-- ==== Sys2Proof/Laws/KeepGate.lean ====
section
/-!
SUPPORT. What every operation of Machine/Gate.lean keeps.
-/
namespace Sys2Proof.Machine
set_option Elab.async false

variable {m l k : Bool} {s0 : State}

theorem iter_keep {f : State → State} (hf : ∀ s, Keep m l k s0 s → Keep m l k s0 (f s)) :
    ∀ {n : Nat} {s : State}, Keep m l k s0 s → Keep m l k s0 (iter f n s)
  | 0, _, h => h
  | n + 1, _, h => iter_keep hf (n := n) (hf _ h)

theorem updChan_keep {s : State} {n : Nat} {f : Chan → Chan} (h : Keep m l k s0 s) : Keep m l k s0 (updChan s n f) := by
  unfold updChan
  repeat' with_reducible first
    | assumption
    | refine keep_ite ?_ (fun _ => ?_)
    | refine keep_mk ?_ rfl rfl rfl rfl rfl rfl rfl rfl

theorem chSrcImage_keep {s : State} (h : Keep m l k s0 s) : Keep m l k s0 (chSrcImage s) := by
  unfold chSrcImage
  repeat' with_reducible first
    | assumption
    | refine regPut_keep ?_
    | refine keep_ite ?_ (fun _ => ?_)
    | refine keep_foldl ?_ _ ?_
    | refine keep_foldl_snd ?_ _ ?_
    | intro _

theorem tpcFollow_keep {s : State} (h : Keep m l k s0 s) : Keep m l k s0 (tpcFollow s) := by
  unfold tpcFollow
  repeat' with_reducible first
    | assumption
    | refine keep_ite ?_ (fun _ => ?_)
    | refine keep_mk ?_ rfl rfl rfl rfl rfl rfl rfl rfl

theorem lockBits_keep {s : State} {n : Nat} {old : Nat} {new : Nat} (h : Keep m l k s0 s) : Keep m l k s0 (lockBits s n old new) := by
  unfold lockBits
  repeat' with_reducible first
    | assumption
    | refine keep_regSet ?_
    | refine keep_ite ?_ (fun _ => ?_)

theorem chanGo_keep {s : State} {n : Nat} {new : Nat} {cause : Nat} (h : Keep m l k s0 s) : Keep m l k s0 (chanGo s n new cause) := by
  unfold chanGo
  repeat' with_reducible first
    | assumption
    | refine logNow_keep ?_
    | refine lockBits_keep ?_
    | refine updChan_keep ?_
    | refine keep_ite ?_ (fun _ => ?_)

theorem openBlank_keep {s : State} {n : Nat} {t : Int} (h : Keep m l k s0 s) : Keep m l k s0 (openBlank s n t) := by
  unfold openBlank
  repeat' with_reducible first
    | assumption
    | refine updChan_keep ?_

theorem shutBlank_keep {s : State} {n : Nat} {u : Int} (h : Keep m l k s0 s) : Keep m l k s0 (shutBlank s n u) := by
  unfold shutBlank
  repeat' with_reducible first
    | assumption
    | refine updChan_keep ?_

theorem pairMeet_keep {s : State} {n : Nat} {t : Int} (h : Keep m l k s0 s) : Keep m l k s0 (pairMeet s n t) := by
  unfold pairMeet
  repeat' with_reducible first
    | assumption
    | refine shutBlank_keep ?_
    | refine updChan_keep ?_
    | refine raise_keep ?_
    | refine regInc_keep ?_
    | refine keep_ite ?_ (fun _ => ?_)
    | refine keep_of_snd (by assumption) ?_
    | refine keep_of_snd3 (by assumption) ?_
    | refine keep_of_fst (by assumption) ?_
    | split

theorem pairEnd_keep {s : State} {n : Nat} {t : Int} (h : Keep m l k s0 s) : Keep m l k s0 (pairEnd s n t) := by
  unfold pairEnd
  repeat' with_reducible first
    | assumption
    | refine updChan_keep ?_
    | refine openBlank_keep ?_
    | refine keep_ite ?_ (fun _ => ?_)
    | refine keep_of_snd (by assumption) ?_
    | refine keep_of_snd3 (by assumption) ?_
    | refine keep_of_fst (by assumption) ?_
    | split

theorem chanDark_keep {s : State} {n : Nat} {t : Int} (h : Keep m l k s0 s) : Keep m l k s0 (chanDark s n t) := by
  unfold chanDark
  repeat' with_reducible first
    | assumption
    | refine pairMeet_keep ?_
    | refine pairEnd_keep ?_
    | refine updChan_keep ?_

theorem chanOff_keep {s : State} {n : Nat} {t : Int} {cause : Nat} (h : Keep m l k s0 s) : Keep m l k s0 (chanOff s n t cause) := by
  unfold chanOff
  repeat' with_reducible first
    | assumption
    | refine updChan_keep ?_
    | refine chanGo_keep ?_
    | refine chanDark_keep ?_

theorem chanDue_keep {s : State} {n : Nat} (h : Keep m l k s0 s) : Keep m l k s0 (chanDue s n) := by
  unfold chanDue
  repeat' with_reducible first
    | assumption
    | refine updChan_keep ?_

theorem chanLock_keep {s : State} {n : Nat} {t : Int} {cause : Nat} (h : Keep m l k s0 s) : Keep m l k s0 (chanLock s n t cause) := by
  unfold chanLock
  repeat' with_reducible first
    | assumption
    | refine updChan_keep ?_
    | refine chanGo_keep ?_
    | refine chanDark_keep ?_
    | refine raise_keep ?_
    | refine blockRelease_keep ?_
    | refine keep_ite ?_ (fun _ => ?_)

theorem groupLock_keep {s : State} {g : Nat} {t : Int} (h : Keep m l k s0 s) : Keep m l k s0 (groupLock s g t) := by
  unfold groupLock
  repeat' with_reducible first
    | assumption
    | refine chanGo_keep ?_
    | refine chanDark_keep ?_
    | refine raise_keep ?_
    | refine blockRelease_keep ?_
    | refine keep_ite ?_ (fun _ => ?_)
    | refine keep_foldl ?_ _ ?_
    | refine keep_foldl_snd ?_ _ ?_
    | intro _

theorem tripAccept_keep {s : State} {n : Nat} {t : Int} (h : Keep m l k s0 s) : Keep m l k s0 (tripAccept s n t) := by
  unfold tripAccept
  repeat' with_reducible first
    | assumption
    | refine regInc_keep ?_
    | refine raise_keep ?_
    | refine chanGo_keep ?_
    | refine chanDark_keep ?_
    | refine updChan_keep ?_
    | refine groupLock_keep ?_
    | refine chanLock_keep ?_
    | refine keep_ite ?_ (fun _ => ?_)

theorem edgeOut_keep {s : State} {n : Nat} {t : Int} {lv : Bool} (h : Keep m l k s0 s) : Keep m l k s0 (edgeOut s n t lv) := by
  unfold edgeOut
  repeat' with_reducible first
    | assumption
    | refine pairMeet_keep ?_
    | refine updChan_keep ?_
    | refine pairEnd_keep ?_
    | refine openBlank_keep ?_

theorem evalPeriod_keep {s : State} {n : Nat} (h : Keep m l k s0 s) : Keep m l k s0 (evalPeriod s n) := by
  unfold evalPeriod
  repeat' with_reducible first
    | assumption
    | refine raise_keep ?_
    | refine regInc_keep ?_
    | refine updChan_keep ?_
    | refine iter_keep ?_ ?_
    | refine keep_ite ?_ (fun _ => ?_)
    | refine keep_of_snd (by assumption) ?_
    | refine keep_of_snd3 (by assumption) ?_
    | refine keep_of_fst (by assumption) ?_
    | intro _

theorem startRefresh_keep {s : State} {n : Nat} {t : Int} (h : Keep m l k s0 s) : Keep m l k s0 (startRefresh s n t) := by
  unfold startRefresh
  repeat' with_reducible first
    | assumption
    | refine regInc_keep ?_
    | refine raise_keep ?_
    | refine chanGo_keep ?_
    | refine openBlank_keep ?_
    | refine updChan_keep ?_

theorem periodBoundary_keep {s : State} {n : Nat} (h : Keep m l k s0 s) : Keep m l k s0 (periodBoundary s n) := by
  unfold periodBoundary
  repeat' with_reducible first
    | assumption
    | refine updChan_keep ?_
    | refine startRefresh_keep ?_
    | refine chanGo_keep ?_
    | refine evalPeriod_keep ?_
    | refine keep_ite ?_ (fun _ => ?_)

theorem execPeriodBoundary_keep {ch : Fin 24} {s : State} : KeepO m l k s (execPeriodBoundary ch s) := by
  have h := Keep.refl m l k s
  unfold execPeriodBoundary
  repeat' with_reducible first
    | assumption
    | refine begin_keep ?_
    | refine periodBoundary_keep ?_
    | refine keep_ite ?_ (fun _ => ?_)
    | refine keepO_next ?_

theorem edgeRelease_keep {s : State} {n : Nat} (h : Keep m l k s0 s) : Keep m l k s0 (edgeRelease s n) := by
  unfold edgeRelease
  repeat' with_reducible first
    | assumption
    | refine updChan_keep ?_
    | refine edgeOut_keep ?_
    | refine keep_ite ?_ (fun _ => ?_)
    | refine keep_of_snd (by assumption) ?_
    | refine keep_of_snd3 (by assumption) ?_
    | refine keep_of_fst (by assumption) ?_
    | split
    | dsimp only

theorem execEdgeRelease_keep {ch : Fin 24} {s : State} : KeepO m l k s (execEdgeRelease ch s) := by
  have h := Keep.refl m l k s
  unfold execEdgeRelease
  repeat' with_reducible first
    | assumption
    | refine edgeRelease_keep ?_
    | refine begin_keep ?_
    | refine keep_ite ?_ (fun _ => ?_)
    | refine keepO_next ?_

theorem refreshEnd_keep {s : State} {n : Nat} (h : Keep m l k s0 s) : Keep m l k s0 (refreshEnd s n) := by
  unfold refreshEnd
  repeat' with_reducible first
    | assumption
    | refine chanGo_keep ?_
    | refine edgeOut_keep ?_
    | refine updChan_keep ?_
    | refine keep_ite ?_ (fun _ => ?_)

theorem execRefreshEnd_keep {ch : Fin 24} {s : State} : KeepO m l k s (execRefreshEnd ch s) := by
  have h := Keep.refl m l k s
  unfold execRefreshEnd
  repeat' with_reducible first
    | assumption
    | refine refreshEnd_keep ?_
    | refine begin_keep ?_
    | refine keep_ite ?_ (fun _ => ?_)
    | refine keepO_next ?_

theorem bsCut_keep {s : State} {n : Nat} (h : Keep m l k s0 s) : Keep m l k s0 (bsCut s n) := by
  unfold bsCut
  repeat' with_reducible first
    | assumption
    | refine raise_keep ?_
    | refine regInc_keep ?_
    | refine edgeOut_keep ?_
    | refine updChan_keep ?_
    | refine keep_ite ?_ (fun _ => ?_)

theorem execBsCut_keep {ch : Fin 24} {s : State} : KeepO m l k s (execBsCut ch s) := by
  have h := Keep.refl m l k s
  unfold execBsCut
  repeat' with_reducible first
    | assumption
    | refine bsCut_keep ?_
    | refine begin_keep ?_
    | refine keep_ite ?_ (fun _ => ?_)
    | refine keepO_next ?_

theorem tripFiltered_keep {s : State} {n : Nat} {t : Int} (h : Keep m l k s0 s) : Keep m l k s0 (tripFiltered s n t) := by
  unfold tripFiltered
  repeat' with_reducible first
    | assumption
    | refine updChan_keep ?_
    | refine pairMeet_keep ?_
    | refine tripAccept_keep ?_
    | refine keep_ite ?_ (fun _ => ?_)
    | refine keep_of_snd (by assumption) ?_
    | refine keep_of_snd3 (by assumption) ?_
    | refine keep_of_fst (by assumption) ?_
    | split

theorem execTripFiltered_keep {ch : Fin 24} {off : Nat} {s : State} : KeepO m l k s (execTripFiltered ch off s) := by
  have h := Keep.refl m l k s
  unfold execTripFiltered
  repeat' with_reducible first
    | assumption
    | refine begin_keep ?_
    | refine tripFiltered_keep ?_
    | refine keep_ite ?_ (fun _ => ?_)
    | refine keepO_next ?_
    | refine keepO_ite ?_ ?_

theorem blankEnd_keep {s0_0 : State} {n : Nat} (h : Keep m l k s0 s0_0) : Keep m l k s0 (blankEnd s0_0 n) := by
  unfold blankEnd
  repeat' with_reducible first
    | assumption
    | refine pairMeet_keep ?_
    | refine updChan_keep ?_
    | refine tripAccept_keep ?_
    | refine keep_ite ?_ (fun _ => ?_)
    | refine keep_of_snd (by assumption) ?_
    | refine keep_of_snd3 (by assumption) ?_
    | refine keep_of_fst (by assumption) ?_
    | split

theorem execBlankEnd_keep {ch : Fin 24} {s : State} : KeepO m l k s (execBlankEnd ch s) := by
  have h := Keep.refl m l k s
  unfold execBlankEnd
  repeat' with_reducible first
    | assumption
    | refine blankEnd_keep ?_
    | refine begin_keep ?_
    | refine keep_ite ?_ (fun _ => ?_)
    | refine keepO_next ?_

theorem retryTake_keep {s : State} {n : Nat} (h : Keep m l k s0 s) : Keep m l k s0 (retryTake s n) := by
  unfold retryTake
  repeat' with_reducible first
    | assumption
    | refine raise_keep ?_
    | refine chanDue_keep ?_
    | refine chanOff_keep ?_
    | refine updChan_keep ?_

theorem execTripRetry_keep {ch : Fin 24} {s : State} : KeepO m l k s (execTripRetry ch s) := by
  have h := Keep.refl m l k s
  unfold execTripRetry
  repeat' with_reducible first
    | assumption
    | refine begin_keep ?_
    | refine updChan_keep ?_
    | refine retryTake_keep ?_
    | refine keep_ite ?_ (fun _ => ?_)
    | refine keepO_next ?_
    | refine keepO_ite ?_ ?_

theorem execTrpInactive_keep {ch : Fin 24} {s : State} : KeepO m l k s (execTrpInactive ch s) := by
  have h := Keep.refl m l k s
  unfold execTrpInactive
  repeat' with_reducible first
    | assumption
    | refine updChan_keep ?_
    | refine begin_keep ?_
    | refine retryTake_keep ?_
    | refine keep_ite ?_ (fun _ => ?_)
    | refine keepO_next ?_

theorem execRetryWindowClose_keep {ch : Fin 24} {s : State} : KeepO m l k s (execRetryWindowClose ch s) := by
  have h := Keep.refl m l k s
  unfold execRetryWindowClose
  repeat' with_reducible first
    | assumption
    | refine begin_keep ?_
    | refine updChan_keep ?_
    | refine chanLock_keep ?_
    | refine keep_ite ?_ (fun _ => ?_)
    | refine keepO_next ?_
    | refine keepO_ite ?_ ?_

theorem hardTrip_keep {s : State} (h : Keep m l k s0 s) : Keep m l k s0 (hardTrip s) := by
  unfold hardTrip
  repeat' with_reducible first
    | assumption
    | refine chanGo_keep ?_
    | refine chanDark_keep ?_
    | refine raise_keep ?_
    | refine blockRelease_keep ?_
    | refine keep_ite ?_ (fun _ => ?_)
    | refine keep_foldl ?_ _ ?_
    | refine keep_foldl_snd ?_ _ ?_
    | intro _
    | refine keep_mk ?_ rfl rfl rfl rfl rfl rfl rfl rfl

theorem execHardTrip_keep {s : State} : KeepO m l k s (execHardTrip s) := by
  have h := Keep.refl m l k s
  unfold execHardTrip
  repeat' with_reducible first
    | assumption
    | refine begin_keep ?_
    | refine hardTrip_keep ?_
    | refine keep_ite ?_ (fun _ => ?_)
    | refine keepO_next ?_
    | refine keepO_ite ?_ ?_
    | refine keep_mk ?_ rfl rfl rfl rfl rfl rfl rfl rfl

theorem execHardTripInactive_keep {s : State} : KeepO m l k s (execHardTripInactive s) := by
  have h := begin_keep (Keep.refl m l k s)
  exact keepO_next (keep_mk h rfl rfl rfl rfl rfl rfl rfl rfl id id (fun i => i))

theorem portOff_keep {s : State} {cause : Nat} (h : Keep m l k s0 s) : Keep m l k s0 (portOff s cause) := by
  unfold portOff
  repeat' with_reducible first
    | assumption
    | refine chanDue_keep ?_
    | refine chanOff_keep ?_
    | refine keep_ite ?_ (fun _ => ?_)
    | refine keep_foldl ?_ _ ?_
    | refine keep_foldl_snd ?_ _ ?_
    | intro _

theorem execPinReadbackFault_keep {_pin : Fin 48} {s : State} : KeepO m l k s (execPinReadbackFault _pin s) := by
  have h := Keep.refl m l k s
  unfold execPinReadbackFault
  repeat' with_reducible first
    | assumption
    | refine begin_keep ?_
    | refine portOff_keep ?_
    | refine blockRelease_keep ?_
    | refine keep_ite ?_ (fun _ => ?_)
    | refine keepO_next ?_
    | refine keepO_ite ?_ ?_
    | refine keep_mk ?_ rfl rfl rfl rfl rfl rfl rfl rfl

theorem execPwmLockstepMismatch_keep {ch : Fin 24} {s : State} : KeepO m l k s (execPwmLockstepMismatch ch s) := by
  have h := Keep.refl m l k s
  unfold execPwmLockstepMismatch
  repeat' with_reducible first
    | assumption
    | refine begin_keep ?_
    | refine raise_keep ?_
    | refine portOff_keep ?_
    | refine blockRelease_keep ?_
    | refine keep_ite ?_ (fun _ => ?_)
    | refine keepO_next ?_

theorem cmpLoss_keep {s : State} {n : Nat} (h : Keep m l k s0 s) : Keep m l k s0 (cmpLoss s n) := by
  unfold cmpLoss
  repeat' with_reducible first
    | assumption
    | refine raise_keep ?_
    | refine updChan_keep ?_
    | refine chanOff_keep ?_
    | refine keep_ite ?_ (fun _ => ?_)

theorem execCmpLoss_keep {ch : Fin 24} {s : State} : KeepO m l k s (execCmpLoss ch s) := by
  have h := Keep.refl m l k s
  unfold execCmpLoss
  repeat' with_reducible first
    | assumption
    | refine begin_keep ?_
    | refine cmpLoss_keep ?_
    | refine keep_ite ?_ (fun _ => ?_)
    | refine keepO_next ?_

theorem loadAll_keep {s : State} {t : Option Int} (h : Keep m l k s0 s) : Keep m l k s0 (loadAll s t) := by
  unfold loadAll
  repeat' with_reducible first
    | assumption
    | refine raise_keep ?_
    | refine updChan_keep ?_
    | refine keep_ite ?_ (fun _ => ?_)
    | refine keep_foldl ?_ _ ?_
    | refine keep_foldl_snd ?_ _ ?_
    | refine keep_of_snd (by assumption) ?_
    | refine keep_of_snd3 (by assumption) ?_
    | refine keep_of_fst (by assumption) ?_
    | intro _
    | split
    | dsimp only
    | refine keep_mk ?_ rfl rfl rfl rfl rfl rfl rfl rfl

theorem execLoadallArm_keep {pf : Pf} {v : Word} {s : State} : KeepO m l k s (execLoadallArm pf v s) := by
  have h := Keep.refl m l k s
  unfold execLoadallArm
  repeat' with_reducible first
    | assumption
    | refine hostAccess_keep ?_ ?_
    | refine begin_keep ?_
    | refine loadAll_keep ?_
    | refine keep_ite ?_ (fun _ => ?_)
    | refine keepO_next ?_
    | refine keepO_ite ?_ ?_
    | intro _

theorem execShadowWrite_keep {pf : Pf} {ch : Fin 24} {rise : BitVec 24} {fall : BitVec 24} {s : State} : KeepO m l k s (execShadowWrite pf ch rise fall s) := by
  have h := Keep.refl m l k s
  unfold execShadowWrite
  repeat' with_reducible first
    | assumption
    | refine hostAccess_keep ?_ ?_
    | refine begin_keep ?_
    | refine accessErr_keep ?_
    | refine updChan_keep ?_
    | refine keep_ite ?_ (fun _ => ?_)
    | refine keepO_next ?_
    | refine keepO_ite ?_ ?_
    | refine keep_of_snd (by assumption) ?_
    | refine keep_of_snd3 (by assumption) ?_
    | refine keep_of_fst (by assumption) ?_
    | intro _
    | split

theorem clrRes_keep {s : State} {st : Nat} (h : Keep m l k s0 s) : Keep m l k s0 (clrRes s st) := by
  unfold clrRes
  repeat' with_reducible first
    | assumption
    | refine keep_ite ?_ (fun _ => ?_)
    | refine keep_mk ?_ rfl rfl rfl rfl rfl rfl rfl rfl

theorem chanClear_keep {s : State} {n : Nat} (h : Keep m l k s0 s) : Keep m l k s0 (chanClear s n) := by
  unfold chanClear
  repeat' with_reducible first
    | assumption
    | refine updChan_keep ?_
    | refine chanDue_keep ?_
    | refine chanOff_keep ?_

theorem execClearCh_keep {pf : Pf} {key : BitVec 16} {index : Fin 32} {s : State} : KeepO m l k s (execClearCh pf key index s) := by
  have h := Keep.refl m l k s
  unfold execClearCh
  repeat' with_reducible first
    | assumption
    | refine hostPf0_keep ?_ ?_
    | refine begin_keep ?_
    | refine clrRes_keep ?_
    | refine chanClear_keep ?_
    | refine keep_ite ?_ (fun _ => ?_)
    | refine keepO_next ?_
    | refine keepO_ite ?_ ?_
    | intro _

theorem execClearGroup_keep {pf : Pf} {key : BitVec 16} {index : Fin 32} {s : State} : KeepO m l k s (execClearGroup pf key index s) := by
  have h := Keep.refl m l k s
  unfold execClearGroup
  repeat' with_reducible first
    | assumption
    | refine hostPf0_keep ?_ ?_
    | refine begin_keep ?_
    | refine clrRes_keep ?_
    | refine chanClear_keep ?_
    | refine keep_ite ?_ (fun _ => ?_)
    | refine keepO_next ?_
    | refine keepO_ite ?_ ?_
    | refine keep_foldl ?_ _ ?_
    | refine keep_foldl_snd ?_ _ ?_
    | intro _

theorem execClearPort_keep {pf : Pf} {key : BitVec 16} {_index : Fin 32} {s : State} : KeepO m l k s (execClearPort pf key _index s) := by
  have h := Keep.refl m l k s
  unfold execClearPort
  repeat' with_reducible first
    | assumption
    | refine hostPf0_keep ?_ ?_
    | refine begin_keep ?_
    | refine clrRes_keep ?_
    | refine chanClear_keep ?_
    | refine keep_ite ?_ (fun _ => ?_)
    | refine keepO_next ?_
    | refine keepO_ite ?_ ?_
    | refine keep_foldl ?_ _ ?_
    | refine keep_foldl_snd ?_ _ ?_
    | intro _

theorem gatePhaseF_keep {word : Nat → Nat → SigW} {s : State} {n : Nat} (h : Keep m l k s0 s) : Keep m l k s0 (gatePhaseF word s n) := by
  unfold gatePhaseF
  repeat' with_reducible first
    | assumption
    | refine updChan_keep ?_
    | refine iter_keep ?_ ?_
    | refine raise_keep ?_
    | refine cmpLoss_keep ?_
    | refine keep_ite ?_ (fun _ => ?_)
    | refine keep_of_snd (by assumption) ?_
    | refine keep_of_snd3 (by assumption) ?_
    | refine keep_of_fst (by assumption) ?_
    | intro _

theorem rephase_keep {s : State} {n : Nat} {t : Int} (h : Keep m l k s0 s) : Keep m l k s0 (rephase s n t) := by
  unfold rephase
  repeat' with_reducible first
    | assumption
    | refine updChan_keep ?_
    | refine adcRestart_keep ?_
    | refine keep_ite ?_ (fun _ => ?_)

theorem portSettle_keep {s : State} (h : Keep m l k s0 s) : Keep m l k s0 (portSettle s) := by
  unfold portSettle
  repeat' with_reducible first
    | assumption
    | refine chanOff_keep ?_
    | refine keep_ite ?_ (fun _ => ?_)
    | refine keep_foldl ?_ _ ?_
    | refine keep_foldl_snd ?_ _ ?_
    | intro _

theorem gateBoundary_keep {s : State} {idx : Nat} (h : Keep m l k s0 s) : Keep m l k s0 (gateBoundary s idx) := by
  unfold gateBoundary
  repeat' with_reducible first
    | assumption
    | refine pairMeet_keep ?_
    | refine rephase_keep ?_
    | refine updChan_keep ?_
    | refine loadAll_keep ?_
    | refine tpcFollow_keep ?_
    | refine portSettle_keep ?_
    | refine keep_ite ?_ (fun _ => ?_)
    | refine keep_foldl ?_ _ ?_
    | refine keep_foldl_snd ?_ _ ?_
    | intro _
    | refine keep_mk ?_ rfl rfl rfl rfl rfl rfl rfl rfl

theorem ggdReset_keep {s : State} (h : Keep m l k s0 s) : Keep m l k s0 (ggdReset s) := by
  unfold ggdReset
  repeat' with_reducible first
    | assumption
    | refine portOff_keep ?_
    | refine keep_ite ?_ (fun _ => ?_)
    | refine keep_mk ?_ rfl rfl rfl rfl rfl rfl rfl rfl

theorem pwmReset_keep {s : State} (h : Keep m l k s0 s) : Keep m l k s0 (pwmReset s) := by
  unfold pwmReset
  repeat' with_reducible first
    | assumption
    | refine portOff_keep ?_
    | refine chSrcImage_keep ?_
    | refine keep_ite ?_ (fun _ => ?_)
    | refine keep_mk ?_ rfl rfl rfl rfl rfl rfl rfl rfl

end Sys2Proof.Machine
end

