-- ==== Sys2Proof/Laws/KeepCord.lean ====
section
/-!
SUPPORT. What every operation of Machine/Cord.lean keeps.
-/
namespace Sys2Proof.Machine
set_option Elab.async false

variable {m l k : Bool} {s0 : State}

theorem updLane_keep {s : State} {n : Nat} {f : Lane → Lane} (h : Keep m l k s0 s) : Keep m l k s0 (updLane s n f) := by
  unfold updLane
  repeat' with_reducible first
    | assumption
    | refine keep_ite ?_ (fun _ => ?_)
    | refine keep_mk ?_ rfl rfl rfl rfl rfl rfl rfl rfl

theorem updPort_keep {s : State} {p : Nat} {f : Port → Port} (h : Keep m l k s0 s) : Keep m l k s0 (updPort s p f) := by
  unfold updPort
  repeat' with_reducible first
    | assumption
    | refine keep_ite ?_ (fun _ => ?_)
    | refine keep_mk ?_ rfl rfl rfl rfl rfl rfl rfl rfl

theorem laneSend_keep {s : State} {n : Nat} {chars : List Sym} (h : Keep m l k s0 s) : Keep m l k s0 (laneSend s n chars) := by
  exact keep_mk (send_keep h) rfl rfl rfl rfl rfl rfl rfl rfl (h17 := fun i => (length_setNth _ _ _).trans i)

theorem txAnew_keep {s : State} {n : Nat} (h : Keep m l k s0 s) : Keep m l k s0 (txAnew s n) := by
  unfold txAnew
  repeat' with_reducible first
    | assumption
    | refine keep_ite ?_ (fun _ => ?_)
    | refine keep_mk ?_ rfl rfl rfl rfl rfl rfl rfl rfl

theorem setSend_keep {s : State} {n : Nat} {type : Nat} {a : Nat} {b : Nat} (h : Keep m l k s0 s) : Keep m l k s0 (setSend s n type a b) := by
  unfold setSend
  repeat' with_reducible first
    | assumption
    | refine laneSend_keep ?_

theorem delayAsk_keep {s : State} {n : Nat} {k_2 : Nat} (h : Keep m l k s0 s) : Keep m l k s0 (delayAsk s n k_2) := by
  unfold delayAsk
  repeat' with_reducible first
    | assumption
    | refine setSend_keep ?_
    | refine updLane_keep ?_
    | refine keep_ite ?_ (fun _ => ?_)
    | refine keep_foldl ?_ _ ?_
    | refine keep_foldl_snd ?_ _ ?_
    | intro _

theorem laneGo_keep {s : State} {n : Nat} {new : Nat} (h : Keep m l k s0 s) : Keep m l k s0 (laneGo s n new) := by
  unfold laneGo
  repeat' with_reducible first
    | assumption
    | refine updLane_keep ?_
    | refine logNow_keep ?_
    | refine keep_ite ?_ (fun _ => ?_)

theorem mgtOut_keep {s : State} {n : Nat} {p : Packet} {nak : Bool} (h : Keep m l k s0 s) : Keep m l k s0 (mgtOut s n p nak) := by
  unfold mgtOut
  repeat' with_reducible first
    | assumption
    | refine laneSend_keep ?_
    | refine updLane_keep ?_
    | refine keep_ite ?_ (fun _ => ?_)

theorem mgtAck_keep {s : State} {n : Nat} {nak : Bool} (h : Keep m l k s0 s) : Keep m l k s0 (mgtAck s n nak) := by
  unfold mgtAck
  repeat' with_reducible first
    | assumption
    | refine mgtOut_keep ?_

theorem mgtPut_keep {s : State} {n : Nat} {q : Packet} (h : Keep m l k s0 s) : Keep m l k s0 (mgtPut s n q) := by
  unfold mgtPut
  repeat' with_reducible first
    | assumption
    | refine updLane_keep ?_
    | refine mgtOut_keep ?_
    | refine keep_ite ?_ (fun _ => ?_)

theorem mgtPost_keep {s : State} {n : Nat} {type : Nat} {tag : Nat} {data : List Byte} (h : Keep m l k s0 s) : Keep m l k s0 (mgtPost s n type tag data) := by
  unfold mgtPost
  repeat' with_reducible first
    | assumption
    | refine mgtPut_keep ?_

theorem reqEnd_keep {s : State} {p : Nat} {status : Nat} {data : List Byte} (h : Keep m l k s0 s) : Keep m l k s0 (reqEnd s p status data) := by
  unfold reqEnd
  repeat' with_reducible first
    | assumption
    | refine updPort_keep ?_
    | refine keep_ite ?_ (fun _ => ?_)
    | refine keep_mk ?_ rfl rfl rfl rfl rfl rfl rfl rfl

theorem mgtFlush_keep : ∀ {i : Nat} {s : State} {n : Nat}, Keep m l k s0 s → Keep m l k s0 (mgtFlush i s n)
  | 0, _, _, h => h
  | i + 1, s, n, h => by
    unfold mgtFlush
    split
    · exact h
    split
    · exact mgtOut_keep h
    split
    · refine mgtOut_keep ?_
      split
      · exact keep_mk (updLane_keep h) rfl rfl rfl rfl rfl rfl rfl rfl
      · exact updLane_keep h
    · refine mgtFlush_keep (i := i) (updLane_keep ?_)
      split
      · exact reqEnd_keep (raise_keep h)
      · exact raise_keep h

theorem mgtLeave_keep {s : State} {n : Nat} (h : Keep m l k s0 s) : Keep m l k s0 (mgtLeave s n) := by
  unfold mgtLeave
  repeat' with_reducible first
    | assumption
    | refine mgtFlush_keep ?_

theorem mgtNext_keep {s : State} {n : Nat} (h : Keep m l k s0 s) : Keep m l k s0 (mgtNext s n) := by
  unfold mgtNext
  repeat' with_reducible first
    | assumption
    | refine mgtLeave_keep ?_
    | refine updLane_keep ?_

theorem mgtResend_keep {s : State} {n : Nat} (h : Keep m l k s0 s) : Keep m l k s0 (mgtResend s n) := by
  unfold mgtResend
  repeat' with_reducible first
    | assumption
    | refine mgtLeave_keep ?_
    | refine updLane_keep ?_

theorem mgtShed_keep {s : State} {n : Nat} (h : Keep m l k s0 s) : Keep m l k s0 (mgtShed s n) := by
  unfold mgtShed
  repeat' with_reducible first
    | assumption
    | refine updLane_keep ?_
    | refine mgtLeave_keep ?_
    | refine keep_ite ?_ (fun _ => ?_)

theorem mgtGather_keep {s : State} {p : Nat} (h : Keep m l k s0 s) : Keep m l k s0 (mgtGather s p) := by
  unfold mgtGather
  repeat' with_reducible first
    | assumption
    | refine updLane_keep ?_
    | refine mgtShed_keep ?_
    | refine mgtLeave_keep ?_
    | refine keep_ite ?_ (fun _ => ?_)
    | refine keep_foldl ?_ _ ?_
    | refine keep_foldl_snd ?_ _ ?_
    | refine keep_of_snd (by assumption) ?_
    | refine keep_of_snd3 (by assumption) ?_
    | refine keep_of_fst (by assumption) ?_
    | intro _
    | split

theorem laneT0_keep {s : State} {n : Nat} {cause : Nat} (h : Keep m l k s0 s) : Keep m l k s0 (laneT0 s n cause) := by
  unfold laneT0
  repeat' with_reducible first
    | assumption
    | refine updLane_keep ?_
    | refine laneGo_keep ?_
    | refine setSend_keep ?_
    | refine keep_ite ?_ (fun _ => ?_)

theorem laneAbsent_keep {s : State} {n : Nat} {cause : Nat} (h : Keep m l k s0 s) : Keep m l k s0 (laneAbsent s n cause) := by
  unfold laneAbsent
  repeat' with_reducible first
    | assumption
    | refine updLane_keep ?_
    | refine raise_keep ?_
    | refine laneGo_keep ?_

theorem laneOff_keep {s : State} {n : Nat} (h : Keep m l k s0 s) : Keep m l k s0 (laneOff s n) := by
  unfold laneOff
  repeat' with_reducible first
    | assumption
    | refine laneGo_keep ?_
    | refine updLane_keep ?_
    | refine txAnew_keep ?_

theorem laneReady_keep {s : State} {n : Nat} (h : Keep m l k s0 s) : Keep m l k s0 (laneReady s n) := by
  unfold laneReady
  repeat' with_reducible first
    | assumption
    | refine laneGo_keep ?_
    | refine updLane_keep ?_

theorem portGo_keep {s : State} {p : Nat} {new : Nat} (h : Keep m l k s0 s) : Keep m l k s0 (portGo s p new) := by
  unfold portGo
  repeat' with_reducible first
    | assumption
    | refine updPort_keep ?_
    | refine logNow_keep ?_
    | refine keep_ite ?_ (fun _ => ?_)

theorem portDown_keep {s : State} {p : Nat} {cause : Nat} (h : Keep m l k s0 s) : Keep m l k s0 (portDown s p cause) := by
  unfold portDown
  repeat' with_reducible first
    | assumption
    | refine portGo_keep ?_
    | refine updPort_keep ?_

theorem portMap_keep {s : State} {p : Nat} (h : Keep m l k s0 s) : Keep m l k s0 (portMap s p) := by
  unfold portMap
  repeat' with_reducible first
    | assumption
    | refine laneGo_keep ?_
    | refine portGo_keep ?_
    | refine updPort_keep ?_
    | refine portDown_keep ?_
    | refine updLane_keep ?_
    | refine mgtPost_keep ?_
    | refine keep_ite ?_ (fun _ => ?_)
    | refine keep_foldl ?_ _ ?_
    | refine keep_foldl_snd ?_ _ ?_
    | intro _

theorem portStep_keep {s : State} {p : Nat} (h : Keep m l k s0 s) : Keep m l k s0 (portStep s p).1 := by
  unfold portStep
  repeat' with_reducible first
    | assumption
    | refine portMap_keep ?_
    | refine updPort_keep ?_
    | refine raise_keep ?_
    | refine portGo_keep ?_
    | refine portDown_keep ?_
    | refine blockRelease_keep ?_
    | refine laneReady_keep ?_
    | refine keep_ite_fst ?_ (fun _ => ?_)
    | refine keep_ite ?_ (fun _ => ?_)
    | refine keep_foldl ?_ _ ?_
    | refine keep_foldl_snd ?_ _ ?_
    | intro _

theorem portEval_keep : ∀ {n : Nat} {s : State} {p : Nat}, Keep m l k s0 s → Keep m l k s0 (portEval n s p)
  | 0, _, _, h => h
  | n + 1, s, p, h => by
    have h1 := portStep_keep (p := p) h
    unfold portEval
    dsimp only
    split
    · exact portEval_keep (n := n) h1
    · exact h1

theorem portJudge_keep {s : State} {p : Nat} (h : Keep m l k s0 s) : Keep m l k s0 (portJudge s p) := by
  unfold portJudge
  repeat' with_reducible first
    | assumption
    | refine portEval_keep ?_
    | refine mgtGather_keep ?_
    | refine keep_ite ?_ (fun _ => ?_)

theorem laneCross_keep {s : State} {n : Nat} (h : Keep m l k s0 s) : Keep m l k s0 (laneCross s n) := by
  unfold laneCross
  repeat' with_reducible first
    | assumption
    | refine portJudge_keep ?_
    | refine raise_keep ?_
    | refine laneAbsent_keep ?_

theorem laneT1_keep {s : State} {n : Nat} (h : Keep m l k s0 s) : Keep m l k s0 (laneT1 s n) := by
  unfold laneT1
  repeat' with_reducible first
    | assumption
    | refine laneCross_keep ?_
    | refine updPort_keep ?_
    | refine laneGo_keep ?_
    | refine updLane_keep ?_
    | refine keep_ite ?_ (fun _ => ?_)
    | refine keep_of_snd (by assumption) ?_
    | refine keep_of_snd3 (by assumption) ?_
    | refine keep_of_fst (by assumption) ?_
    | split
    | dsimp only

theorem mgtPop_keep {s : State} {n : Nat} (h : Keep m l k s0 s) : Keep m l k s0 (mgtPop s n) := by
  unfold mgtPop
  repeat' with_reducible first
    | assumption
    | refine laneT1_keep ?_
    | refine mgtNext_keep ?_
    | refine updLane_keep ?_

theorem mgtGot_keep {s : State} {n : Nat} {seq : Byte} {ack : Byte} (h : Keep m l k s0 s) : Keep m l k s0 (mgtGot s n seq ack) := by
  unfold mgtGot
  repeat' with_reducible first
    | assumption
    | refine updLane_keep ?_
    | refine mgtPop_keep ?_
    | refine keep_ite ?_ (fun _ => ?_)

theorem laneReadyPort_keep {s : State} {n : Nat} (h : Keep m l k s0 s) : Keep m l k s0 (laneReadyPort s n) := by
  unfold laneReadyPort
  repeat' with_reducible first
    | assumption
    | refine laneReady_keep ?_
    | refine portJudge_keep ?_
    | refine portMap_keep ?_
    | refine keep_ite ?_ (fun _ => ?_)

theorem portTrain_keep {s : State} {p : Nat} (h : Keep m l k s0 s) : Keep m l k s0 (portTrain s p) := by
  unfold portTrain
  repeat' with_reducible first
    | assumption
    | refine portGo_keep ?_
    | refine laneT0_keep ?_
    | refine keep_ite ?_ (fun _ => ?_)
    | refine keep_foldl ?_ _ ?_
    | refine keep_foldl_snd ?_ _ ?_
    | intro _

theorem portDark_keep {s : State} {p : Nat} (h : Keep m l k s0 s) : Keep m l k s0 (portDark s p) := by
  unfold portDark
  repeat' with_reducible first
    | assumption
    | refine updLane_keep ?_
    | refine laneOff_keep ?_
    | refine updPort_keep ?_
    | refine portGo_keep ?_
    | refine keep_ite ?_ (fun _ => ?_)
    | refine keep_foldl ?_ _ ?_
    | refine keep_foldl_snd ?_ _ ?_
    | intro _

theorem crdStart_keep {s : State} (h : Keep m l k s0 s) : Keep m l k s0 (crdStart s) := by
  unfold crdStart
  repeat' with_reducible first
    | assumption
    | refine portDark_keep ?_
    | refine portTrain_keep ?_
    | refine laneOff_keep ?_
    | refine laneT0_keep ?_
    | refine keep_ite ?_ (fun _ => ?_)
    | refine keep_foldl ?_ _ ?_
    | refine keep_foldl_snd ?_ _ ?_
    | intro _

theorem crdDark_keep {s : State} (h : Keep m l k s0 s) : Keep m l k s0 (crdDark s) := by
  unfold crdDark
  repeat' with_reducible first
    | assumption
    | refine laneOff_keep ?_
    | refine portDark_keep ?_
    | refine keep_ite ?_ (fun _ => ?_)
    | refine keep_foldl ?_ _ ?_
    | refine keep_foldl_snd ?_ _ ?_
    | intro _

theorem laneDisable_keep {s : State} {n : Nat} (h : Keep m l k s0 s) : Keep m l k s0 (laneDisable s n) := by
  unfold laneDisable
  repeat' with_reducible first
    | assumption
    | refine updLane_keep ?_
    | refine portJudge_keep ?_
    | refine laneOff_keep ?_
    | refine keep_ite ?_ (fun _ => ?_)

theorem lanePrbs_keep {s : State} {n : Nat} (h : Keep m l k s0 s) : Keep m l k s0 (lanePrbs s n) := by
  unfold lanePrbs
  repeat' with_reducible first
    | assumption
    | refine freshBelow_keep ?_
    | refine portJudge_keep ?_
    | refine laneGo_keep ?_
    | refine updLane_keep ?_
    | refine txAnew_keep ?_
    | refine laneT0_keep ?_
    | refine keep_ite ?_ (fun _ => ?_)

theorem laneCfg_keep {s : State} {n : Nat} {v : Word} (h : Keep m l k s0 s) : Keep m l k s0 (laneCfg s n v) := by
  unfold laneCfg
  repeat' with_reducible first
    | assumption
    | refine keep_regSet ?_
    | refine laneDisable_keep ?_
    | refine updLane_keep ?_
    | refine lanePrbs_keep ?_
    | refine keep_ite ?_ (fun _ => ?_)

theorem crdSleep_keep {s : State} (h : Keep m l k s0 s) : Keep m l k s0 (crdSleep s) := by
  unfold crdSleep
  repeat' with_reducible first
    | assumption
    | refine laneGo_keep ?_
    | refine updLane_keep ?_
    | refine txAnew_keep ?_
    | refine setSend_keep ?_
    | refine laneOff_keep ?_
    | refine portGo_keep ?_
    | refine updPort_keep ?_
    | refine keep_ite ?_ (fun _ => ?_)
    | refine keep_foldl ?_ _ ?_
    | refine keep_foldl_snd ?_ _ ?_
    | intro _

theorem crdRise_keep {s : State} (h : Keep m l k s0 s) : Keep m l k s0 (crdRise s) := by
  unfold crdRise
  repeat' with_reducible first
    | assumption
    | refine laneT0_keep ?_
    | refine keep_ite ?_ (fun _ => ?_)
    | refine keep_foldl ?_ _ ?_
    | refine keep_foldl_snd ?_ _ ?_
    | intro _

theorem crdWake_keep {s : State} (h : Keep m l k s0 s) : Keep m l k s0 (crdWake s) := by
  unfold crdWake
  repeat' with_reducible first
    | assumption
    | refine delayAsk_keep ?_
    | refine laneGo_keep ?_
    | refine setSend_keep ?_
    | refine portJudge_keep ?_
    | refine crdStart_keep ?_
    | refine crdRise_keep ?_
    | refine keep_ite ?_ (fun _ => ?_)
    | refine keep_foldl ?_ _ ?_
    | refine keep_foldl_snd ?_ _ ?_
    | intro _

theorem execLaneT0Done_keep {lane : Fin 50} {s : State} : KeepO m l k s (execLaneT0Done lane s) := by
  have h := Keep.refl m l k s
  unfold execLaneT0Done
  repeat' with_reducible first
    | assumption
    | refine begin_keep ?_
    | refine laneGo_keep ?_
    | refine setSend_keep ?_
    | refine mgtPost_keep ?_
    | refine keep_ite ?_ (fun _ => ?_)
    | refine keepO_next ?_

theorem execCapabilityRx_keep {lane : Fin 50} {rec_ : PacketHead × List Byte} {s : State} : KeepO m l k s (execCapabilityRx lane rec_ s) := by
  have h := Keep.refl m l k s
  unfold execCapabilityRx
  repeat' with_reducible first
    | assumption
    | refine begin_keep ?_
    | refine mgtGot_keep ?_
    | refine laneT1_keep ?_
    | refine updLane_keep ?_
    | refine portJudge_keep ?_
    | refine laneAbsent_keep ?_
    | refine laneCross_keep ?_
    | refine raise_keep ?_
    | refine keep_ite ?_ (fun _ => ?_)
    | refine keepO_next ?_

theorem eyeJudge_keep {s : State} {n : Nat} {vbu : Bool} {fom : Nat} (h : Keep m l k s0 s) : Keep m l k s0 (eyeJudge s n vbu fom) := by
  unfold eyeJudge
  repeat' with_reducible first
    | assumption
    | refine updLane_keep ?_
    | refine raise_keep ?_
    | refine keep_ite ?_ (fun _ => ?_)

theorem execLaneEyeResult_keep {lane : Fin 50} {own : Byte} {vbu : Byte} {s : State} : KeepO m l k s (execLaneEyeResult lane own vbu s) := by
  have h := Keep.refl m l k s
  unfold execLaneEyeResult
  repeat' with_reducible first
    | assumption
    | refine begin_keep ?_
    | refine eyeJudge_keep ?_
    | refine delayAsk_keep ?_
    | refine laneGo_keep ?_
    | refine updLane_keep ?_
    | refine portJudge_keep ?_
    | refine laneAbsent_keep ?_
    | refine keep_ite ?_ (fun _ => ?_)
    | refine keepO_next ?_

theorem execDelayTrainingDone_keep {lane : Fin 50} {samples : List (Nat × Nat)} {s : State} : KeepO m l k s (execDelayTrainingDone lane samples s) := by
  have h := Keep.refl m l k s
  unfold execDelayTrainingDone
  repeat' with_reducible first
    | assumption
    | refine begin_keep ?_
    | refine delayAsk_keep ?_
    | refine updLane_keep ?_
    | refine portJudge_keep ?_
    | refine laneAbsent_keep ?_
    | refine laneReadyPort_keep ?_
    | refine laneGo_keep ?_
    | refine keep_ite ?_ (fun _ => ?_)
    | refine keepO_next ?_

theorem execMapAckRx_keep {lane : Fin 48} {mapId : Byte} {result : PacketHead × Byte} {s : State} : KeepO m l k s (execMapAckRx lane mapId result s) := by
  have h := Keep.refl m l k s
  unfold execMapAckRx
  repeat' with_reducible first
    | assumption
    | refine begin_keep ?_
    | refine mgtGot_keep ?_
    | refine portJudge_keep ?_
    | refine laneGo_keep ?_
    | refine laneAbsent_keep ?_
    | refine keep_ite ?_ (fun _ => ?_)
    | refine keepO_next ?_

theorem execLanePhaseTimeout_keep {lane : Fin 50} {s : State} : KeepO m l k s (execLanePhaseTimeout lane s) := by
  have h := Keep.refl m l k s
  unfold execLanePhaseTimeout
  repeat' with_reducible first
    | assumption
    | refine begin_keep ?_
    | refine portJudge_keep ?_
    | refine laneAbsent_keep ?_
    | refine keep_ite ?_ (fun _ => ?_)
    | refine keepO_next ?_

theorem execLaneRetryTimer_keep {lane : Fin 50} {s : State} : KeepO m l k s (execLaneRetryTimer lane s) := by
  have h := Keep.refl m l k s
  unfold execLaneRetryTimer
  repeat' with_reducible first
    | assumption
    | refine begin_keep ?_
    | refine laneT0_keep ?_
    | refine updLane_keep ?_
    | refine keep_ite ?_ (fun _ => ?_)
    | refine keepO_next ?_

theorem lanesQuit_keep {s : State} {p : Nat} (h : Keep m l k s0 s) : Keep m l k s0 (lanesQuit s p) := by
  unfold lanesQuit
  repeat' with_reducible first
    | assumption
    | refine laneGo_keep ?_
    | refine updLane_keep ?_
    | refine keep_ite ?_ (fun _ => ?_)
    | refine keep_foldl ?_ _ ?_
    | refine keep_foldl_snd ?_ _ ?_
    | intro _

theorem execPortTrainTimeout_keep {port : Fin 6} {s : State} : KeepO m l k s (execPortTrainTimeout port s) := by
  have h := Keep.refl m l k s
  unfold execPortTrainTimeout
  repeat' with_reducible first
    | assumption
    | refine begin_keep ?_
    | refine lanesQuit_keep ?_
    | refine portJudge_keep ?_
    | refine portMap_keep ?_
    | refine portDown_keep ?_
    | refine keep_ite ?_ (fun _ => ?_)
    | refine keepO_next ?_

theorem laneFail_keep {s : State} {n : Nat} {cause : Nat} (h : Keep m l k s0 s) : Keep m l k s0 (laneFail s n cause) := by
  unfold laneFail
  repeat' with_reducible first
    | assumption
    | refine portJudge_keep ?_
    | refine laneT0_keep ?_
    | refine raise_keep ?_
    | refine keep_ite ?_ (fun _ => ?_)

theorem execLaneLinkError_keep {lane : Fin 50} {s : State} : KeepO m l k s (execLaneLinkError lane s) := by
  have h := Keep.refl m l k s
  unfold execLaneLinkError
  repeat' with_reducible first
    | assumption
    | refine laneFail_keep ?_
    | refine begin_keep ?_
    | refine keep_ite ?_ (fun _ => ?_)
    | refine keepO_next ?_

theorem execRtrRx_keep {lane : Fin 50} {s : State} : KeepO m l k s (execRtrRx lane s) := by
  have h := Keep.refl m l k s
  unfold execRtrRx
  repeat' with_reducible first
    | assumption
    | refine laneFail_keep ?_
    | refine begin_keep ?_
    | refine keep_ite ?_ (fun _ => ?_)
    | refine keepO_next ?_

theorem execRateErr_keep {lane : Fin 50} {s : State} : KeepO m l k s (execRateErr lane s) := by
  have h := Keep.refl m l k s
  unfold execRateErr
  repeat' with_reducible first
    | assumption
    | refine laneFail_keep ?_
    | refine raise_keep ?_
    | refine begin_keep ?_
    | refine keep_ite ?_ (fun _ => ?_)
    | refine keepO_next ?_

theorem execDlyExchangeTimer_keep {lane : Fin 50} {s : State} : KeepO m l k s (execDlyExchangeTimer lane s) := by
  have h := Keep.refl m l k s
  unfold execDlyExchangeTimer
  repeat' with_reducible first
    | assumption
    | refine begin_keep ?_
    | refine delayAsk_keep ?_
    | refine updLane_keep ?_
    | refine keep_ite ?_ (fun _ => ?_)
    | refine keepO_next ?_

theorem delaySample_keep {s : State} {n : Nat} {d2 : Int} (h : Keep m l k s0 s) : Keep m l k s0 (delaySample s n d2) := by
  unfold delaySample
  repeat' with_reducible first
    | assumption
    | refine updLane_keep ?_
    | refine raise_keep ?_
    | refine keep_ite ?_ (fun _ => ?_)

theorem execDlyRspRx_keep {lane : Fin 50} {exch : Byte} {rtt : Nat} {turn : Nat} {s : State} : KeepO m l k s (execDlyRspRx lane exch rtt turn s) := by
  have h := Keep.refl m l k s
  unfold execDlyRspRx
  repeat' with_reducible first
    | assumption
    | refine begin_keep ?_
    | refine updLane_keep ?_
    | refine delaySample_keep ?_
    | refine keep_ite ?_ (fun _ => ?_)
    | refine keepO_next ?_

theorem execEyeMeasure_keep {lane : Fin 50} {fom : Byte} {s : State} : KeepO m l k s (execEyeMeasure lane fom s) := by
  have h := Keep.refl m l k s
  unfold execEyeMeasure
  repeat' with_reducible first
    | assumption
    | refine begin_keep ?_
    | refine eyeJudge_keep ?_
    | refine keep_ite ?_ (fun _ => ?_)
    | refine keepO_next ?_

theorem laneRetrain_keep {s : State} {n : Nat} (h : Keep m l k s0 s) : Keep m l k s0 (laneRetrain s n) := by
  unfold laneRetrain
  repeat' with_reducible first
    | assumption
    | refine portJudge_keep ?_
    | refine laneT0_keep ?_
    | refine raise_keep ?_

theorem execLaneWakeDone_keep {wake : WakeReport} {s : State} : KeepO m l k s (execLaneWakeDone wake s) := by
  have h := Keep.refl m l k s
  unfold execLaneWakeDone
  repeat' with_reducible first
    | assumption
    | refine begin_keep ?_
    | refine portJudge_keep ?_
    | refine laneGo_keep ?_
    | refine laneRetrain_keep ?_
    | refine keep_ite ?_ (fun _ => ?_)
    | refine keepO_next ?_

theorem execLaneWakeTimeout_keep {lane : Fin 48} {s : State} : KeepO m l k s (execLaneWakeTimeout lane s) := by
  have h := Keep.refl m l k s
  unfold execLaneWakeTimeout
  repeat' with_reducible first
    | assumption
    | refine begin_keep ?_
    | refine laneRetrain_keep ?_
    | refine keep_ite ?_ (fun _ => ?_)
    | refine keepO_next ?_

theorem execLaneDisable_keep {pf : Pf} {lane : Fin 48} {v : Word} {s : State} : KeepO m l k s (execLaneDisable pf lane v s) := by
  have h := Keep.refl m l k s
  unfold execLaneDisable
  repeat' with_reducible first
    | assumption
    | refine hostPf0_keep ?_ ?_
    | refine begin_keep ?_
    | refine laneCfg_keep ?_
    | refine keep_ite ?_ (fun _ => ?_)
    | refine keepO_next ?_
    | refine keepO_ite ?_ ?_
    | intro _

theorem cmdRes_keep {s : State} {st : Nat} (h : Keep m l k s0 s) : Keep m l k s0 (cmdRes s st) := by
  unfold cmdRes
  repeat' with_reducible first
    | assumption
    | refine keep_ite ?_ (fun _ => ?_)
    | refine keep_mk ?_ rfl rfl rfl rfl rfl rfl rfl rfl

theorem execRetrainLane_keep {pf : Pf} {key : BitVec 16} {lane : Fin 64} {s : State} : KeepO m l k s (execRetrainLane pf key lane s) := by
  have h := Keep.refl m l k s
  unfold execRetrainLane
  repeat' with_reducible first
    | assumption
    | refine hostPf0_keep ?_ ?_
    | refine begin_keep ?_
    | refine cmdRes_keep ?_
    | refine portJudge_keep ?_
    | refine laneT0_keep ?_
    | refine keep_ite ?_ (fun _ => ?_)
    | refine keepO_next ?_
    | refine keepO_ite ?_ ?_
    | intro _

theorem execRetrainPort_keep {pf : Pf} {key : BitVec 16} {port : Fin 8} {s : State} : KeepO m l k s (execRetrainPort pf key port s) := by
  have h := Keep.refl m l k s
  unfold execRetrainPort
  repeat' with_reducible first
    | assumption
    | refine hostPf0_keep ?_ ?_
    | refine begin_keep ?_
    | refine cmdRes_keep ?_
    | refine portGo_keep ?_
    | refine updPort_keep ?_
    | refine laneT0_keep ?_
    | refine keep_ite ?_ (fun _ => ?_)
    | refine keepO_next ?_
    | refine keepO_ite ?_ ?_
    | refine keep_foldl ?_ _ ?_
    | refine keep_foldl_snd ?_ _ ?_
    | intro _

theorem execRemap_keep {pf : Pf} {key : BitVec 16} {port : Fin 8} {s : State} : KeepO m l k s (execRemap pf key port s) := by
  have h := Keep.refl m l k s
  unfold execRemap
  repeat' with_reducible first
    | assumption
    | refine hostPf0_keep ?_ ?_
    | refine begin_keep ?_
    | refine cmdRes_keep ?_
    | refine portJudge_keep ?_
    | refine portMap_keep ?_
    | refine keep_ite ?_ (fun _ => ?_)
    | refine keepO_next ?_
    | refine keepO_ite ?_ ?_
    | intro _

end Sys2Proof.Machine
end

