-- ==== Sys2Proof/Laws/KeepCordLink.lean ====
section
/-!
SUPPORT. What every operation of Machine/CordLink.lean keeps.
-/
namespace Sys2Proof.Machine
set_option Elab.async false

variable {m l k : Bool} {s0 : State}

theorem partTake_keep {n : Nat} {s : State} {bs : List Byte} (h : Keep m l k s0 s) : Keep m l k s0 (partTake n s bs) := by
  unfold partTake
  repeat' with_reducible first
    | assumption
    | refine mgtAck_keep ?_
    | refine mgtGot_keep ?_
    | refine keep_ite ?_ (fun _ => ?_)

theorem uplinkError_keep {n : Nat} {s : State} {f : UpFrame} (h : Keep m l k s0 s) : Keep m l k s0 (uplinkError n s f) := by
  unfold uplinkError
  repeat' with_reducible first
    | assumption
    | refine regInc_keep ?_
    | refine updLane_keep ?_
    | refine laneFail_keep ?_
    | refine keep_ite ?_ (fun _ => ?_)

theorem uplinkErrors_keep {s : State} {x : LaneRx} (h : Keep m l k s0 s) : Keep m l k s0 (uplinkErrors s x) := by
  unfold uplinkErrors
  repeat' with_reducible first
    | assumption
    | refine uplinkError_keep ?_
    | refine laneFail_keep ?_
    | refine keep_ite ?_ (fun _ => ?_)
    | refine keep_foldl ?_ _ ?_
    | refine keep_foldl_snd ?_ _ ?_
    | intro _

theorem uplinkContent_keep {s : State} {p : Nat} {n : Nat} {carry : Bool} {ok : Bool} {f : UpFrame} (h : Keep m l k s0 s) : Keep m l k s0 (uplinkContent s p n carry ok f) := by
  unfold uplinkContent
  repeat' with_reducible first
    | assumption
    | refine raise_keep ?_
    | refine blockRelease_keep ?_
    | refine keep_ite ?_ (fun _ => ?_)

theorem laneLatch_keep {us : List LaneRx} {p : Nat} {idx : Nat} {carry : Bool} {s : State} {n : Nat} (h : Keep m l k s0 s) : Keep m l k s0 (laneLatch us p idx carry s n) := by
  unfold laneLatch
  repeat' with_reducible first
    | assumption
    | refine uplinkContent_keep ?_
    | refine iter_keep ?_ ?_
    | refine raise_keep ?_
    | refine updLane_keep ?_
    | refine regInc_keep ?_
    | refine keep_ite ?_ (fun _ => ?_)
    | refine keep_foldl ?_ _ ?_
    | refine keep_foldl_snd ?_ _ ?_
    | refine keep_of_snd (by assumption) ?_
    | refine keep_of_snd3 (by assumption) ?_
    | refine keep_of_fst (by assumption) ?_
    | intro _
    | split
    | dsimp only

theorem portLatch_keep {us : List LaneRx} {idx : Nat} {s : State} {p : Nat} (h : Keep m l k s0 s) : Keep m l k s0 (portLatch us idx s p) := by
  unfold portLatch
  repeat' with_reducible first
    | assumption
    | refine laneLatch_keep ?_
    | refine updPort_keep ?_
    | refine regInc_keep ?_
    | refine keep_ite ?_ (fun _ => ?_)
    | refine keep_foldl ?_ _ ?_
    | refine keep_foldl_snd ?_ _ ?_
    | intro _

theorem crdLatch_keep {s : State} {us : List Uplink} {idx : Nat} (h : Keep m l k s0 s) : Keep m l k s0 (crdLatch s us idx) := by
  unfold crdLatch
  refine keep_foldl (fun _ _ => uplinkErrors_keep) _ (keep_foldl (fun _ _ => portLatch_keep) _ ?_)
  refine keep_foldl_fst (fun p _ hp => ?_) _ h
  unfold rxTake
  repeat' with_reducible first
    | assumption
    | refine regInc_keep ?_
    | refine raise_keep ?_
    | refine updLane_keep ?_
    | refine updPort_keep ?_
    | refine keep_regSet ?_
    | refine regPut_keep ?_
    | refine mgtAck_keep ?_
    | refine partTake_keep ?_
    | refine keep_foldl ?_ _ ?_
    | contradiction
    | split
    | dsimp only
    | intro _

theorem laneFrame_keep {p : Nat} {idx : Nat} {block : Bool} {build : List (Fin 48)} {offs : List (Fin 48)} {s : State} {n : Nat} (h : Keep m l k s0 s) : Keep m l k s0 (laneFrame p idx block build offs s n) := by
  unfold laneFrame
  repeat' with_reducible first
    | assumption
    | refine freshBelow_keep ?_
    | refine laneSend_keep ?_
    | refine raise_keep ?_
    | refine blockRelease_keep ?_
    | refine keep_ite ?_ (fun _ => ?_)

theorem vencCheck_keep {p : Nat} {block : Bool} {s : State} (h : Keep m l k s0 s) : Keep m l k s0 (vencCheck p block s) := by
  unfold vencCheck
  repeat' with_reducible first
    | assumption
    | refine raise_keep ?_
    | refine keep_regSet ?_
    | refine regInc_keep ?_
    | refine blockRelease_keep ?_
    | refine keep_ite ?_ (fun _ => ?_)
    | refine keep_foldl ?_ _ ?_
    | refine keep_foldl_snd ?_ _ ?_
    | intro _

theorem portFrames_keep {idx : Nat} {build : List (Fin 48)} {offs : List (Fin 48)} {s : State} {p : Nat} (h : Keep m l k s0 s) : Keep m l k s0 (portFrames idx build offs s p) := by
  unfold portFrames
  repeat' with_reducible first
    | assumption
    | refine laneFrame_keep ?_
    | refine vencCheck_keep ?_
    | refine updPort_keep ?_
    | refine keep_ite ?_ (fun _ => ?_)
    | refine keep_foldl ?_ _ ?_
    | refine keep_foldl_snd ?_ _ ?_
    | intro _

theorem portAfter_keep {s : State} {p : Nat} (h : Keep m l k s0 s) : Keep m l k s0 (portAfter s p) := by
  unfold portAfter
  repeat' with_reducible first
    | assumption
    | refine portJudge_keep ?_
    | refine laneOff_keep ?_
    | refine keep_ite ?_ (fun _ => ?_)
    | refine keep_foldl ?_ _ ?_
    | refine keep_foldl_snd ?_ _ ?_
    | intro _

theorem prbsSend_keep {s : State} {n : Nat} (h : Keep m l k s0 s) : Keep m l k s0 (prbsSend s n) := by
  unfold prbsSend
  repeat' with_reducible first
    | assumption
    | refine updLane_keep ?_
    | refine send_keep ?_
    | refine keep_ite ?_ (fun _ => ?_)
    | refine keep_of_snd (by assumption) ?_
    | refine keep_of_snd3 (by assumption) ?_
    | refine keep_of_fst (by assumption) ?_
    | split

theorem laneFil_keep {s : State} {n : Nat} (h : Keep m l k s0 s) : Keep m l k s0 (laneFil s n) := by
  unfold laneFil
  repeat' with_reducible first
    | assumption
    | refine setSend_keep ?_
    | refine prbsSend_keep ?_
    | refine keep_ite ?_ (fun _ => ?_)

theorem crdFrames_keep {s : State} {idx : Nat} {build : List (Fin 48)} {offs : List (Fin 48)} (h : Keep m l k s0 s) : Keep m l k s0 (crdFrames s idx build offs) := by
  unfold crdFrames
  repeat' with_reducible first
    | assumption
    | refine laneFil_keep ?_
    | refine portFrames_keep ?_
    | refine keep_ite ?_ (fun _ => ?_)
    | refine keep_foldl ?_ _ ?_
    | refine keep_foldl_snd ?_ _ ?_
    | intro _

theorem crdDelays_keep {s : State} (h : Keep m l k s0 s) : Keep m l k s0 (crdDelays s) := by
  unfold crdDelays
  repeat' with_reducible first
    | assumption
    | refine keep_ite ?_ (fun _ => ?_)
    | refine keep_mk ?_ rfl rfl rfl rfl rfl rfl rfl rfl

theorem ackTick_keep {s : State} {n : Nat} (h : Keep m l k s0 s) : Keep m l k s0 (ackTick s n) := by
  unfold ackTick
  repeat' with_reducible first
    | assumption
    | refine mgtAck_keep ?_
    | refine updLane_keep ?_
    | refine keep_ite ?_ (fun _ => ?_)
    | refine keep_of_snd (by assumption) ?_
    | refine keep_of_snd3 (by assumption) ?_
    | refine keep_of_fst (by assumption) ?_
    | split

theorem crdAfter_keep {s : State} (h : Keep m l k s0 s) : Keep m l k s0 (crdAfter s) := by
  unfold crdAfter
  repeat' with_reducible first
    | assumption
    | refine ackTick_keep ?_
    | refine portAfter_keep ?_
    | refine crdDelays_keep ?_
    | refine keep_ite ?_ (fun _ => ?_)
    | refine keep_foldl ?_ _ ?_
    | refine keep_foldl_snd ?_ _ ?_
    | intro _

theorem execMgtRequest_keep {pf : Pf} {key : BitVec 16} {port : Fin 8} {len : Fin 128} {tag : Fin 64} {s : State} : KeepO m l k s (execMgtRequest pf key port len tag s) := by
  have h := Keep.refl m l k s
  unfold execMgtRequest
  repeat' with_reducible first
    | assumption
    | refine hostPf0_keep ?_ ?_
    | refine begin_keep ?_
    | refine updPort_keep ?_
    | refine mgtPost_keep ?_
    | refine keep_ite ?_ (fun _ => ?_)
    | refine keepO_next ?_
    | refine keepO_ite ?_ ?_
    | refine keep_of_snd (by assumption) ?_
    | refine keep_of_snd3 (by assumption) ?_
    | refine keep_of_fst (by assumption) ?_
    | intro _
    | split
    | dsimp only
    | refine keep_mk ?_ rfl rfl rfl rfl rfl rfl rfl rfl

theorem mgtCancel_keep {s : State} {p : Nat} (h : Keep m l k s0 s) : Keep m l k s0 (mgtCancel s p) := by
  exact keep_foldl (fun _ _ => mgtShed_keep) _ h

theorem execMgtResponseRx_keep {port : Fin 6} {tag : BitVec 16} {data : PacketHead × List Byte} {s : State} : KeepO m l k s (execMgtResponseRx port tag data s) := by
  have h := Keep.refl m l k s
  unfold execMgtResponseRx
  repeat' with_reducible first
    | assumption
    | refine begin_keep ?_
    | refine mgtAck_keep ?_
    | refine mgtGot_keep ?_
    | refine reqEnd_keep ?_
    | refine mgtCancel_keep ?_
    | refine keep_ite ?_ (fun _ => ?_)
    | refine keepO_next ?_
    | refine keepO_ite ?_ ?_
    | refine keep_of_snd (by assumption) ?_
    | refine keep_of_snd3 (by assumption) ?_
    | refine keep_of_fst (by assumption) ?_
    | split

theorem execMgtEventRx_keep {lane : Fin 48} {head : PacketHead} {data : List Byte} {s : State} : KeepO m l k s (execMgtEventRx lane head data s) := by
  have h := Keep.refl m l k s
  unfold execMgtEventRx
  repeat' with_reducible first
    | assumption
    | refine begin_keep ?_
    | refine mgtAck_keep ?_
    | refine mgtGot_keep ?_
    | refine logNow_keep ?_
    | refine keep_ite ?_ (fun _ => ?_)
    | refine keepO_next ?_

theorem execMgtFomRx_keep {lane : Fin 48} {fom : PacketHead × Byte} {s : State} : KeepO m l k s (execMgtFomRx lane fom s) := by
  have h := Keep.refl m l k s
  unfold execMgtFomRx
  repeat' with_reducible first
    | assumption
    | refine begin_keep ?_
    | refine mgtGot_keep ?_
    | refine eyeJudge_keep ?_
    | refine keep_ite ?_ (fun _ => ?_)
    | refine keepO_next ?_

theorem execMgtAckRx_keep {lane : Fin 50} {ack : Byte} {nak : Bool} {s : State} : KeepO m l k s (execMgtAckRx lane ack nak s) := by
  have h := Keep.refl m l k s
  unfold execMgtAckRx
  repeat' with_reducible first
    | assumption
    | refine begin_keep ?_
    | refine mgtResend_keep ?_
    | refine mgtPop_keep ?_
    | refine keep_ite ?_ (fun _ => ?_)
    | refine keepO_next ?_
    | refine keepO_ite ?_ ?_
    | refine keep_of_snd (by assumption) ?_
    | refine keep_of_snd3 (by assumption) ?_
    | refine keep_of_fst (by assumption) ?_
    | split

theorem execMgtRetryTimer_keep {lane : Fin 50} {s : State} : KeepO m l k s (execMgtRetryTimer lane s) := by
  have h := Keep.refl m l k s
  unfold execMgtRetryTimer
  repeat' with_reducible first
    | assumption
    | refine mgtResend_keep ?_
    | refine begin_keep ?_
    | refine keep_ite ?_ (fun _ => ?_)
    | refine keepO_next ?_

theorem execMgtReqTimeout_keep {port : Fin 6} {s : State} : KeepO m l k s (execMgtReqTimeout port s) := by
  have h := Keep.refl m l k s
  unfold execMgtReqTimeout
  repeat' with_reducible first
    | assumption
    | refine begin_keep ?_
    | refine reqEnd_keep ?_
    | refine mgtCancel_keep ?_
    | refine keep_ite ?_ (fun _ => ?_)
    | refine keepO_next ?_

theorem execMgtResRead_keep {pf : Pf} {s : State} : KeepO m l k s (execMgtResRead pf s) := by
  have h := Keep.refl m l k s
  unfold execMgtResRead
  repeat' with_reducible first
    | assumption
    | refine hostRead_keep ?_ ?_
    | refine begin_keep ?_
    | refine keep_ite ?_ (fun _ => ?_)
    | refine keepO_next ?_
    | refine keepO_ite ?_ ?_
    | intro _
    | refine keep_mk ?_ rfl rfl rfl rfl rfl rfl rfl rfl

theorem svcRes_keep {s : State} {st : Nat} (h : Keep m l k s0 s) : Keep m l k s0 (svcRes s st) := by
  unfold svcRes
  repeat' with_reducible first
    | assumption
    | refine keep_ite ?_ (fun _ => ?_)
    | refine keep_mk ?_ rfl rfl rfl rfl rfl rfl rfl rfl

theorem svcEnd_keep {s : State} {st : Nat} (h : Keep m l k s0 s) : Keep m l k s0 (svcEnd s st) := by
  unfold svcEnd
  repeat' with_reducible first
    | assumption
    | refine regPut_keep ?_
    | refine logNow_keep ?_
    | refine keep_ite ?_ (fun _ => ?_)
    | refine keep_of_snd (by assumption) ?_
    | refine keep_of_snd3 (by assumption) ?_
    | refine keep_of_fst (by assumption) ?_
    | split
    | dsimp only
    | refine keep_mk ?_ rfl rfl rfl rfl rfl rfl rfl rfl

theorem execSvcPulse_keep {pf : Pf} {key : BitVec 16} {choice : Fin 4} {port : Fin 8} {sm : Fin 512} {s : State} : KeepO m l k s (execSvcPulse pf key choice port sm s) := by
  have h := Keep.refl m l k s
  unfold execSvcPulse
  repeat' with_reducible first
    | assumption
    | refine hostPf0_keep ?_ ?_
    | refine begin_keep ?_
    | refine svcRes_keep ?_
    | refine keep_ite ?_ (fun _ => ?_)
    | refine keepO_next ?_
    | refine keepO_ite ?_ ?_
    | intro _
    | refine keep_mk ?_ rfl rfl rfl rfl rfl rfl rfl rfl

theorem execSvcStop_keep {pf : Pf} {key : BitVec 16} {s : State} : KeepO m l k s (execSvcStop pf key s) := by
  have h := Keep.refl m l k s
  unfold execSvcStop
  repeat' with_reducible first
    | assumption
    | refine hostPf0_keep ?_ ?_
    | refine begin_keep ?_
    | refine svcRes_keep ?_
    | refine svcEnd_keep ?_
    | refine keep_ite ?_ (fun _ => ?_)
    | refine keepO_next ?_
    | refine keepO_ite ?_ ?_
    | intro _

theorem execSvcPulseEnd_keep {s : State} : KeepO m l k s (execSvcPulseEnd s) := by
  have h := Keep.refl m l k s
  unfold execSvcPulseEnd
  repeat' with_reducible first
    | assumption
    | refine svcEnd_keep ?_
    | refine begin_keep ?_
    | refine keep_ite ?_ (fun _ => ?_)
    | refine keepO_next ?_

theorem svcTick_keep {s : State} (h : Keep m l k s0 s) : Keep m l k s0 (svcTick s) := by
  unfold svcTick
  repeat' with_reducible first
    | assumption
    | refine svcEnd_keep ?_
    | refine keep_ite ?_ (fun _ => ?_)
    | refine keep_of_snd (by assumption) ?_
    | refine keep_of_snd3 (by assumption) ?_
    | refine keep_of_fst (by assumption) ?_
    | split
    | dsimp only
    | refine keep_mk ?_ rfl rfl rfl rfl rfl rfl rfl rfl

theorem crdMode_keep {s : State} {old : Mode} {new : Mode} {claim : Bool} (h : Keep m l k s0 s) : Keep m l k s0 (crdMode s old new claim) := by
  unfold crdMode
  dsimp only
  have h1 : Keep m l k s0 (if old = .md11 then svcEnd s 3 else s) := keep_ite h fun _ => svcEnd_keep h
  generalize (if old = .md11 then svcEnd s 3 else s) = t at h1
  split
  · exact crdSleep_keep h1
  split
  · split
    · exact crdStart_keep (crdRise_keep h1)
    · exact crdWake_keep h1
  · exact keep_ite (crdStart_keep h1) fun h2 => keep_foldl (fun _ _ => lanePrbs_keep) _ h2

theorem crdReset_keep {s : State} (h : Keep m l k s0 s) : Keep m l k s0 (crdReset s) := by
  unfold crdReset
  repeat' with_reducible first
    | assumption
    | refine svcEnd_keep ?_
    | refine portDark_keep ?_
    | refine keep_ite ?_ (fun _ => ?_)
    | refine keep_foldl ?_ _ ?_
    | refine keep_foldl_snd ?_ _ ?_
    | intro _
    | refine keep_mk ?_ rfl rfl rfl rfl rfl rfl rfl rfl

end Sys2Proof.Machine
end

