-- ==== Sys2Proof/Laws/KeepAdc.lean ====
section
/-!
SUPPORT. What every operation of Machine/Adc.lean keeps.
-/
namespace Sys2Proof.Machine
set_option Elab.async false

variable {m l k : Bool} {s0 : State}

theorem keep_regsFilter {s : State} (p : Nat × Word → Bool) (h : Keep m l k s0 s) : Keep m l k s0 { s with regs := s.regs.filter p } :=
  ⟨h.queue, fun i => ⟨(h.inv i).1, tabWf_filter p (h.inv i).2.1, (h.inv i).2.2⟩, h.arc, h.mode, h.lock, h.tick⟩

theorem startInv_keep {s : State} {i : Nat} {n : Nat} (h : Keep m l k s0 s) : Keep m l k s0 (startInv s i n) := by
  unfold startInv
  repeat' with_reducible first
    | assumption
    | refine updChain_keep ?_
    | refine raise_keep ?_
    | refine keep_ite ?_ (fun _ => ?_)

theorem wrRes_keep {s : State} {i : Nat} {st : Nat} (h : Keep m l k s0 s) : Keep m l k s0 (wrRes s i st) := by
  unfold wrRes
  repeat' with_reducible first
    | assumption
    | refine keep_ite ?_ (fun _ => ?_)
    | refine keep_mk ?_ rfl rfl rfl rfl rfl rfl rfl rfl

theorem wrRefuse_keep {s : State} {i : Nat} {st : Nat} (h : Keep m l k s0 s) : Keep m l k s0 (wrRefuse s i st) := by
  unfold wrRefuse
  repeat' with_reducible first
    | assumption
    | refine raise_keep ?_
    | refine wrRes_keep ?_

theorem swapTake_keep {s : State} {i : Nat} {b : Bool} {fade : Nat} (h : Keep m l k s0 s) : Keep m l k s0 (swapTake s i b fade) := by
  unfold swapTake
  repeat' with_reducible first
    | assumption
    | refine wrRes_keep ?_
    | refine raise_keep ?_
    | refine updChain_keep ?_
    | refine startInv_keep ?_
    | refine keep_ite ?_ (fun _ => ?_)

theorem swapDue_keep {s : State} {i : Nat} (h : Keep m l k s0 s) : Keep m l k s0 (swapDue s i) := by
  unfold swapDue
  repeat' with_reducible first
    | assumption
    | refine swapTake_keep ?_
    | refine updChain_keep ?_
    | refine keep_ite ?_ (fun _ => ?_)
    | refine keep_of_snd (by assumption) ?_
    | refine keep_of_snd3 (by assumption) ?_
    | refine keep_of_fst (by assumption) ?_
    | split

theorem chainTake_keep {s : State} {i : Nat} {restart : Nat} (h : Keep m l k s0 s) : Keep m l k s0 (chainTake s i restart) := by
  unfold chainTake
  repeat' with_reducible first
    | assumption
    | refine updChain_keep ?_
    | refine startInv_keep ?_
    | refine swapDue_keep ?_
    | refine keep_ite ?_ (fun _ => ?_)

theorem adcStart_keep {s : State} (h : Keep m l k s0 s) : Keep m l k s0 (adcStart s) := by
  unfold adcStart
  repeat' with_reducible first
    | assumption
    | refine chainTake_keep ?_
    | refine keep_ite ?_ (fun _ => ?_)
    | refine keep_foldl ?_ _ ?_
    | refine keep_foldl_snd ?_ _ ?_
    | intro _

theorem fadeEnd_keep {s : State} {i : Nat} (h : Keep m l k s0 s) : Keep m l k s0 (fadeEnd s i) := by
  unfold fadeEnd
  repeat' with_reducible first
    | assumption
    | refine updChain_keep ?_

theorem calEnd_keep {s : State} {i : Nat} {cmd : Nat} {st : Nat} (h : Keep m l k s0 s) : Keep m l k s0 (calEnd s i cmd st) := by
  unfold calEnd
  repeat' with_reducible first
    | assumption
    | refine raise_keep ?_
    | refine keep_ite ?_ (fun _ => ?_)
    | refine keep_mk ?_ rfl rfl rfl rfl rfl rfl rfl rfl

theorem measEnd_keep {s : State} (h : Keep m l k s0 s) : Keep m l k s0 (measEnd s) := by
  unfold measEnd
  repeat' with_reducible first
    | assumption
    | refine calEnd_keep ?_
    | refine keep_ite ?_ (fun _ => ?_)
    | refine keep_of_snd (by assumption) ?_
    | refine keep_of_snd3 (by assumption) ?_
    | refine keep_of_fst (by assumption) ?_
    | split
    | dsimp only
    | refine keep_mk ?_ rfl rfl rfl rfl rfl rfl rfl rfl

theorem measTake_keep {s : State} {i : Nat} {x : Int} (h : Keep m l k s0 s) : Keep m l k s0 (measTake s i x) := by
  unfold measTake
  repeat' with_reducible first
    | assumption
    | refine measEnd_keep ?_
    | refine keep_ite ?_ (fun _ => ?_)
    | refine keep_of_snd (by assumption) ?_
    | refine keep_of_snd3 (by assumption) ?_
    | refine keep_of_fst (by assumption) ?_
    | split
    | dsimp only
    | refine keep_mk ?_ rfl rfl rfl rfl rfl rfl rfl rfl

theorem chainEvents_keep {s : State} {i : Nat} {old : Chain} {ovr : Bool} {full : Bool} {win : Bool} (h : Keep m l k s0 s) : Keep m l k s0 (chainEvents s i old ovr full win) := by
  unfold chainEvents
  repeat' with_reducible first
    | assumption
    | refine regInc_keep ?_
    | refine raise_keep ?_
    | refine chainTake_keep ?_
    | refine keep_ite ?_ (fun _ => ?_)
    | refine keep_mk ?_ rfl rfl rfl rfl rfl rfl rfl rfl

theorem chainOutput_keep {s : State} {i : Nat} {raw : List (BitVec 16)} (h : Keep m l k s0 s) : Keep m l k s0 (chainOutput s i raw) := by
  unfold chainOutput
  repeat' with_reducible first
    | assumption
    | refine swapDue_keep ?_
    | refine measTake_keep ?_
    | refine updChain_keep ?_
    | refine fadeEnd_keep ?_
    | refine chainEvents_keep ?_
    | refine keep_ite ?_ (fun _ => ?_)
    | refine keep_of_snd (by assumption) ?_
    | refine keep_of_snd3 (by assumption) ?_
    | refine keep_of_fst (by assumption) ?_
    | split

theorem execChainOutput_keep {chain : Fin 32} {codes : List (BitVec 16)} {s : State} : KeepO m l k s (execChainOutput chain codes s) := by
  have h := Keep.refl m l k s
  unfold execChainOutput
  repeat' with_reducible first
    | assumption
    | refine begin_keep ?_
    | refine chainOutput_keep ?_
    | refine keep_ite ?_ (fun _ => ?_)
    | refine keepO_next ?_

theorem execDcbHoldEnd_keep {chain : Fin 32} {s : State} : KeepO m l k s (execDcbHoldEnd chain s) := by
  have h := Keep.refl m l k s
  unfold execDcbHoldEnd
  repeat' with_reducible first
    | assumption
    | refine updChain_keep ?_
    | refine begin_keep ?_
    | refine keep_ite ?_ (fun _ => ?_)
    | refine keepO_next ?_

theorem execShFadeEnd_keep {chain : Fin 32} {s : State} : KeepO m l k s (execShFadeEnd chain s) := by
  have h := Keep.refl m l k s
  unfold execShFadeEnd
  repeat' with_reducible first
    | assumption
    | refine fadeEnd_keep ?_
    | refine begin_keep ?_
    | refine keep_ite ?_ (fun _ => ?_)
    | refine keepO_next ?_

theorem execInvalidCountEnd_keep {chain : Fin 32} {s : State} : KeepO m l k s (execInvalidCountEnd chain s) := by
  have h := Keep.refl m l k s
  unfold execInvalidCountEnd
  repeat' with_reducible first
    | assumption
    | refine updChain_keep ?_
    | refine begin_keep ?_
    | refine keep_ite ?_ (fun _ => ?_)
    | refine keepO_next ?_

theorem execChainMismatch_keep {chain : Fin 32} {s : State} : KeepO m l k s (execChainMismatch chain s) := by
  have h := Keep.refl m l k s
  unfold execChainMismatch
  repeat' with_reducible first
    | assumption
    | refine begin_keep ?_
    | refine updChain_keep ?_
    | refine raise_keep ?_
    | refine keep_ite ?_ (fun _ => ?_)
    | refine keepO_next ?_

theorem execRefReady_keep {s : State} : KeepO m l k s (execRefReady s) := by
  have h := Keep.refl m l k s
  unfold execRefReady
  repeat' with_reducible first
    | assumption
    | refine begin_keep ?_
    | refine adcRestart_keep ?_
    | refine keep_ite ?_ (fun _ => ?_)
    | refine keepO_next ?_
    | refine keepO_ite ?_ ?_
    | refine keep_mk ?_ rfl rfl rfl rfl rfl rfl rfl rfl

theorem execRefFault_keep {s : State} : KeepO m l k s (execRefFault s) := by
  have h := Keep.refl m l k s
  unfold execRefFault
  repeat' with_reducible first
    | assumption
    | refine begin_keep ?_
    | refine raise_keep ?_
    | refine keep_ite ?_ (fun _ => ?_)
    | refine keepO_next ?_
    | refine keepO_ite ?_ ?_
    | refine keep_mk ?_ rfl rfl rfl rfl rfl rfl rfl rfl

theorem execRefRecover_keep {s : State} : KeepO m l k s (execRefRecover s) := by
  have h := Keep.refl m l k s
  unfold execRefRecover
  repeat' with_reducible first
    | assumption
    | refine begin_keep ?_
    | refine adcRestart_keep ?_
    | refine keep_ite ?_ (fun _ => ?_)
    | refine keepO_next ?_
    | refine keepO_ite ?_ ?_
    | refine keep_mk ?_ rfl rfl rfl rfl rfl rfl rfl rfl

theorem execRefBufferWrite_keep {pf : Pf} {v : Word} {s : State} : KeepO m l k s (execRefBufferWrite pf v s) := by
  have h := Keep.refl m l k s
  unfold execRefBufferWrite
  repeat' with_reducible first
    | assumption
    | refine hostPf0_keep ?_ ?_
    | refine begin_keep ?_
    | refine accessErr_keep ?_
    | refine keep_regSet ?_
    | refine keep_ite ?_ (fun _ => ?_)
    | refine keepO_next ?_
    | refine keepO_ite ?_ ?_
    | refine keep_of_snd (by assumption) ?_
    | refine keep_of_snd3 (by assumption) ?_
    | refine keep_of_fst (by assumption) ?_
    | intro _
    | split
    | dsimp only
    | refine keep_mk ?_ rfl rfl rfl rfl rfl rfl rfl rfl

theorem updPls_keep {s : State} {p : Nat} {f : Pls → Pls} (h : Keep m l k s0 s) : Keep m l k s0 (updPls s p f) := by
  unfold updPls
  repeat' with_reducible first
    | assumption
    | refine keep_ite ?_ (fun _ => ?_)
    | refine keep_mk ?_ rfl rfl rfl rfl rfl rfl rfl rfl

theorem plsFault_keep {s : State} {p : Nat} {exp : Bool} (h : Keep m l k s0 s) : Keep m l k s0 (plsFault s p exp) := by
  unfold plsFault
  repeat' with_reducible first
    | assumption
    | refine updPls_keep ?_
    | refine raise_keep ?_
    | refine regInc_keep ?_
    | refine keep_ite ?_ (fun _ => ?_)

theorem plsClear_keep {s : State} {p : Nat} (h : Keep m l k s0 s) : Keep m l k s0 (plsClear s p) := by
  unfold plsClear
  repeat' with_reducible first
    | assumption
    | refine updPls_keep ?_
    | refine chainsRestart_keep ?_

theorem plsFrame_keep {s : State} {p : Nat} {f : Nat} (h : Keep m l k s0 s) : Keep m l k s0 (plsFrame s p f) := by
  unfold plsFrame
  repeat' with_reducible first
    | assumption
    | refine updChain_keep ?_
    | refine keep_ite ?_ (fun _ => ?_)
    | refine keep_foldl ?_ _ ?_
    | refine keep_foldl_snd ?_ _ ?_
    | intro _

theorem plsCheck_keep {s : State} {p : Nat} {c0 : BitVec 16} {c1 : BitVec 16} (h : Keep m l k s0 s) : Keep m l k s0 (plsCheck s p c0 c1) := by
  unfold plsCheck
  repeat' with_reducible first
    | assumption
    | refine updPls_keep ?_
    | refine plsFault_keep ?_
    | refine plsClear_keep ?_
    | refine keep_ite ?_ (fun _ => ?_)

theorem execPlsCheck_keep {pair : Fin 2} {codes : BitVec 16 × BitVec 16} {frame : Fin 32} {s : State} : KeepO m l k s (execPlsCheck pair codes frame s) := by
  have h := Keep.refl m l k s
  unfold execPlsCheck
  repeat' with_reducible first
    | assumption
    | refine begin_keep ?_
    | refine plsCheck_keep ?_
    | refine plsFrame_keep ?_
    | refine keep_ite ?_ (fun _ => ?_)
    | refine keepO_next ?_

theorem execPlsFault_keep {pair : Fin 2} {exp : Bool} {s : State} : KeepO m l k s (execPlsFault pair exp s) := by
  have h := Keep.refl m l k s
  unfold execPlsFault
  repeat' with_reducible first
    | assumption
    | refine begin_keep ?_
    | refine plsFault_keep ?_
    | refine keep_ite ?_ (fun _ => ?_)
    | refine keepO_next ?_

theorem execPlsClear_keep {pair : Fin 2} {s : State} : KeepO m l k s (execPlsClear pair s) := by
  have h := Keep.refl m l k s
  unfold execPlsClear
  repeat' with_reducible first
    | assumption
    | refine begin_keep ?_
    | refine plsClear_keep ?_
    | refine keep_ite ?_ (fun _ => ?_)
    | refine keepO_next ?_

theorem calCmd_keep {s : State} {pf : Pf} {key : BitVec 16} {i : Nat} {cmd : Nat} {f : State → State} (hf : ∀ s, Keep m l k s0 s → Keep m l k s0 (f s)) (h : Keep m l k s0 s) : Keep m l k s0 (calCmd s pf key i cmd f) := by
  unfold calCmd
  repeat' with_reducible first
    | assumption
    | refine hf _ ?_
    | refine hostPf0_keep ?_ ?_
    | refine begin_keep ?_
    | refine calEnd_keep ?_
    | refine keep_ite ?_ (fun _ => ?_)
    | intro _

theorem calOpen_keep {s : State} {i : Nat} (h : Keep m l k s0 s) : Keep m l k s0 (calOpen s i) := by
  unfold calOpen
  repeat' with_reducible first
    | assumption
    | refine keep_ite ?_ (fun _ => ?_)
    | refine keep_mk ?_ rfl rfl rfl rfl rfl rfl rfl rfl

theorem calMeas_keep {s : State} {i : Nat} {full : Bool} (h : Keep m l k s0 s) : Keep m l k s0 (calMeas s i full) := by
  unfold calMeas
  repeat' with_reducible first
    | assumption
    | refine calOpen_keep ?_
    | refine keep_ite ?_ (fun _ => ?_)
    | refine keep_mk ?_ rfl rfl rfl rfl rfl rfl rfl rfl

theorem execCalZero_keep {pf : Pf} {key : BitVec 16} {chain : Fin 32} {s : State} : KeepO m l k s (execCalZero pf key chain s) := by
  have h := Keep.refl m l k s
  unfold execCalZero
  repeat' with_reducible first
    | assumption
    | refine calCmd_keep ?_ ?_
    | refine calMeas_keep ?_
    | refine keep_ite ?_ (fun _ => ?_)
    | refine keepO_next ?_
    | refine keepO_ite ?_ ?_
    | intro _

theorem execCalFull_keep {pf : Pf} {key : BitVec 16} {chain : Fin 32} {s : State} : KeepO m l k s (execCalFull pf key chain s) := by
  have h := Keep.refl m l k s
  unfold execCalFull
  repeat' with_reducible first
    | assumption
    | refine calCmd_keep ?_ ?_
    | refine calMeas_keep ?_
    | refine keep_ite ?_ (fun _ => ?_)
    | refine keepO_next ?_
    | refine keepO_ite ?_ ?_
    | intro _

theorem execCalMeasDone_keep {s : State} : KeepO m l k s (execCalMeasDone s) := by
  have h := Keep.refl m l k s
  unfold execCalMeasDone
  repeat' with_reducible first
    | assumption
    | refine measEnd_keep ?_
    | refine begin_keep ?_
    | refine keep_ite ?_ (fun _ => ?_)
    | refine keepO_next ?_

theorem calCommit_keep {s : State} {i : Nat} (h : Keep m l k s0 s) : Keep m l k s0 (calCommit s i) := by
  unfold calCommit
  repeat' with_reducible first
    | assumption
    | refine calOpen_keep ?_
    | refine calEnd_keep ?_
    | refine peatWrite_keep ?_ ?_
    | refine keep_ite ?_ (fun _ => ?_)
    | rfl
    | refine keep_of_snd (by assumption) ?_
    | refine keep_of_snd3 (by assumption) ?_
    | refine keep_of_fst (by assumption) ?_
    | intro _
    | split
    | dsimp only
    | refine keep_mk ?_ rfl rfl rfl rfl rfl rfl rfl rfl

theorem execCalCommit_keep {pf : Pf} {key : BitVec 16} {chain : Fin 32} {s : State} : KeepO m l k s (execCalCommit pf key chain s) := by
  have h := Keep.refl m l k s
  unfold execCalCommit
  repeat' with_reducible first
    | assumption
    | refine calCmd_keep ?_ ?_
    | refine calCommit_keep ?_
    | refine keep_ite ?_ (fun _ => ?_)
    | refine keepO_next ?_
    | refine keepO_ite ?_ ?_
    | intro _

theorem calLeave_keep {s : State} (h : Keep m l k s0 s) : Keep m l k s0 (calLeave s) := by
  unfold calLeave
  repeat' with_reducible first
    | assumption
    | refine startInv_keep ?_
    | refine keep_ite ?_ (fun _ => ?_)
    | refine keep_foldl ?_ _ ?_
    | refine keep_foldl_snd ?_ _ ?_
    | refine keep_of_snd (by assumption) ?_
    | refine keep_of_snd3 (by assumption) ?_
    | refine keep_of_fst (by assumption) ?_
    | intro _
    | split
    | dsimp only
    | refine keep_mk ?_ rfl rfl rfl rfl rfl rfl rfl rfl

theorem calClose_keep {s : State} {i : Nat} (h : Keep m l k s0 s) : Keep m l k s0 (calClose s i) := by
  unfold calClose
  repeat' with_reducible first
    | assumption
    | refine calLeave_keep ?_
    | refine calEnd_keep ?_
    | refine chainsRestart_keep ?_
    | refine keep_ite ?_ (fun _ => ?_)

theorem execCalEnd_keep {pf : Pf} {key : BitVec 16} {chain : Fin 32} {s : State} : KeepO m l k s (execCalEnd pf key chain s) := by
  have h := Keep.refl m l k s
  unfold execCalEnd
  repeat' with_reducible first
    | assumption
    | refine calCmd_keep ?_ ?_
    | refine calClose_keep ?_
    | refine keep_ite ?_ (fun _ => ?_)
    | refine keepO_next ?_
    | refine keepO_ite ?_ ?_
    | intro _

theorem calDefault_keep {s : State} {i : Nat} (h : Keep m l k s0 s) : Keep m l k s0 (calDefault s i) := by
  unfold calDefault
  repeat' with_reducible first
    | assumption
    | refine calOpen_keep ?_
    | refine calEnd_keep ?_
    | refine peatWrite_keep ?_ ?_
    | refine keep_ite ?_ (fun _ => ?_)
    | rfl
    | intro _
    | refine keep_mk ?_ rfl rfl rfl rfl rfl rfl rfl rfl

theorem execCalDefault_keep {pf : Pf} {key : BitVec 16} {chain : Fin 32} {s : State} : KeepO m l k s (execCalDefault pf key chain s) := by
  have h := Keep.refl m l k s
  unfold execCalDefault
  repeat' with_reducible first
    | assumption
    | refine calCmd_keep ?_ ?_
    | refine calDefault_keep ?_
    | refine keep_ite ?_ (fun _ => ?_)
    | refine keepO_next ?_
    | refine keepO_ite ?_ ?_
    | intro _

theorem execCalStatRead_keep {pf : Pf} {s : State} : KeepO m l k s (execCalStatRead pf s) := by
  have h := Keep.refl m l k s
  unfold execCalStatRead
  repeat' with_reducible first
    | assumption
    | refine hostRead_keep ?_ ?_
    | refine begin_keep ?_
    | refine keep_ite ?_ (fun _ => ?_)
    | refine keepO_next ?_
    | refine keepO_ite ?_ ?_
    | intro _
    | refine keep_mk ?_ rfl rfl rfl rfl rfl rfl rfl rfl

theorem calLoad_keep {s : State} (h : Keep m l k s0 s) : Keep m l k s0 (calLoad s) := by
  unfold calLoad
  repeat' with_reducible first
    | assumption
    | refine keep_ite ?_ (fun _ => ?_)
    | refine keep_of_snd (by assumption) ?_
    | refine keep_of_snd3 (by assumption) ?_
    | refine keep_of_fst (by assumption) ?_
    | split
    | dsimp only
    | refine keep_mk ?_ rfl rfl rfl rfl rfl rfl rfl rfl

theorem chCfg_keep {s : State} {i : Nat} {v : Word} (h : Keep m l k s0 s) : Keep m l k s0 (chCfg s i v) := by
  unfold chCfg
  repeat' with_reducible first
    | assumption
    | refine wrRefuse_keep ?_
    | refine wrRes_keep ?_
    | refine keep_regSet ?_
    | refine keep_ite ?_ (fun _ => ?_)

theorem execChCfgWrite_keep {pf : Pf} {chain : Fin 32} {v : Word} {s : State} : KeepO m l k s (execChCfgWrite pf chain v s) := by
  have h := Keep.refl m l k s
  unfold execChCfgWrite
  repeat' with_reducible first
    | assumption
    | refine hostPf0_keep ?_ ?_
    | refine begin_keep ?_
    | refine chCfg_keep ?_
    | refine keep_ite ?_ (fun _ => ?_)
    | refine keepO_next ?_
    | refine keepO_ite ?_ ?_
    | intro _

theorem bankWrite_keep {s : State} {i : Nat} {b : Bool} {a : Nat} {v : Word} (h : Keep m l k s0 s) : Keep m l k s0 (bankWrite s i b a v) := by
  unfold bankWrite
  repeat' with_reducible first
    | assumption
    | refine wrRefuse_keep ?_
    | refine wrRes_keep ?_
    | refine keep_regSet ?_
    | refine keep_ite ?_ (fun _ => ?_)

theorem execShBankWrite_keep {pf : Pf} {chain : Fin 32} {bank : Bool} {tap : Fin 65} {v : Word} {s : State} : KeepO m l k s (execShBankWrite pf chain bank tap v s) := by
  have h := Keep.refl m l k s
  unfold execShBankWrite
  repeat' with_reducible first
    | assumption
    | refine hostPf0_keep ?_ ?_
    | refine begin_keep ?_
    | refine bankWrite_keep ?_
    | refine keep_ite ?_ (fun _ => ?_)
    | refine keepO_next ?_
    | refine keepO_ite ?_ ?_
    | intro _

theorem swapRequest_keep {s : State} {i : Nat} {v : Word} (h : Keep m l k s0 s) : Keep m l k s0 (swapRequest s i v) := by
  unfold swapRequest
  repeat' with_reducible first
    | assumption
    | refine wrRefuse_keep ?_
    | refine wrRes_keep ?_
    | refine updChain_keep ?_
    | refine swapTake_keep ?_
    | refine keep_ite ?_ (fun _ => ?_)

theorem execShSwapRequest_keep {pf : Pf} {chain : Fin 32} {v : Word} {s : State} : KeepO m l k s (execShSwapRequest pf chain v s) := by
  have h := Keep.refl m l k s
  unfold execShSwapRequest
  repeat' with_reducible first
    | assumption
    | refine hostPf0_keep ?_ ?_
    | refine begin_keep ?_
    | refine swapRequest_keep ?_
    | refine keep_ite ?_ (fun _ => ?_)
    | refine keepO_next ?_
    | refine keepO_ite ?_ ?_
    | intro _

theorem execFltResStatRead_keep {pf : Pf} {chain : Fin 32} {s : State} : KeepO m l k s (execFltResStatRead pf chain s) := by
  have h := Keep.refl m l k s
  unfold execFltResStatRead
  repeat' with_reducible first
    | assumption
    | refine hostRead_keep ?_ ?_
    | refine begin_keep ?_
    | refine updChain_keep ?_
    | refine keep_ite ?_ (fun _ => ?_)
    | refine keepO_next ?_
    | refine keepO_ite ?_ ?_
    | intro _
    | refine keep_mk ?_ rfl rfl rfl rfl rfl rfl rfl rfl

theorem fltLoadBank_keep {img : Image} {s : State} {i : Nat} (h : Keep m l k s0 s) : Keep m l k s0 (fltLoadBank img s i) := by
  unfold fltLoadBank
  repeat' with_reducible first
    | assumption
    | refine updChain_keep ?_
    | refine startInv_keep ?_
    | refine keep_ite ?_ (fun _ => ?_)

theorem fltLoadChain_keep {img : Image} {s : State} {i : Nat} (h : Keep m l k s0 s) : Keep m l k s0 (fltLoadChain img s i) := by
  unfold fltLoadChain
  repeat' with_reducible first
    | assumption
    | refine keep_regSet ?_
    | refine fltLoadBank_keep ?_

theorem fltLoadTap_keep {s : State} {p : ParamRec} (h : Keep m l k s0 s) : Keep m l k s0 (fltLoadTap s p) := by
  unfold fltLoadTap
  repeat' with_reducible first
    | assumption
    | refine keep_regSet ?_

theorem fltLoad_keep {s : State} (h : Keep m l k s0 s) : Keep m l k s0 (fltLoad s) := by
  unfold fltLoad
  repeat' with_reducible first
    | assumption
    | refine fltLoadTap_keep ?_
    | refine keep_regSet ?_
    | refine fltLoadChain_keep ?_
    | refine keep_regsFilter _ ?_
    | refine keep_ite ?_ (fun _ => ?_)
    | refine keep_foldl ?_ _ ?_
    | refine keep_foldl_snd ?_ _ ?_
    | intro _

theorem chainsNew_keep {s : State} {old : Image} (h : Keep m l k s0 s) : Keep m l k s0 (chainsNew s old) := by
  unfold chainsNew
  repeat' with_reducible first
    | assumption
    | refine chainTake_keep ?_
    | refine keep_ite ?_ (fun _ => ?_)
    | refine keep_foldl ?_ _ ?_
    | refine keep_foldl_snd ?_ _ ?_
    | intro _

theorem adcReset_keep {s : State} (h : Keep m l k s0 s) : Keep m l k s0 (adcReset s) := by
  unfold adcReset
  repeat' with_reducible first
    | assumption
    | refine calLeave_keep ?_
    | refine adcStart_keep ?_
    | refine keep_regSet ?_
    | refine keep_ite ?_ (fun _ => ?_)
    | refine keep_mk ?_ rfl rfl rfl rfl rfl rfl rfl rfl

theorem fltReset_keep {s : State} (h : Keep m l k s0 s) : Keep m l k s0 (fltReset s) := by
  unfold fltReset
  repeat' with_reducible first
    | assumption
    | refine chainTake_keep ?_
    | refine keep_ite ?_ (fun _ => ?_)
    | refine keep_foldl ?_ _ ?_
    | refine keep_foldl_snd ?_ _ ?_
    | intro _
    | refine keep_mk ?_ rfl rfl rfl rfl rfl rfl rfl rfl

end Sys2Proof.Machine
end

