-- ==== Sys2Proof/Laws/KeepRecorder.lean ====
section
/-!
SUPPORT. What every operation of Machine/Recorder.lean keeps.
-/
namespace Sys2Proof.Machine
set_option Elab.async false

variable {m l k : Bool} {s0 : State}

theorem recSet_keep {s : State} {f : Rec → Rec} (h : Keep m l k s0 s) : Keep m l k s0 (recSet s f) := by
  unfold recSet
  repeat' with_reducible first
    | assumption
    | refine keep_ite ?_ (fun _ => ?_)
    | refine keep_mk ?_ rfl rfl rfl rfl rfl rfl rfl rfl

theorem slotPut_keep {s : State} {k_1 : Nat} {r : RSlot} (h : Keep m l k s0 s) : Keep m l k s0 (slotPut s k_1 r) := by
  unfold slotPut
  repeat' with_reducible first
    | assumption
    | refine recSet_keep ?_

theorem recLog_keep {s : State} {st : Nat} {mask : Nat} {idx : Int} (h : Keep m l k s0 s) : Keep m l k s0 (recLog s st mask idx) := by
  unfold recLog
  repeat' with_reducible first
    | assumption
    | refine logAt_keep ?_

theorem acqOf_keep {s : State} {i : Nat} (h : Keep m l k s0 s) : Keep m l k s0 (acqOf s i).2 := by
  unfold acqOf
  repeat' with_reducible first
    | assumption
    | refine fresh_keep ?_
    | refine keep_ite_snd ?_ (fun _ => ?_)

theorem acqAll_keep {s : State} (h : Keep m l k s0 s) : Keep m l k s0 (acqAll s).2 := by
  unfold acqAll
  repeat' with_reducible first
    | assumption
    | refine acqOf_keep ?_
    | refine keep_ite_snd ?_ (fun _ => ?_)
    | refine keep_ite ?_ (fun _ => ?_)
    | refine keep_foldl ?_ _ ?_
    | refine keep_foldl_snd ?_ _ ?_
    | refine keep_of_snd (by assumption) ?_
    | refine keep_of_snd3 (by assumption) ?_
    | refine keep_of_fst (by assumption) ?_
    | intro _

theorem recBegin_keep {s : State} {k_1 : Nat} (h : Keep m l k s0 s) : Keep m l k s0 (recBegin s k_1) := by
  unfold recBegin
  repeat' with_reducible first
    | assumption
    | refine acqAll_keep ?_
    | refine slotPut_keep ?_
    | refine recSet_keep ?_
    | refine raise_keep ?_
    | refine keep_ite ?_ (fun _ => ?_)

theorem recFill_keep {s : State} (h : Keep m l k s0 s) : Keep m l k s0 (recFill s) := by
  unfold recFill
  repeat' with_reducible first
    | assumption
    | refine recSet_keep ?_
    | refine recBegin_keep ?_
    | refine raise_keep ?_
    | refine keep_ite ?_ (fun _ => ?_)
    | refine keep_of_snd (by assumption) ?_
    | refine keep_of_snd3 (by assumption) ?_
    | refine keep_of_fst (by assumption) ?_
    | split

theorem recGap_keep {s : State} {img : Image} (h : Keep m l k s0 s) : Keep m l k s0 (recGap s img) := by
  unfold recGap
  repeat' with_reducible first
    | assumption
    | refine raise_keep ?_
    | refine recSet_keep ?_
    | refine keep_ite ?_ (fun _ => ?_)

theorem recClosing_keep {s : State} {trunc : Bool} (h : Keep m l k s0 s) : Keep m l k s0 (recClosing s trunc) := by
  unfold recClosing
  repeat' with_reducible first
    | assumption
    | refine recSet_keep ?_
    | refine recGap_keep ?_

theorem recEntry_keep {s : State} {e : REvt} (h : Keep m l k s0 s) : Keep m l k s0 (recEntry s e) := by
  unfold recEntry
  repeat' with_reducible first
    | assumption
    | refine recSet_keep ?_
    | refine recClosing_keep ?_
    | refine keep_ite ?_ (fun _ => ?_)

theorem recTrigs_keep {s : State} {t : Nat} (h : Keep m l k s0 s) : Keep m l k s0 (recTrigs s t) := by
  unfold recTrigs
  repeat' with_reducible first
    | assumption
    | refine recSet_keep ?_

theorem recDrain_keep {s : State} {n : Nat} (h : Keep m l k s0 s) : Keep m l k s0 (recDrain s n) := by
  unfold recDrain
  repeat' with_reducible first
    | assumption
    | refine recSet_keep ?_

theorem recHalve_keep {s : State} (h : Keep m l k s0 s) : Keep m l k s0 (recHalve s) := by
  unfold recHalve
  repeat' with_reducible first
    | assumption
    | refine raise_keep ?_
    | refine recSet_keep ?_
    | refine keep_ite ?_ (fun _ => ?_)

theorem recDropSet_keep {s : State} (h : Keep m l k s0 s) : Keep m l k s0 (recDropSet s) := by
  unfold recDropSet
  repeat' with_reducible first
    | assumption
    | refine recSet_keep ?_
    | refine regInc_keep ?_

theorem recStore_keep {s : State} {img : Image} {drained : Nat} (h : Keep m l k s0 s) : Keep m l k s0 (recStore s img drained) := by
  unfold recStore
  repeat' with_reducible first
    | assumption
    | refine recHalve_keep ?_
    | refine recDrain_keep ?_
    | refine recDropSet_keep ?_
    | refine denyAccess_keep ?_
    | refine recTrigs_keep ?_
    | refine recGap_keep ?_
    | refine recClosing_keep ?_
    | refine recEntry_keep ?_
    | refine recSet_keep ?_
    | refine keep_ite ?_ (fun _ => ?_)

theorem recTrim_keep {s : State} {pre : Nat} (h : Keep m l k s0 s) : Keep m l k s0 (recTrim s pre) := by
  unfold recTrim
  repeat' with_reducible first
    | assumption
    | refine recSet_keep ?_

theorem trigMeas_keep {s : State} {img : Image} {u : Nat} {own : Bool} (h : Keep m l k s0 s) : Keep m l k s0 (trigMeas s img u own).2 := by
  unfold trigMeas
  repeat' with_reducible first
    | assumption
    | refine freshBelow_keep ?_
    | refine keep_ite_snd ?_ (fun _ => ?_)

theorem recTrigger_keep {s : State} {img : Image} {mask : Nat} {own : Nat} (h : Keep m l k s0 s) : Keep m l k s0 (recTrigger s img mask own) := by
  unfold recTrigger
  repeat' with_reducible first
    | assumption
    | refine freshBelow_keep ?_
    | refine trigMeas_keep ?_
    | refine recSet_keep ?_
    | refine keep_ite ?_ (fun _ => ?_)
    | refine keep_of_snd (by assumption) ?_
    | refine keep_of_snd3 (by assumption) ?_
    | refine keep_of_fst (by assumption) ?_
    | split

theorem recInstant_keep {s : State} {drained : Nat} (h : Keep m l k s0 s) : Keep m l k s0 (recInstant s drained) := by
  unfold recInstant
  repeat' with_reducible first
    | assumption
    | refine recSet_keep ?_
    | refine recLog_keep ?_
    | refine raise_keep ?_
    | refine regInc_keep ?_
    | refine recStore_keep ?_
    | refine recTrim_keep ?_
    | refine recTrigger_keep ?_
    | refine recClosing_keep ?_
    | refine recDrain_keep ?_
    | refine keep_ite ?_ (fun _ => ?_)
    | refine keep_of_snd (by assumption) ?_
    | refine keep_of_snd3 (by assumption) ?_
    | refine keep_of_fst (by assumption) ?_
    | split
    | dsimp only

theorem execRecSet_keep {drained : Nat} {s : State} : KeepO m l k s (execRecSet drained s) := by
  have h := Keep.refl m l k s
  unfold execRecSet
  repeat' with_reducible first
    | assumption
    | refine begin_keep ?_
    | refine recSet_keep ?_
    | refine recInstant_keep ?_
    | refine keep_ite ?_ (fun _ => ?_)
    | refine keepO_next ?_

theorem recHeader_keep {s : State} {num : Nat} (h : Keep m l k s0 s) : Keep m l k s0 (recHeader s num).2 := by
  unfold recHeader
  repeat' with_reducible first
    | assumption
    | refine freshBelow_keep ?_
    | refine keep_ite_snd ?_ (fun _ => ?_)
    | refine keep_ite ?_ (fun _ => ?_)
    | refine keep_of_snd (by assumption) ?_
    | refine keep_of_snd3 (by assumption) ?_
    | refine keep_of_fst (by assumption) ?_
    | split
    | dsimp only

theorem recClose_keep {s : State} (h : Keep m l k s0 s) : Keep m l k s0 (recClose s) := by
  unfold recClose
  repeat' with_reducible first
    | assumption
    | refine denyAccess_keep ?_
    | refine recHeader_keep ?_
    | refine slotPut_keep ?_
    | refine raise_keep ?_
    | refine recSet_keep ?_
    | refine recFill_keep ?_
    | refine keep_ite ?_ (fun _ => ?_)

theorem execRecCloseDone_keep {s : State} : KeepO m l k s (execRecCloseDone s) := by
  have h := Keep.refl m l k s
  unfold execRecCloseDone
  repeat' with_reducible first
    | assumption
    | refine recClose_keep ?_
    | refine begin_keep ?_
    | refine keep_ite ?_ (fun _ => ?_)
    | refine keepO_next ?_

theorem execRecStart_keep {s : State} : KeepO m l k s (execRecStart s) := by
  have h := Keep.refl m l k s
  unfold execRecStart
  repeat' with_reducible first
    | assumption
    | refine begin_keep ?_
    | refine recFill_keep ?_
    | refine recSet_keep ?_
    | refine keep_ite ?_ (fun _ => ?_)
    | refine keepO_next ?_

theorem execRecAutoTimeout_keep {s : State} : KeepO m l k s (execRecAutoTimeout s) := by
  have h := Keep.refl m l k s
  unfold execRecAutoTimeout
  repeat' with_reducible first
    | assumption
    | refine begin_keep ?_
    | refine recSet_keep ?_
    | refine keep_ite ?_ (fun _ => ?_)
    | refine keepO_next ?_

theorem recRes_keep {s : State} {st : Nat} (h : Keep m l k s0 s) : Keep m l k s0 (recRes s st) := by
  unfold recRes
  repeat' with_reducible first
    | assumption
    | refine recSet_keep ?_

theorem recCtl_keep {s : State} {pf : Pf} {key : BitVec 16} {f : State → State} (hf : ∀ s, Keep m l k s0 s → Keep m l k s0 (f s)) (h : Keep m l k s0 s) : Keep m l k s0 (recCtl s pf key f) := by
  unfold recCtl
  repeat' with_reducible first
    | assumption
    | refine hf _ ?_
    | refine hostPf0_keep ?_ ?_
    | refine begin_keep ?_
    | refine recRes_keep ?_
    | refine keep_ite ?_ (fun _ => ?_)
    | intro _

theorem execRecArm_keep {pf : Pf} {key : BitVec 16} {s : State} : KeepO m l k s (execRecArm pf key s) := by
  have h := Keep.refl m l k s
  unfold execRecArm
  repeat' with_reducible first
    | assumption
    | refine recCtl_keep ?_ ?_
    | refine recRes_keep ?_
    | refine recFill_keep ?_
    | refine keep_ite ?_ (fun _ => ?_)
    | refine keepO_next ?_
    | refine keepO_ite ?_ ?_
    | intro _

theorem recStop_keep {s : State} (h : Keep m l k s0 s) : Keep m l k s0 (recStop s) := by
  unfold recStop
  repeat' with_reducible first
    | assumption
    | refine recSet_keep ?_
    | refine slotPut_keep ?_
    | refine recClosing_keep ?_
    | refine keep_ite ?_ (fun _ => ?_)

theorem execRecStop_keep {pf : Pf} {key : BitVec 16} {s : State} : KeepO m l k s (execRecStop pf key s) := by
  have h := Keep.refl m l k s
  unfold execRecStop
  repeat' with_reducible first
    | assumption
    | refine recCtl_keep ?_ ?_
    | refine recRes_keep ?_
    | refine recStop_keep ?_
    | refine keep_ite ?_ (fun _ => ?_)
    | refine keepO_next ?_
    | refine keepO_ite ?_ ?_
    | intro _

theorem softTrig_keep {s : State} {u : Nat} (h : Keep m l k s0 s) : Keep m l k s0 (softTrig s u).2 := by
  unfold softTrig
  repeat' with_reducible first
    | assumption
    | refine recSet_keep ?_
    | refine keep_ite_snd ?_ (fun _ => ?_)

theorem execRecSwtrig_keep {pf : Pf} {key : BitVec 16} {unit : Fin 16} {s : State} : KeepO m l k s (execRecSwtrig pf key unit s) := by
  have h := Keep.refl m l k s
  unfold execRecSwtrig
  repeat' with_reducible first
    | assumption
    | refine recCtl_keep ?_ ?_
    | refine softTrig_keep ?_
    | refine recRes_keep ?_
    | refine keep_ite ?_ (fun _ => ?_)
    | refine keepO_next ?_
    | refine keepO_ite ?_ ?_
    | refine keep_of_snd (by assumption) ?_
    | refine keep_of_snd3 (by assumption) ?_
    | refine keep_of_fst (by assumption) ?_
    | intro _

theorem rdRes_keep {s : State} {k_1 : Nat} {st : Nat} (h : Keep m l k s0 s) : Keep m l k s0 (rdRes s k_1 st) := by
  unfold rdRes
  repeat' with_reducible first
    | assumption
    | refine recSet_keep ?_

theorem execRecRead_keep {pf : Pf} {key : BitVec 16} {slot : Fin 256} {s : State} : KeepO m l k s (execRecRead pf key slot s) := by
  have h := Keep.refl m l k s
  unfold execRecRead
  repeat' with_reducible first
    | assumption
    | refine hostAccess_keep ?_ ?_
    | refine begin_keep ?_
    | refine rdRes_keep ?_
    | refine denyAccess_keep ?_
    | refine recSet_keep ?_
    | refine slotPut_keep ?_
    | refine keep_ite ?_ (fun _ => ?_)
    | refine keepO_next ?_
    | refine keepO_ite ?_ ?_
    | intro _

theorem readDone_keep {s : State} {st : Nat} (h : Keep m l k s0 s) : Keep m l k s0 (readDone s st) := by
  unfold readDone
  repeat' with_reducible first
    | assumption
    | refine rdRes_keep ?_
    | refine slotPut_keep ?_
    | refine blkRead_keep ?_
    | refine raise_keep ?_
    | refine send_keep ?_
    | refine keep_ite ?_ (fun _ => ?_)
    | refine keep_of_snd (by assumption) ?_
    | refine keep_of_snd3 (by assumption) ?_
    | refine keep_of_fst (by assumption) ?_
    | split

theorem execRecReadDone_keep {ok : Bool} {s : State} : KeepO m l k s (execRecReadDone ok s) := by
  have h := Keep.refl m l k s
  unfold execRecReadDone
  repeat' with_reducible first
    | assumption
    | refine begin_keep ?_
    | refine readDone_keep ?_
    | refine keep_ite ?_ (fun _ => ?_)
    | refine keepO_next ?_

theorem execRecErase_keep {pf : Pf} {key : BitVec 16} {slot : Fin 256} {s : State} : KeepO m l k s (execRecErase pf key slot s) := by
  have h := Keep.refl m l k s
  unfold execRecErase
  repeat' with_reducible first
    | assumption
    | refine hostAccess_keep ?_ ?_
    | refine begin_keep ?_
    | refine rdRes_keep ?_
    | refine slotPut_keep ?_
    | refine keep_ite ?_ (fun _ => ?_)
    | refine keepO_next ?_
    | refine keepO_ite ?_ ?_
    | intro _

theorem execRecEraseAll_keep {pf : Pf} {key : BitVec 16} {slot : Fin 256} {s : State} : KeepO m l k s (execRecEraseAll pf key slot s) := by
  have h := Keep.refl m l k s
  unfold execRecEraseAll
  repeat' with_reducible first
    | assumption
    | refine hostAccess_keep ?_ ?_
    | refine begin_keep ?_
    | refine rdRes_keep ?_
    | refine recSet_keep ?_
    | refine keep_ite ?_ (fun _ => ?_)
    | refine keepO_next ?_
    | refine keepO_ite ?_ ?_
    | intro _

theorem execRecMeasFetch_keep {pf : Pf} {v : Word} {s : State} : KeepO m l k s (execRecMeasFetch pf v s) := by
  have h := Keep.refl m l k s
  unfold execRecMeasFetch
  repeat' with_reducible first
    | assumption
    | refine hostAccess_keep ?_ ?_
    | refine begin_keep ?_
    | refine recSet_keep ?_
    | refine keep_regSet ?_
    | refine keep_ite ?_ (fun _ => ?_)
    | refine keepO_next ?_
    | refine keepO_ite ?_ ?_
    | intro _

theorem execRecMeasFetchDone_keep {s : State} : KeepO m l k s (execRecMeasFetchDone s) := by
  have h := Keep.refl m l k s
  unfold execRecMeasFetchDone
  repeat' with_reducible first
    | assumption
    | refine begin_keep ?_
    | refine recSet_keep ?_
    | refine denyAccess_keep ?_
    | refine keep_ite ?_ (fun _ => ?_)
    | refine keepO_next ?_
    | refine keepO_ite ?_ ?_
    | refine keep_of_snd (by assumption) ?_
    | refine keep_of_snd3 (by assumption) ?_
    | refine keep_of_fst (by assumption) ?_
    | split

theorem execRecMeasStatRead_keep {pf : Pf} {s : State} : KeepO m l k s (execRecMeasStatRead pf s) := by
  have h := Keep.refl m l k s
  unfold execRecMeasStatRead
  repeat' with_reducible first
    | assumption
    | refine hostRead_keep ?_ ?_
    | refine begin_keep ?_
    | refine recSet_keep ?_
    | refine keep_ite ?_ (fun _ => ?_)
    | refine keepO_next ?_
    | refine keepO_ite ?_ ?_
    | intro _
    | refine keep_mk ?_ rfl rfl rfl rfl rfl rfl rfl rfl

theorem recOff_keep {s : State} (h : Keep m l k s0 s) : Keep m l k s0 (recOff s) := by
  unfold recOff
  repeat' with_reducible first
    | assumption
    | refine keep_ite ?_ (fun _ => ?_)
    | refine keep_mk ?_ rfl rfl rfl rfl rfl rfl rfl rfl

theorem recReset_keep {s : State} (h : Keep m l k s0 s) : Keep m l k s0 (recReset s) := by
  unfold recReset
  repeat' with_reducible first
    | assumption
    | refine readDone_keep ?_
    | refine recSet_keep ?_
    | refine recBegin_keep ?_
    | refine recClosing_keep ?_
    | refine keep_ite ?_ (fun _ => ?_)

theorem recBlkReset_keep {s : State} (h : Keep m l k s0 s) : Keep m l k s0 (recBlkReset s) := by
  unfold recBlkReset
  repeat' with_reducible first
    | assumption
    | refine rdRes_keep ?_
    | refine recSet_keep ?_
    | refine keep_ite ?_ (fun _ => ?_)
    | refine keep_of_snd (by assumption) ?_
    | refine keep_of_snd3 (by assumption) ?_
    | refine keep_of_fst (by assumption) ?_
    | split

end Sys2Proof.Machine
end

