-- ==== Sys2Proof/Laws/KeepTime.lean ====
section
/-!
SUPPORT. What every operation of Machine/Time.lean keeps.
-/
namespace Sys2Proof.Machine
set_option Elab.async false

variable {m l k : Bool} {s0 : State}

theorem updTb_keep {s : State} {b : Nat} {f : Tb → Tb} (h : Keep m l k s0 s) : Keep m l k s0 (updTb s b f) := by
  unfold updTb
  repeat' with_reducible first
    | assumption
    | refine keep_ite ?_ (fun _ => ?_)
    | refine keep_mk ?_ rfl rfl rfl rfl rfl rfl rfl rfl

theorem updDom_keep {s : State} {d : Nat} {f : Dom → Dom} (h : Keep m l k s0 s) : Keep m l k s0 (updDom s d f) := by
  unfold updDom
  repeat' with_reducible first
    | assumption
    | refine keep_ite ?_ (fun _ => ?_)
    | refine keep_mk ?_ rfl rfl rfl rfl rfl rfl rfl rfl

theorem domGo_keep {s : State} {d : Nat} {new : Nat} (h : Keep m l k s0 s) : Keep m l k s0 (domGo s d new) := by
  unfold domGo
  repeat' with_reducible first
    | assumption
    | refine updDom_keep ?_
    | refine logNow_keep ?_
    | refine raise_keep ?_
    | refine keep_ite ?_ (fun _ => ?_)

theorem domOff_keep {s : State} {d : Nat} (h : Keep m l k s0 s) : Keep m l k s0 (domOff s d) := by
  unfold domOff
  repeat' with_reducible first
    | assumption
    | refine updDom_keep ?_
    | refine domGo_keep ?_

theorem domsEval_keep {s : State} (h : Keep m l k s0 s) : Keep m l k s0 (domsEval s) := by
  unfold domsEval
  repeat' with_reducible first
    | assumption
    | refine domOff_keep ?_
    | refine domGo_keep ?_
    | refine keep_ite ?_ (fun _ => ?_)
    | refine keep_foldl ?_ _ ?_
    | refine keep_foldl_snd ?_ _ ?_
    | intro _

theorem domSelect_keep {s : State} {d : Nat} (h : Keep m l k s0 s) : Keep m l k s0 (domSelect s d) := by
  unfold domSelect
  repeat' with_reducible first
    | assumption
    | refine updDom_keep ?_
    | refine domGo_keep ?_
    | refine raise_keep ?_
    | refine keep_ite ?_ (fun _ => ?_)
    | refine keep_of_snd (by assumption) ?_
    | refine keep_of_snd3 (by assumption) ?_
    | refine keep_of_fst (by assumption) ?_
    | split

theorem execAnnounceRx_keep {dom : Fin 2} {port : Fin 2} {a : Announce} {s : State} : KeepO m l k s (execAnnounceRx dom port a s) := by
  have h := Keep.refl m l k s
  unfold execAnnounceRx
  repeat' with_reducible first
    | assumption
    | refine begin_keep ?_
    | refine domSelect_keep ?_
    | refine updDom_keep ?_
    | refine keep_ite ?_ (fun _ => ?_)
    | refine keepO_next ?_

theorem execAnnounceTimeout_keep {dom : Fin 2} {port : Fin 2} {s : State} : KeepO m l k s (execAnnounceTimeout dom port s) := by
  have h := Keep.refl m l k s
  unfold execAnnounceTimeout
  repeat' with_reducible first
    | assumption
    | refine begin_keep ?_
    | refine updDom_keep ?_
    | refine domSelect_keep ?_
    | refine domGo_keep ?_
    | refine keep_ite ?_ (fun _ => ?_)
    | refine keepO_next ?_

theorem syncSample_keep {s : State} {d : Nat} {o : Int} (h : Keep m l k s0 s) : Keep m l k s0 (syncSample s d o) := by
  unfold syncSample
  repeat' with_reducible first
    | assumption
    | refine updDom_keep ?_
    | refine domGo_keep ?_
    | refine keep_ite ?_ (fun _ => ?_)

theorem execSyncMsgRx_keep {dom : Fin 2} {port : Fin 2} {m_2 : SyncMsg} {s : State} : KeepO m l k s (execSyncMsgRx dom port m_2 s) := by
  have h := Keep.refl m l k s
  unfold execSyncMsgRx
  repeat' with_reducible first
    | assumption
    | refine begin_keep ?_
    | refine syncSample_keep ?_
    | refine updDom_keep ?_
    | refine keep_ite ?_ (fun _ => ?_)
    | refine keepO_next ?_
    | refine keepO_ite ?_ ?_
    | refine keep_of_snd (by assumption) ?_
    | refine keep_of_snd3 (by assumption) ?_
    | refine keep_of_fst (by assumption) ?_
    | split

theorem execPdelayReqTimer_keep {port : Fin 2} {s : State} : KeepO m l k s (execPdelayReqTimer port s) := by
  have h := Keep.refl m l k s
  unfold execPdelayReqTimer
  repeat' with_reducible first
    | assumption
    | refine begin_keep ?_
    | refine send_keep ?_
    | refine keep_ite ?_ (fun _ => ?_)
    | refine keepO_next ?_
    | refine keepO_ite ?_ ?_
    | refine keep_mk ?_ rfl rfl rfl rfl rfl rfl rfl rfl

theorem execPdelayReqRx_keep {port : Fin 2} {dom : Byte} {seq : BitVec 16} {src : BitVec 80} {corr : Int} {turn : Nat} {s : State} : KeepO m l k s (execPdelayReqRx port dom seq src corr turn s) := by
  have h := Keep.refl m l k s
  unfold execPdelayReqRx
  repeat' with_reducible first
    | assumption
    | refine begin_keep ?_
    | refine send_keep ?_
    | refine keep_ite ?_ (fun _ => ?_)
    | refine keepO_next ?_

theorem execPdelayRespRx_keep {port : Fin 2} {rtt : Nat} {turn : Nat} {s : State} : KeepO m l k s (execPdelayRespRx port rtt turn s) := by
  have h := Keep.refl m l k s
  unfold execPdelayRespRx
  repeat' with_reducible first
    | assumption
    | refine begin_keep ?_
    | refine updDom_keep ?_
    | refine keep_ite ?_ (fun _ => ?_)
    | refine keepO_next ?_
    | refine keepO_ite ?_ ?_
    | refine keep_foldl ?_ _ ?_
    | refine keep_foldl_snd ?_ _ ?_
    | intro _

theorem execEthLinkChange_keep {port : Fin 2} {up : Bool} {s : State} : KeepO m l k s (execEthLinkChange port up s) := by
  have h := Keep.refl m l k s
  unfold execEthLinkChange
  repeat' with_reducible first
    | assumption
    | refine begin_keep ?_
    | refine domSelect_keep ?_
    | refine domsEval_keep ?_
    | refine keep_ite ?_ (fun _ => ?_)
    | refine keepO_next ?_
    | refine keepO_ite ?_ ?_
    | refine keep_foldl ?_ _ ?_
    | refine keep_foldl_snd ?_ _ ?_
    | intro _
    | refine keep_mk ?_ rfl rfl rfl rfl rfl rfl rfl rfl

theorem stepLog_keep {s : State} {b : Nat} {cmd : Nat} {out : Nat} {ns : Int} (h : Keep m l k s0 s) : Keep m l k s0 (stepLog s b cmd out ns) := by
  unfold stepLog
  repeat' with_reducible first
    | assumption
    | refine logNow_keep ?_

theorem sysMoved_keep {s : State} (h : Keep m l k s0 s) : Keep m l k s0 (sysMoved s) := by
  unfold sysMoved
  repeat' with_reducible first
    | assumption
    | refine adcRestart_keep ?_
    | refine keep_ite ?_ (fun _ => ?_)
    | refine keep_mk ?_ rfl rfl rfl rfl rfl rfl rfl rfl

theorem tbStep_keep {s : State} {b : Nat} {d : Int} (h : Keep m l k s0 s) : Keep m l k s0 (tbStep s b d) := by
  unfold tbStep
  repeat' with_reducible first
    | assumption
    | refine updTb_keep ?_
    | refine regInc_keep ?_
    | refine raise_keep ?_
    | refine sysMoved_keep ?_
    | refine keep_ite ?_ (fun _ => ?_)
    | refine keep_mk ?_ rfl rfl rfl rfl rfl rfl rfl rfl

theorem domFollow_keep {s : State} {b : Nat} (h : Keep m l k s0 s) : Keep m l k s0 (domFollow s b) := by
  unfold domFollow
  repeat' with_reducible first
    | assumption
    | refine raise_keep ?_
    | refine updTb_keep ?_
    | refine keep_ite ?_ (fun _ => ?_)

theorem setTrace_keep {s : State} {b : Nat} {on : Bool} (h : Keep m l k s0 s) : Keep m l k s0 (setTrace s b on) := by
  unfold setTrace
  repeat' with_reducible first
    | assumption
    | refine updTb_keep ?_
    | refine raise_keep ?_
    | refine keep_ite ?_ (fun _ => ?_)

theorem tbServo_keep {s : State} {old : Mode} {b : Nat} (h : Keep m l k s0 s) : Keep m l k s0 (tbServo s old b) := by
  unfold tbServo
  repeat' with_reducible first
    | assumption
    | refine domFollow_keep ?_
    | refine setTrace_keep ?_
    | refine updTb_keep ?_
    | refine raise_keep ?_
    | refine regInc_keep ?_
    | refine tbStep_keep ?_
    | refine keep_ite ?_ (fun _ => ?_)

theorem tbCommand_keep {s : State} {b : Nat} {c : StepCmd} (h : Keep m l k s0 s) : Keep m l k s0 (tbCommand s b c) := by
  unfold tbCommand
  repeat' with_reducible first
    | assumption
    | refine updTb_keep ?_
    | refine stepLog_keep ?_
    | refine tbStep_keep ?_
    | refine keep_ite ?_ (fun _ => ?_)
    | refine keep_mk ?_ rfl rfl rfl rfl rfl rfl rfl rfl

theorem timBoundary_keep {s : State} {old : Mode} (h : Keep m l k s0 s) : Keep m l k s0 (timBoundary s old) := by
  unfold timBoundary
  repeat' with_reducible first
    | assumption
    | refine tbCommand_keep ?_
    | refine updTb_keep ?_
    | refine tbServo_keep ?_
    | refine keep_ite ?_ (fun _ => ?_)
    | refine keep_foldl ?_ _ ?_
    | refine keep_foldl_snd ?_ _ ?_
    | refine keep_of_snd (by assumption) ?_
    | refine keep_of_snd3 (by assumption) ?_
    | refine keep_of_fst (by assumption) ?_
    | intro _
    | split

theorem timAdvance_keep {s : State} {d : Nat} (h : Keep m l k s0 s) : Keep m l k s0 (timAdvance s d) := by
  unfold timAdvance
  repeat' with_reducible first
    | assumption
    | refine keep_ite ?_ (fun _ => ?_)
    | refine keep_mk ?_ rfl rfl rfl rfl rfl rfl rfl rfl

theorem execHoldoverLimit_keep {tb : Fin 4} {s : State} : KeepO m l k s (execHoldoverLimit tb s) := by
  have h := Keep.refl m l k s
  unfold execHoldoverLimit
  repeat' with_reducible first
    | assumption
    | refine begin_keep ?_
    | refine setTrace_keep ?_
    | refine keep_ite ?_ (fun _ => ?_)
    | refine keepO_next ?_

theorem stepRes_keep {s : State} {st : Nat} (h : Keep m l k s0 s) : Keep m l k s0 (stepRes s st) := by
  unfold stepRes
  repeat' with_reducible first
    | assumption
    | refine keep_ite ?_ (fun _ => ?_)
    | refine keep_mk ?_ rfl rfl rfl rfl rfl rfl rfl rfl

theorem stepCmd_keep {s : State} {pf : Pf} {key : BitVec 16} {b : Nat} {cmd : Nat} (h : Keep m l k s0 s) : Keep m l k s0 (stepCmd s pf key b cmd) := by
  unfold stepCmd
  repeat' with_reducible first
    | assumption
    | refine hostPf0_keep ?_ ?_
    | refine begin_keep ?_
    | refine stepLog_keep ?_
    | refine stepRes_keep ?_
    | refine updTb_keep ?_
    | refine keep_ite ?_ (fun _ => ?_)
    | refine keep_of_snd (by assumption) ?_
    | refine keep_of_snd3 (by assumption) ?_
    | refine keep_of_fst (by assumption) ?_
    | intro _
    | split

theorem execStepRel_keep {pf : Pf} {key : BitVec 16} {tb : Fin 4} {s : State} : KeepO m l k s (execStepRel pf key tb s) := by
  have h := Keep.refl m l k s
  unfold execStepRel
  repeat' with_reducible first
    | assumption
    | refine stepCmd_keep ?_
    | refine keep_ite ?_ (fun _ => ?_)
    | refine keepO_next ?_

theorem execAlign_keep {pf : Pf} {key : BitVec 16} {tb : Fin 4} {s : State} : KeepO m l k s (execAlign pf key tb s) := by
  have h := Keep.refl m l k s
  unfold execAlign
  repeat' with_reducible first
    | assumption
    | refine stepCmd_keep ?_
    | refine keep_ite ?_ (fun _ => ?_)
    | refine keepO_next ?_

theorem tbStepEntry_keep {s : State} {b : Nat} {ns : Int} (h : Keep m l k s0 s) : Keep m l k s0 (tbStepEntry s b ns).2 := by
  unfold tbStepEntry
  repeat' with_reducible first
    | assumption
    | refine stepLog_keep ?_
    | refine stepRes_keep ?_
    | refine updTb_keep ?_
    | refine tbStep_keep ?_
    | refine keep_ite_snd ?_ (fun _ => ?_)
    | refine keep_ite ?_ (fun _ => ?_)
    | refine keep_of_snd (by assumption) ?_
    | refine keep_of_snd3 (by assumption) ?_
    | refine keep_of_fst (by assumption) ?_
    | split

theorem execDomselWrite_keep {pf : Pf} {v : Word} {s : State} : KeepO m l k s (execDomselWrite pf v s) := by
  have h := Keep.refl m l k s
  unfold execDomselWrite
  repeat' with_reducible first
    | assumption
    | refine hostPf0_keep ?_ ?_
    | refine begin_keep ?_
    | refine keep_regSet ?_
    | refine domFollow_keep ?_
    | refine keep_ite ?_ (fun _ => ?_)
    | refine keepO_next ?_
    | refine keepO_ite ?_ ?_
    | refine keep_foldl ?_ _ ?_
    | refine keep_foldl_snd ?_ _ ?_
    | intro _

theorem tbNow_keep {s : State} {b : Nat} (h : Keep m l k s0 s) : Keep m l k s0 (tbNow s b).2 := by
  unfold tbNow
  repeat' with_reducible first
    | assumption
    | refine freshBelow_keep ?_

theorem execTbFracRead_keep {pf : Pf} {tb : Fin 4} {s : State} : KeepO m l k s (execTbFracRead pf tb s) := by
  have h := Keep.refl m l k s
  unfold execTbFracRead
  repeat' with_reducible first
    | assumption
    | refine hostRead_keep ?_ ?_
    | refine begin_keep ?_
    | refine tbNow_keep ?_
    | refine updTb_keep ?_
    | refine keep_ite ?_ (fun _ => ?_)
    | refine keepO_next ?_
    | refine keepO_ite ?_ ?_
    | refine keep_of_snd (by assumption) ?_
    | refine keep_of_snd3 (by assumption) ?_
    | refine keep_of_fst (by assumption) ?_
    | intro _
    | split
    | dsimp only
    | refine keep_mk ?_ rfl rfl rfl rfl rfl rfl rfl rfl

theorem timReset_keep {s : State} (h : Keep m l k s0 s) : Keep m l k s0 (timReset s) := by
  unfold timReset
  repeat' with_reducible first
    | assumption
    | refine updTb_keep ?_
    | refine setTrace_keep ?_
    | refine updDom_keep ?_
    | refine domOff_keep ?_
    | refine keep_regSet ?_
    | refine domsEval_keep ?_
    | refine keep_ite ?_ (fun _ => ?_)
    | refine keep_foldl ?_ _ ?_
    | refine keep_foldl_snd ?_ _ ?_
    | intro _
    | refine keep_mk ?_ rfl rfl rfl rfl rfl rfl rfl rfl

theorem ethDrop_keep {s : State} (h : Keep m l k s0 s) : Keep m l k s0 (ethDrop s) := by
  unfold ethDrop
  repeat' with_reducible first
    | assumption
    | refine keep_ite ?_ (fun _ => ?_)
    | refine keep_mk ?_ rfl rfl rfl rfl rfl rfl rfl rfl

theorem ethReset_keep {s : State} (h : Keep m l k s0 s) : Keep m l k s0 (ethReset s) := by
  unfold ethReset
  repeat' with_reducible first
    | assumption
    | refine domOff_keep ?_
    | refine ethDrop_keep ?_
    | refine keep_ite ?_ (fun _ => ?_)
    | refine keep_foldl ?_ _ ?_
    | refine keep_foldl_snd ?_ _ ?_
    | intro _

theorem timLoad_keep {s : State} (h : Keep m l k s0 s) : Keep m l k s0 (timLoad s) := by
  unfold timLoad
  repeat' with_reducible first
    | assumption
    | refine keep_regSet ?_
    | refine sysMoved_keep ?_
    | refine domsEval_keep ?_
    | refine keep_ite ?_ (fun _ => ?_)
    | refine keep_mk ?_ rfl rfl rfl rfl rfl rfl rfl rfl

end Sys2Proof.Machine
end

