-- ==== Sys2Proof/Laws/KeepFieldIo.lean ====
section
/-!
SUPPORT. What every operation of Machine/FieldIo.lean keeps.
-/
namespace Sys2Proof.Machine
set_option Elab.async false

variable {m l k : Bool} {s0 : State}

theorem fioSet_keep {s : State} {f : Fio → Fio} (h : Keep m l k s0 s) : Keep m l k s0 (fioSet s f) := by
  unfold fioSet
  repeat' with_reducible first
    | assumption
    | refine keep_ite ?_ (fun _ => ?_)
    | refine keep_mk ?_ rfl rfl rfl rfl rfl rfl rfl rfl

theorem dieFollow_keep {s : State} (h : Keep m l k s0 s) : Keep m l k s0 (dieFollow s) := by
  unfold dieFollow
  repeat' with_reducible first
    | assumption
    | refine fioSet_keep ?_
    | refine keep_ite ?_ (fun _ => ?_)

theorem fioEval_keep {s0_0 : State} (h : Keep m l k s0 s0_0) : Keep m l k s0 (fioEval s0_0) := by
  unfold fioEval
  repeat' with_reducible first
    | assumption
    | refine dieFollow_keep ?_
    | refine fioSet_keep ?_

theorem driveN9_keep {s : State} {n : Nat} {on : Bool} (h : Keep m l k s0 s) : Keep m l k s0 (driveN9 s n on) := by
  unfold driveN9
  repeat' with_reducible first
    | assumption
    | refine fioEval_keep ?_
    | refine fioSet_keep ?_
    | refine keep_ite ?_ (fun _ => ?_)

theorem preOutputs_keep {s : State} {chg : Bool} {byp : Bool} (h : Keep m l k s0 s) : Keep m l k s0 (preOutputs s chg byp) := by
  unfold preOutputs
  repeat' with_reducible first
    | assumption
    | refine driveN9_keep ?_

theorem outTake_keep {s : State} {mask : Nat} {value : Nat} (h : Keep m l k s0 s) : Keep m l k s0 (outTake s mask value) := by
  unfold outTake
  repeat' with_reducible first
    | assumption
    | refine fioEval_keep ?_
    | refine fioSet_keep ?_

theorem fioAction_keep {s : State} {v : Word} (h : Keep m l k s0 s) : Keep m l k s0 (fioAction s v).2 := by
  unfold fioAction
  repeat' with_reducible first
    | assumption
    | refine outTake_keep ?_
    | refine raise_keep ?_
    | refine keep_ite_snd ?_ (fun _ => ?_)

theorem execFioOutWr_keep {pf : Pf} {v : Word} {s : State} : KeepO m l k s (execFioOutWr pf v s) := by
  have h := Keep.refl m l k s
  unfold execFioOutWr
  repeat' with_reducible first
    | assumption
    | refine hostPf0_keep ?_ ?_
    | refine begin_keep ?_
    | refine fioSet_keep ?_
    | refine raise_keep ?_
    | refine outTake_keep ?_
    | refine keep_ite ?_ (fun _ => ?_)
    | refine keepO_next ?_
    | refine keepO_ite ?_ ?_
    | intro _

theorem execBrkPulseEnd_keep {s : State} : KeepO m l k s (execBrkPulseEnd s) := by
  have h := Keep.refl m l k s
  unfold execBrkPulseEnd
  repeat' with_reducible first
    | assumption
    | refine begin_keep ?_
    | refine driveN9_keep ?_
    | refine keep_ite ?_ (fun _ => ?_)
    | refine keepO_next ?_
    | refine keepO_ite ?_ ?_
    | refine keep_of_snd (by assumption) ?_
    | refine keep_of_snd3 (by assumption) ?_
    | refine keep_of_fst (by assumption) ?_
    | split

theorem fioStart_keep {s : State} (h : Keep m l k s0 s) : Keep m l k s0 (fioStart s) := by
  unfold fioStart
  repeat' with_reducible first
    | assumption
    | refine fioSet_keep ?_

theorem fioSample_keep {i : Nat} {s : State} {on : Bool} (h : Keep m l k s0 s) : Keep m l k s0 (fioSample i s on) := by
  unfold fioSample
  repeat' with_reducible first
    | assumption
    | refine fioSet_keep ?_
    | refine regInc_keep ?_
    | refine keep_ite ?_ (fun _ => ?_)

theorem fioSamples_keep {s : State} {i : Nat} {l_2 : List Bool} (h : Keep m l k s0 s) : Keep m l k s0 (fioSamples s i l_2) := by
  unfold fioSamples
  repeat' with_reducible first
    | assumption
    | refine fioSample_keep ?_
    | refine keep_ite ?_ (fun _ => ?_)
    | refine keep_foldl ?_ _ ?_
    | refine keep_foldl_snd ?_ _ ?_
    | intro _

theorem execFioInputChange_keep {i : Fin 16} {samples : List Bool} {s : State} : KeepO m l k s (execFioInputChange i samples s) := by
  have h := Keep.refl m l k s
  unfold execFioInputChange
  repeat' with_reducible first
    | assumption
    | refine fioSamples_keep ?_
    | refine begin_keep ?_
    | refine keep_ite ?_ (fun _ => ?_)
    | refine keepO_next ?_

theorem execFioFilterFilled_keep {x : Fin 16 × List Bool} {s : State} : KeepO m l k s (execFioFilterFilled x s) := by
  have h := Keep.refl m l k s
  unfold execFioFilterFilled
  repeat' with_reducible first
    | assumption
    | refine fioSamples_keep ?_
    | refine begin_keep ?_
    | refine keep_ite ?_ (fun _ => ?_)
    | refine keepO_next ?_

theorem execInputBreak_keep {i : Fin 16} {s : State} : KeepO m l k s (execInputBreak i s) := by
  have h := Keep.refl m l k s
  unfold execInputBreak
  repeat' with_reducible first
    | assumption
    | refine begin_keep ?_
    | refine raise_keep ?_
    | refine fioSet_keep ?_
    | refine keep_ite ?_ (fun _ => ?_)
    | refine keepO_next ?_

theorem execInputBreakEnd_keep {i : Fin 16} {s : State} : KeepO m l k s (execInputBreakEnd i s) := by
  have h := Keep.refl m l k s
  unfold execInputBreakEnd
  repeat' with_reducible first
    | assumption
    | refine fioSet_keep ?_
    | refine begin_keep ?_
    | refine keep_ite ?_ (fun _ => ?_)
    | refine keepO_next ?_

theorem fioReport_keep {s : State} {f : Fio → Fio} (h : Keep m l k s0 s) : Keep m l k s0 (fioReport s f) := by
  unfold fioReport
  repeat' with_reducible first
    | assumption
    | refine fioSet_keep ?_
    | refine raise_keep ?_
    | refine fioEval_keep ?_
    | refine keep_ite ?_ (fun _ => ?_)

theorem execFieldSupplyLow_keep {mv : BitVec 16} {s : State} : KeepO m l k s (execFieldSupplyLow mv s) := by
  have h := Keep.refl m l k s
  unfold execFieldSupplyLow
  repeat' with_reducible first
    | assumption
    | refine fioReport_keep ?_
    | refine begin_keep ?_
    | refine keep_ite ?_ (fun _ => ?_)
    | refine keepO_next ?_

theorem execFieldSupplyOk_keep {mv : BitVec 16} {s : State} : KeepO m l k s (execFieldSupplyOk mv s) := by
  have h := Keep.refl m l k s
  unfold execFieldSupplyOk
  repeat' with_reducible first
    | assumption
    | refine fioReport_keep ?_
    | refine begin_keep ?_
    | refine keep_ite ?_ (fun _ => ?_)
    | refine keepO_next ?_

theorem execFieldOutputFault_keep {present : Bool} {s : State} : KeepO m l k s (execFieldOutputFault present s) := by
  have h := Keep.refl m l k s
  unfold execFieldOutputFault
  repeat' with_reducible first
    | assumption
    | refine fioReport_keep ?_
    | refine begin_keep ?_
    | refine keep_ite ?_ (fun _ => ?_)
    | refine keepO_next ?_

theorem execFieldLinkSilent_keep {s : State} : KeepO m l k s (execFieldLinkSilent s) := by
  have h := Keep.refl m l k s
  unfold execFieldLinkSilent
  repeat' with_reducible first
    | assumption
    | refine begin_keep ?_
    | refine raise_keep ?_
    | refine fioSet_keep ?_
    | refine keep_ite ?_ (fun _ => ?_)
    | refine keepO_next ?_

theorem execFieldSilence_keep {mask : BitVec 16} {s : State} : KeepO m l k s (execFieldSilence mask s) := by
  have h := Keep.refl m l k s
  unfold execFieldSilence
  repeat' with_reducible first
    | assumption
    | refine fioEval_keep ?_
    | refine fioSet_keep ?_
    | refine begin_keep ?_
    | refine keep_ite ?_ (fun _ => ?_)
    | refine keepO_next ?_

theorem execFieldConfigResend_keep {s : State} : KeepO m l k s (execFieldConfigResend s) := by
  have h := Keep.refl m l k s
  unfold execFieldConfigResend
  repeat' with_reducible first
    | assumption
    | refine begin_keep ?_
    | refine fioSet_keep ?_
    | refine send_keep ?_
    | refine fioEval_keep ?_
    | refine raise_keep ?_
    | refine keep_ite ?_ (fun _ => ?_)
    | refine keepO_next ?_

theorem fioReset_keep {s : State} (h : Keep m l k s0 s) : Keep m l k s0 (fioReset s) := by
  unfold fioReset
  repeat' with_reducible first
    | assumption
    | refine fioEval_keep ?_
    | refine fioStart_keep ?_
    | refine fioSet_keep ?_

theorem monSet_keep {s : State} {f : Mon → Mon} (h : Keep m l k s0 s) : Keep m l k s0 (monSet s f) := by
  unfold monSet
  repeat' with_reducible first
    | assumption
    | refine keep_ite ?_ (fun _ => ?_)
    | refine keep_mk ?_ rfl rfl rfl rfl rfl rfl rfl rfl

theorem execMonLiveRefresh_keep {m_0 : Measured} {s : State} : KeepO m l k s (execMonLiveRefresh m_0 s) := by
  have h := Keep.refl m l k s
  unfold execMonLiveRefresh
  repeat' with_reducible first
    | assumption
    | refine begin_keep ?_
    | refine monSet_keep ?_
    | refine keep_ite ?_ (fun _ => ?_)
    | refine keepO_next ?_

theorem execMgtWriteTxn_keep {ptr : BitVec 16} {x : List Byte × Bool} {s : State} : KeepO m l k s (execMgtWriteTxn ptr x s) := by
  have h := Keep.refl m l k s
  unfold execMgtWriteTxn
  repeat' with_reducible first
    | assumption
    | refine begin_keep ?_
    | refine monSet_keep ?_
    | refine keep_ite ?_ (fun _ => ?_)
    | refine keepO_next ?_

theorem execMgtReadTxn_keep {x : Nat × Bool} {s : State} : KeepO m l k s (execMgtReadTxn x s) := by
  have h := Keep.refl m l k s
  unfold execMgtReadTxn
  repeat' with_reducible first
    | assumption
    | refine begin_keep ?_
    | refine monSet_keep ?_
    | refine send_keep ?_
    | refine keep_ite ?_ (fun _ => ?_)
    | refine keepO_next ?_

theorem execMgtBusTimeout_keep {s : State} : KeepO m l k s (execMgtBusTimeout s) := by
  have h := Keep.refl m l k s
  unfold execMgtBusTimeout
  repeat' with_reducible first
    | assumption
    | refine begin_keep ?_
    | refine raise_keep ?_
    | refine monSet_keep ?_
    | refine keep_ite ?_ (fun _ => ?_)
    | refine keepO_next ?_

theorem execMonLiveRead_keep {pf : Pf} {w : Fin 32} {s : State} : KeepO m l k s (execMonLiveRead pf w s) := by
  have h := Keep.refl m l k s
  unfold execMonLiveRead
  repeat' with_reducible first
    | assumption
    | refine hostRead_keep ?_ ?_
    | refine begin_keep ?_
    | refine monSet_keep ?_
    | refine keep_ite ?_ (fun _ => ?_)
    | refine keepO_next ?_
    | refine keepO_ite ?_ ?_
    | intro _
    | refine keep_mk ?_ rfl rfl rfl rfl rfl rfl rfl rfl

theorem execSupplyWarn_keep {_rail : Fin 12} {s : State} : KeepO m l k s (execSupplyWarn _rail s) := by
  have h := Keep.refl m l k s
  unfold execSupplyWarn
  repeat' with_reducible first
    | assumption
    | refine raise_keep ?_
    | refine begin_keep ?_
    | refine keep_ite ?_ (fun _ => ?_)
    | refine keepO_next ?_

theorem execTempWarn_keep {_die : Fin 4} {s : State} : KeepO m l k s (execTempWarn _die s) := by
  have h := Keep.refl m l k s
  unfold execTempWarn
  repeat' with_reducible first
    | assumption
    | refine raise_keep ?_
    | refine begin_keep ?_
    | refine keep_ite ?_ (fun _ => ?_)
    | refine keepO_next ?_

theorem monReset_keep {s : State} (h : Keep m l k s0 s) : Keep m l k s0 (monReset s) := by
  unfold monReset
  repeat' with_reducible first
    | assumption
    | refine monSet_keep ?_

end Sys2Proof.Machine
end

