-- ==== Sys2Proof/Laws/KeepRedOps.lean ====
section
/-!
SUPPORT. What every operation of Machine/RedOps.lean keeps.
-/
namespace Sys2Proof.Machine
set_option Elab.async false

variable {m l k : Bool} {s0 : State}

theorem redSet_keep {s : State} {f : Red → Red} (h : Keep m l k s0 s) : Keep m l k s0 (redSet s f) := by
  unfold redSet
  repeat' with_reducible first
    | assumption
    | refine keep_ite ?_ (fun _ => ?_)
    | refine keep_mk ?_ rfl rfl rfl rfl rfl rfl rfl rfl

theorem redWatch_keep {s0_0 : State} {s : State} (h : Keep m l k s0 s) : Keep m l k s0 (redWatch s0_0 s) := by
  unfold redWatch
  repeat' with_reducible first
    | assumption
    | refine raise_keep ?_
    | refine keep_ite ?_ (fun _ => ?_)

theorem planeRead_keep {s : State} (h : Keep m l k s0 s) : Keep m l k s0 (planeRead s).2 := by
  unfold planeRead
  repeat' with_reducible first
    | assumption
    | refine rickRead_keep ?_
    | refine redSet_keep ?_
    | refine keep_ite_snd ?_ (fun _ => ?_)
    | refine keep_ite ?_ (fun _ => ?_)
    | refine keep_of_snd (by assumption) ?_
    | refine keep_of_snd3 (by assumption) ?_
    | refine keep_of_fst (by assumption) ?_
    | split

theorem ringWrite_keep {s : State} {bs : List Byte} (h : Keep m l k s0 s) : Keep m l k s0 (ringWrite s bs) := by
  exact keep_peat h (.of_eq (peatJob_arc _ _))

theorem snapCapture_keep {s : State} {final : Bool} (h : Keep m l k s0 s) : Keep m l k s0 (snapCapture s final) := by
  unfold snapCapture
  repeat' with_reducible first
    | assumption
    | refine raise_keep ?_
    | refine regInc_keep ?_
    | refine redSet_keep ?_
    | refine keep_ite ?_ (fun _ => ?_)
    | refine keep_of_snd (by assumption) ?_
    | refine keep_of_snd3 (by assumption) ?_
    | refine keep_of_fst (by assumption) ?_
    | split

theorem swgWait_keep {s : State} {eZero : Bool} (h : Keep m l k s0 s) : Keep m l k s0 (swgWait s eZero) := by
  unfold swgWait
  repeat' with_reducible first
    | assumption
    | refine keep_ite ?_ (fun _ => ?_)
    | refine keep_mk ?_ rfl rfl rfl rfl rfl rfl rfl rfl

theorem swgSeed_keep {s : State} (h : Keep m l k s0 s) : Keep m l k s0 (swgSeed s) := by
  unfold swgSeed
  repeat' with_reducible first
    | assumption
    | refine keep_ite ?_ (fun _ => ?_)
    | refine keep_mk ?_ rfl rfl rfl rfl rfl rfl rfl rfl

theorem partnerSend_keep {s : State} {payload : List Byte} (h : Keep m l k s0 s) : Keep m l k s0 (partnerSend s payload) := by
  unfold partnerSend
  repeat' with_reducible first
    | assumption
    | refine laneSend_keep ?_
    | refine keep_ite ?_ (fun _ => ?_)
    | refine keep_foldl ?_ _ ?_
    | refine keep_foldl_snd ?_ _ ?_
    | intro _

theorem heartbeatSend_keep {s : State} (h : Keep m l k s0 s) : Keep m l k s0 (heartbeatSend s) := by
  unfold heartbeatSend
  repeat' with_reducible first
    | assumption
    | refine partnerSend_keep ?_
    | refine redSet_keep ?_
    | refine keep_ite ?_ (fun _ => ?_)

theorem slotChanged_keep {s : State} (h : Keep m l k s0 s) : Keep m l k s0 (slotChanged s) := by
  unfold slotChanged
  repeat' with_reducible first
    | assumption
    | refine redSet_keep ?_

theorem chunkSend_keep {s : State} {t : Stream} {c : Nat} (h : Keep m l k s0 s) : Keep m l k s0 (chunkSend s t c) := by
  unfold chunkSend
  repeat' with_reducible first
    | assumption
    | refine partnerSend_keep ?_

theorem streamTick_keep {s : State} (h : Keep m l k s0 s) : Keep m l k s0 (streamTick s) := by
  unfold streamTick
  repeat' with_reducible first
    | assumption
    | refine redSet_keep ?_
    | refine chunkSend_keep ?_
    | refine keep_ite ?_ (fun _ => ?_)
    | refine keep_of_snd (by assumption) ?_
    | refine keep_of_snd3 (by assumption) ?_
    | refine keep_of_fst (by assumption) ?_
    | split

theorem claimUp_keep {s : State} (h : Keep m l k s0 s) : Keep m l k s0 (claimUp s) := by
  unfold claimUp
  repeat' with_reducible first
    | assumption
    | refine adcStart_keep ?_
    | refine fltLoad_keep ?_
    | refine redSet_keep ?_
    | refine planeRead_keep ?_
    | refine keep_ite ?_ (fun _ => ?_)

theorem claimDown_keep {s : State} (h : Keep m l k s0 s) : Keep m l k s0 (claimDown s) := by
  unfold claimDown
  refine keep_ite h fun _ => ?_
  have key : ∀ t, Keep m l k s0 t →
      Keep m l k s0 { t with regs := [fnADC, fnFLT].foldl (fun r fn => regsFrst fn (fun _ => false) r) t.regs } := fun t h1 =>
    ⟨h1.queue, fun i => ⟨(h1.inv i).1, tabWf_regsFrst_foldl _ _ (h1.inv i).2.1, (h1.inv i).2.2⟩, h1.arc, h1.mode, h1.lock, h1.tick⟩
  exact key _ (fltReset_keep (adcReset_keep (redSet_keep h)))

theorem redGo_keep {s : State} {new : RedState} (h : Keep m l k s0 s) : Keep m l k s0 (redGo s new) := by
  unfold redGo
  repeat' with_reducible first
    | assumption
    | refine claimDown_keep ?_
    | refine logNow_keep ?_
    | refine redSet_keep ?_
    | refine keep_ite ?_ (fun _ => ?_)

theorem epochStore_keep {s : State} {e : Nat} (h : Keep m l k s0 s) : Keep m l k s0 (epochStore s e) := by
  unfold epochStore
  repeat' with_reducible first
    | assumption
    | refine peatWrite_keep ?_ ?_
    | refine keep_ite ?_ (fun _ => ?_)
    | rfl

theorem epochAdvance_keep {s : State} (h : Keep m l k s0 s) : Keep m l k s0 (epochAdvance s) := by
  unfold epochAdvance
  repeat' with_reducible first
    | assumption
    | refine raise_keep ?_
    | refine redSet_keep ?_
    | refine epochStore_keep ?_
    | refine keep_ite ?_ (fun _ => ?_)
    | refine keep_of_snd (by assumption) ?_
    | refine keep_of_snd3 (by assumption) ?_
    | refine keep_of_fst (by assumption) ?_
    | split

theorem leaseDrop_keep {s : State} (h : Keep m l k s0 s) : Keep m l k s0 (leaseDrop s) := by
  unfold leaseDrop
  repeat' with_reducible first
    | assumption
    | refine portSettle_keep ?_
    | refine svcEnd_keep ?_
    | refine redSet_keep ?_

theorem leaseRenew_keep {s : State} (h : Keep m l k s0 s) : Keep m l k s0 (leaseRenew s) := by
  unfold leaseRenew
  repeat' with_reducible first
    | assumption
    | refine redSet_keep ?_

theorem claimStart_keep {s : State} {at_ : Nat} (h : Keep m l k s0 s) : Keep m l k s0 (claimStart s at_).2 := by
  unfold claimStart
  repeat' with_reducible first
    | assumption
    | refine raise_keep ?_
    | refine redGo_keep ?_
    | refine claimUp_keep ?_
    | refine redSet_keep ?_
    | refine epochStore_keep ?_
    | refine keep_ite_snd ?_ (fun _ => ?_)
    | refine keep_ite ?_ (fun _ => ?_)
    | refine keep_of_snd (by assumption) ?_
    | refine keep_of_snd3 (by assumption) ?_
    | refine keep_of_fst (by assumption) ?_
    | split

theorem claimYield_keep {s : State} (h : Keep m l k s0 s) : Keep m l k s0 (claimYield s) := by
  unfold claimYield
  repeat' with_reducible first
    | assumption
    | refine raise_keep ?_
    | refine redGo_keep ?_
    | refine redSet_keep ?_

theorem releaseNow_keep {s : State} {cause : Nat} (h : Keep m l k s0 s) : Keep m l k s0 (releaseNow s cause) := by
  unfold releaseNow
  repeat' with_reducible first
    | assumption
    | refine leaseDrop_keep ?_
    | refine redSet_keep ?_
    | refine redGo_keep ?_
    | refine raise_keep ?_
    | refine regInc_keep ?_
    | refine heartbeatSend_keep ?_
    | refine keep_ite ?_ (fun _ => ?_)

theorem singleTake_keep {s : State} (h : Keep m l k s0 s) : Keep m l k s0 (singleTake s) := by
  unfold singleTake
  repeat' with_reducible first
    | assumption
    | refine raise_keep ?_
    | refine leaseRenew_keep ?_
    | refine redSet_keep ?_
    | refine epochStore_keep ?_
    | refine keep_ite ?_ (fun _ => ?_)
    | refine keep_of_snd (by assumption) ?_
    | refine keep_of_snd3 (by assumption) ?_
    | refine keep_of_fst (by assumption) ?_
    | split

theorem redStart_keep {s : State} (h : Keep m l k s0 s) : Keep m l k s0 (redStart s) := by
  unfold redStart
  repeat' with_reducible first
    | assumption
    | refine redSet_keep ?_
    | refine redGo_keep ?_
    | refine keep_ite ?_ (fun _ => ?_)

theorem holderJudge_keep {s : State} (h : Keep m l k s0 s) : Keep m l k s0 (holderJudge s) := by
  unfold holderJudge
  repeat' with_reducible first
    | assumption
    | refine blockRelease_keep ?_
    | refine raise_keep ?_
    | refine keep_ite ?_ (fun _ => ?_)

theorem redJudge.judgeClaim_keep {s : State} (h : Keep m l k s0 s) : Keep m l k s0 (redJudge.judgeClaim s) := by
  unfold redJudge.judgeClaim
  repeat' with_reducible first
    | assumption
    | refine claimYield_keep ?_
    | refine keep_ite ?_ (fun _ => ?_)

theorem redJudge_keep {s : State} (h : Keep m l k s0 s) : Keep m l k s0 (redJudge s) := by
  unfold redJudge
  repeat' with_reducible first
    | assumption
    | refine freshBelow_keep ?_
    | refine redJudge.judgeClaim_keep ?_
    | refine claimStart_keep ?_
    | refine holderJudge_keep ?_
    | refine redSet_keep ?_
    | refine redGo_keep ?_
    | refine keep_ite ?_ (fun _ => ?_)
    | refine keep_of_snd (by assumption) ?_
    | refine keep_of_snd3 (by assumption) ?_
    | refine keep_of_fst (by assumption) ?_
    | split

theorem redEval_keep {s0_0 : State} {s : State} (h : Keep m l k s0 s) : Keep m l k s0 (redEval s0_0 s) := by
  unfold redEval
  repeat' with_reducible first
    | assumption
    | refine redJudge_keep ?_
    | refine redWatch_keep ?_
    | refine redSet_keep ?_
    | refine keep_ite ?_ (fun _ => ?_)

end Sys2Proof.Machine
end

