-- ==== Sys2Proof/Laws/KeepRedundancy.lean ====
section
/-!
SUPPORT. What every operation of Machine/Redundancy.lean keeps.
-/
namespace Sys2Proof.Machine
set_option Elab.async false

variable {m l k : Bool} {s0 : State}

theorem redStore_keep {s : State} {addr : Nat} {bs : List Byte} (h : Keep m l k s0 s) : Keep m l k s0 (redStore s addr bs).2 := by
  unfold redStore
  repeat' with_reducible first
    | assumption
    | refine devWrite_keep ?_
    | refine denyAccess_keep ?_
    | refine keep_ite_snd ?_ (fun _ => ?_)

theorem planeCopyWrite_keep {s : State} (h : Keep m l k s0 s) : Keep m l k s0 (planeCopyWrite s) := by
  unfold planeCopyWrite
  repeat' with_reducible first
    | assumption
    | refine redStore_keep ?_
    | refine redSet_keep ?_

theorem snapStore_keep {s : State} {seq : Nat} {bs : List Byte} (h : Keep m l k s0 s) : Keep m l k s0 (snapStore s seq bs) := by
  unfold snapStore
  repeat' with_reducible first
    | assumption
    | refine redStore_keep ?_
    | refine redSet_keep ?_
    | refine keep_ite ?_ (fun _ => ?_)

theorem hbkArm_keep {s : State} (h : Keep m l k s0 s) : Keep m l k s0 (hbkArm s) := by
  unfold hbkArm
  repeat' with_reducible first
    | assumption
    | refine keep_ite ?_ (fun _ => ?_)
    | refine keep_of_snd (by assumption) ?_
    | refine keep_of_snd3 (by assumption) ?_
    | refine keep_of_fst (by assumption) ?_
    | split
    | dsimp only
    | refine keep_mk ?_ rfl rfl rfl rfl rfl rfl rfl rfl

theorem hbkRun_keep {s : State} (h : Keep m l k s0 s) : Keep m l k s0 (hbkRun s) := by
  unfold hbkRun
  repeat' with_reducible first
    | assumption
    | refine addCause_keep ?_
    | refine hbkArm_keep ?_
    | refine raise_keep ?_
    | refine keep_ite ?_ (fun _ => ?_)

theorem hbkExpired_keep {s : State} (h : Keep m l k s0 s) : Keep m l k s0 (hbkExpired s) := by
  unfold hbkExpired
  repeat' with_reducible first
    | assumption
    | refine hbkArm_keep ?_
    | refine raise_keep ?_

theorem snapTake_keep {s : State} (h : Keep m l k s0 s) : Keep m l k s0 (snapTake s) := by
  unfold snapTake
  repeat' with_reducible first
    | assumption
    | refine rickRead_keep ?_
    | refine redSet_keep ?_
    | refine keep_ite ?_ (fun _ => ?_)
    | refine keep_of_snd (by assumption) ?_
    | refine keep_of_snd3 (by assumption) ?_
    | refine keep_of_fst (by assumption) ?_
    | split

theorem holderStart_keep {s : State} (h : Keep m l k s0 s) : Keep m l k s0 (holderStart s) := by
  unfold holderStart
  repeat' with_reducible first
    | assumption
    | refine redGo_keep ?_
    | refine redSet_keep ?_
    | refine raise_keep ?_
    | refine regInc_keep ?_
    | refine leaseRenew_keep ?_
    | refine snapTake_keep ?_
    | refine crdWake_keep ?_
    | refine addCause_keep ?_
    | refine keep_ite ?_ (fun _ => ?_)

theorem hbTake_keep {s : State} {hb : Heartbeat} {arrival : Nat} (h : Keep m l k s0 s) : Keep m l k s0 (hbTake s hb arrival) := by
  unfold hbTake
  repeat' with_reducible first
    | assumption
    | refine redSet_keep ?_
    | refine keep_ite ?_ (fun _ => ?_)
    | refine keep_of_snd (by assumption) ?_
    | refine keep_of_snd3 (by assumption) ?_
    | refine keep_of_fst (by assumption) ?_
    | split
    | dsimp only
    | refine keep_mk ?_ rfl rfl rfl rfl rfl rfl rfl rfl

theorem execHeartbeatRx_keep {bytes : List Byte} {arrival : Nat} {s : State} : KeepO m l k s (execHeartbeatRx bytes arrival s) := by
  have h := Keep.refl m l k s
  unfold execHeartbeatRx
  repeat' with_reducible first
    | assumption
    | refine begin_keep ?_
    | refine hbkArm_keep ?_
    | refine redEval_keep ?_
    | refine hbTake_keep ?_
    | refine keep_ite ?_ (fun _ => ?_)
    | refine keepO_next ?_
    | refine keepO_ite ?_ ?_
    | refine keep_of_snd (by assumption) ?_
    | refine keep_of_snd3 (by assumption) ?_
    | refine keep_of_fst (by assumption) ?_
    | split

theorem execHeartbeatLoss_keep {s : State} : KeepO m l k s (execHeartbeatLoss s) := by
  have h := Keep.refl m l k s
  unfold execHeartbeatLoss
  repeat' with_reducible first
    | assumption
    | refine begin_keep ?_
    | refine raise_keep ?_
    | refine regInc_keep ?_
    | refine redSet_keep ?_
    | refine redEval_keep ?_
    | refine keep_ite ?_ (fun _ => ?_)
    | refine keepO_next ?_

theorem execSlotReportRx_keep {bytes : List Byte} {s : State} : KeepO m l k s (execSlotReportRx bytes s) := by
  have h := Keep.refl m l k s
  unfold execSlotReportRx
  repeat' with_reducible first
    | assumption
    | refine begin_keep ?_
    | refine redSet_keep ?_
    | refine keep_ite ?_ (fun _ => ?_)
    | refine keepO_next ?_
    | refine keepO_ite ?_ ?_
    | refine keep_of_snd (by assumption) ?_
    | refine keep_of_snd3 (by assumption) ?_
    | refine keep_of_fst (by assumption) ?_
    | split

theorem chunkTake_keep {s : State} {c : SnapChunk} (h : Keep m l k s0 s) : Keep m l k s0 (chunkTake s c) := by
  unfold chunkTake
  repeat' with_reducible first
    | assumption
    | refine raise_keep ?_
    | refine regInc_keep ?_
    | refine redSet_keep ?_
    | refine snapStore_keep ?_
    | refine keep_ite ?_ (fun _ => ?_)
    | refine keep_of_snd (by assumption) ?_
    | refine keep_of_snd3 (by assumption) ?_
    | refine keep_of_fst (by assumption) ?_
    | split

theorem execSnapChunkRx_keep {c : SnapChunk} {s : State} : KeepO m l k s (execSnapChunkRx c s) := by
  have h := Keep.refl m l k s
  unfold execSnapChunkRx
  repeat' with_reducible first
    | assumption
    | refine begin_keep ?_
    | refine chunkTake_keep ?_
    | refine redEval_keep ?_
    | refine keep_ite ?_ (fun _ => ?_)
    | refine keepO_next ?_

theorem execSnapChunkRetry_keep {chunk : Fin 16} {s : State} : KeepO m l k s (execSnapChunkRetry chunk s) := by
  have h := Keep.refl m l k s
  unfold execSnapChunkRetry
  repeat' with_reducible first
    | assumption
    | refine begin_keep ?_
    | refine redSet_keep ?_
    | refine chunkSend_keep ?_
    | refine keep_ite ?_ (fun _ => ?_)
    | refine keepO_next ?_
    | refine keepO_ite ?_ ?_
    | refine keep_of_snd (by assumption) ?_
    | refine keep_of_snd3 (by assumption) ?_
    | refine keep_of_fst (by assumption) ?_
    | split

theorem execTknIReleased_keep {s : State} : KeepO m l k s (execTknIReleased s) := by
  have h := Keep.refl m l k s
  unfold execTknIReleased
  repeat' with_reducible first
    | assumption
    | refine begin_keep ?_
    | refine redEval_keep ?_
    | refine redSet_keep ?_
    | refine keep_ite ?_ (fun _ => ?_)
    | refine keepO_next ?_

theorem execTknIClaiming_keep {s : State} : KeepO m l k s (execTknIClaiming s) := by
  have h := Keep.refl m l k s
  unfold execTknIClaiming
  repeat' with_reducible first
    | assumption
    | refine begin_keep ?_
    | refine redEval_keep ?_
    | refine redSet_keep ?_
    | refine keep_ite ?_ (fun _ => ?_)
    | refine keepO_next ?_

theorem execTknReadbackFault_keep {s : State} : KeepO m l k s (execTknReadbackFault s) := by
  have h := Keep.refl m l k s
  unfold execTknReadbackFault
  repeat' with_reducible first
    | assumption
    | refine begin_keep ?_
    | refine redEval_keep ?_
    | refine raise_keep ?_
    | refine redSet_keep ?_
    | refine keep_ite ?_ (fun _ => ?_)
    | refine keepO_next ?_

theorem autoClaim_keep {s : State} {since : Nat} (h : Keep m l k s0 s) : Keep m l k s0 (autoClaim s since) := by
  unfold autoClaim
  repeat' with_reducible first
    | assumption
    | refine claimStart_keep ?_
    | refine redEval_keep ?_

theorem execSilentClaim_keep {s : State} : KeepO m l k s (execSilentClaim s) := by
  have h := Keep.refl m l k s
  unfold execSilentClaim
  repeat' with_reducible first
    | assumption
    | refine begin_keep ?_
    | refine freshBelow_keep ?_
    | refine autoClaim_keep ?_
    | refine keep_ite ?_ (fun _ => ?_)
    | refine keepO_next ?_

theorem execOrphanClaim_keep {s : State} : KeepO m l k s (execOrphanClaim s) := by
  have h := Keep.refl m l k s
  unfold execOrphanClaim
  repeat' with_reducible first
    | assumption
    | refine begin_keep ?_
    | refine freshBelow_keep ?_
    | refine autoClaim_keep ?_
    | refine keep_ite ?_ (fun _ => ?_)
    | refine keepO_next ?_

theorem execClaimGuardExpire_keep {s : State} : KeepO m l k s (execClaimGuardExpire s) := by
  have h := Keep.refl m l k s
  unfold execClaimGuardExpire
  repeat' with_reducible first
    | assumption
    | refine begin_keep ?_
    | refine holderStart_keep ?_
    | refine keep_ite ?_ (fun _ => ?_)
    | refine keepO_next ?_

theorem streamQuit_keep {s : State} (h : Keep m l k s0 s) : Keep m l k s0 (streamQuit s) := by
  unfold streamQuit
  repeat' with_reducible first
    | assumption
    | refine redSet_keep ?_

theorem leaseLapse_keep {s : State} (h : Keep m l k s0 s) : Keep m l k s0 (leaseLapse s) := by
  unfold leaseLapse
  repeat' with_reducible first
    | assumption
    | refine blockRelease_keep ?_
    | refine raise_keep ?_
    | refine leaseDrop_keep ?_
    | refine streamQuit_keep ?_
    | refine keep_ite ?_ (fun _ => ?_)

theorem execLeaseLapse_keep {s : State} : KeepO m l k s (execLeaseLapse s) := by
  have h := Keep.refl m l k s
  unfold execLeaseLapse
  repeat' with_reducible first
    | assumption
    | refine leaseLapse_keep ?_
    | refine begin_keep ?_
    | refine keep_ite ?_ (fun _ => ?_)
    | refine keepO_next ?_

theorem execReleasedTimeout_keep {s : State} : KeepO m l k s (execReleasedTimeout s) := by
  have h := Keep.refl m l k s
  unfold execReleasedTimeout
  repeat' with_reducible first
    | assumption
    | refine begin_keep ?_
    | refine redEval_keep ?_
    | refine redSet_keep ?_
    | refine redGo_keep ?_
    | refine keep_ite ?_ (fun _ => ?_)
    | refine keepO_next ?_

theorem redCtl_keep {s : State} {pf : Pf} {key : BitVec 16} {cmd : Nat} (h : Keep m l k s0 s) : Keep m l k s0 (redCtl s pf key cmd) := by
  unfold redCtl
  repeat' with_reducible first
    | assumption
    | refine hostPf0_keep ?_ ?_
    | refine redSet_keep ?_
    | refine keep_ite ?_ (fun _ => ?_)
    | intro _

theorem execRedClaim_keep {pf : Pf} {key : BitVec 16} {s : State} : KeepO m l k s (execRedClaim pf key s) := by
  have h := Keep.refl m l k s
  unfold execRedClaim
  repeat' with_reducible first
    | assumption
    | refine redCtl_keep ?_
    | refine begin_keep ?_
    | refine keep_ite ?_ (fun _ => ?_)
    | refine keepO_next ?_

theorem execRedRelease_keep {pf : Pf} {key : BitVec 16} {s : State} : KeepO m l k s (execRedRelease pf key s) := by
  have h := Keep.refl m l k s
  unfold execRedRelease
  repeat' with_reducible first
    | assumption
    | refine redCtl_keep ?_
    | refine begin_keep ?_
    | refine keep_ite ?_ (fun _ => ?_)
    | refine keepO_next ?_

theorem execHbkInhibit_keep {pf : Pf} {key : BitVec 16} {s : State} : KeepO m l k s (execHbkInhibit pf key s) := by
  have h := Keep.refl m l k s
  unfold execHbkInhibit
  repeat' with_reducible first
    | assumption
    | refine redCtl_keep ?_
    | refine begin_keep ?_
    | refine keep_ite ?_ (fun _ => ?_)
    | refine keepO_next ?_

theorem execHbkAllow_keep {pf : Pf} {key : BitVec 16} {s : State} : KeepO m l k s (execHbkAllow pf key s) := by
  have h := Keep.refl m l k s
  unfold execHbkAllow
  repeat' with_reducible first
    | assumption
    | refine redCtl_keep ?_
    | refine begin_keep ?_
    | refine keep_ite ?_ (fun _ => ?_)
    | refine keepO_next ?_

theorem hostClaim_keep {s : State} (h : Keep m l k s0 s) : Keep m l k s0 (hostClaim s).2 := by
  unfold hostClaim
  repeat' with_reducible first
    | assumption
    | refine claimStart_keep ?_
    | refine redEval_keep ?_
    | refine keep_ite_snd ?_ (fun _ => ?_)

theorem hostRelease_keep {s : State} (h : Keep m l k s0 s) : Keep m l k s0 (hostRelease s).2 := by
  unfold hostRelease
  repeat' with_reducible first
    | assumption
    | refine addCause_keep ?_
    | refine keep_ite_snd ?_ (fun _ => ?_)
    | refine keep_ite ?_ (fun _ => ?_)
    | refine keep_mk ?_ rfl rfl rfl rfl rfl rfl rfl rfl

theorem hostInhibit_keep {s : State} (h : Keep m l k s0 s) : Keep m l k s0 (hostInhibit s) := by
  unfold hostInhibit
  repeat' with_reducible first
    | assumption
    | refine redSet_keep ?_
    | refine keep_ite ?_ (fun _ => ?_)
    | refine keep_mk ?_ rfl rfl rfl rfl rfl rfl rfl rfl

theorem redCommand_keep {s : State} (h : Keep m l k s0 s) : Keep m l k s0 (redCommand s) := by
  unfold redCommand
  repeat' with_reducible first
    | assumption
    | refine redSet_keep ?_
    | refine hostClaim_keep ?_
    | refine hostRelease_keep ?_
    | refine hostInhibit_keep ?_
    | refine hbkArm_keep ?_
    | refine keep_ite ?_ (fun _ => ?_)
    | refine keep_of_snd (by assumption) ?_
    | refine keep_of_snd3 (by assumption) ?_
    | refine keep_of_fst (by assumption) ?_
    | split

theorem execRestoreTimeout_keep {s : State} : KeepO m l k s (execRestoreTimeout s) := by
  have h := Keep.refl m l k s
  unfold execRestoreTimeout
  repeat' with_reducible first
    | assumption
    | refine begin_keep ?_
    | refine blockRelease_keep ?_
    | refine raise_keep ?_
    | refine redSet_keep ?_
    | refine keep_ite ?_ (fun _ => ?_)
    | refine keepO_next ?_

theorem execPlaneCopyRebuildDone_keep {s : State} : KeepO m l k s (execPlaneCopyRebuildDone s) := by
  have h := Keep.refl m l k s
  unfold execPlaneCopyRebuildDone
  repeat' with_reducible first
    | assumption
    | refine begin_keep ?_
    | refine redEval_keep ?_
    | refine planeCopyWrite_keep ?_
    | refine keep_ite ?_ (fun _ => ?_)
    | refine keepO_next ?_

theorem execHbkRequest_keep {s : State} : KeepO m l k s (execHbkRequest s) := by
  have h := Keep.refl m l k s
  unfold execHbkRequest
  repeat' with_reducible first
    | assumption
    | refine begin_keep ?_
    | refine redSet_keep ?_
    | refine keep_ite ?_ (fun _ => ?_)
    | refine keepO_next ?_

theorem redBoundary_keep {s : State} (h : Keep m l k s0 s) : Keep m l k s0 (redBoundary s) := by
  unfold redBoundary
  repeat' with_reducible first
    | assumption
    | refine leaseRenew_keep ?_
    | refine heartbeatSend_keep ?_
    | refine leaseLapse_keep ?_
    | refine keep_ite ?_ (fun _ => ?_)

theorem redReset_keep {s : State} (h : Keep m l k s0 s) : Keep m l k s0 (redReset s) := by
  unfold redReset
  repeat' with_reducible first
    | assumption
    | refine redGo_keep ?_
    | refine redSet_keep ?_
    | refine leaseDrop_keep ?_
    | refine keep_ite ?_ (fun _ => ?_)

end Sys2Proof.Machine
end

