-- ==== Sys2Proof/Laws/KeepEngines.lean ====
section
/-!
SUPPORT. What every operation of Machine/Engines.lean keeps.
-/
namespace Sys2Proof.Machine
set_option Elab.async false

variable {m l k : Bool} {s0 : State}

theorem saBreaker_keep {s : State} {ns : Nat} (h : Keep m l k s0 s) : Keep m l k s0 (saBreaker s ns) := by
  unfold saBreaker
  repeat' with_reducible first
    | assumption
    | refine keep_ite ?_ (fun _ => ?_)
    | refine keep_mk ?_ rfl rfl rfl rfl rfl rfl rfl rfl

theorem saBreakerClear_keep {s : State} (h : Keep m l k s0 s) : Keep m l k s0 (saBreakerClear s) := by
  unfold saBreakerClear
  repeat' with_reducible first
    | assumption
    | refine keep_ite ?_ (fun _ => ?_)
    | refine keep_mk ?_ rfl rfl rfl rfl rfl rfl rfl rfl

theorem swgEffect_keep {s : State} {x : SwgFx} (h : Keep m l k s0 s) : Keep m l k s0 (swgEffect s x) := by
  unfold swgEffect
  repeat' with_reducible first
    | assumption
    | refine raise_keep ?_
    | refine logNow_keep ?_
    | refine blockRelease_keep ?_
    | refine saBreaker_keep ?_
    | refine saBreakerClear_keep ?_
    | refine addCause_keep ?_
    | refine regInc_keep ?_
    | refine keep_ite ?_ (fun _ => ?_)
    | refine keep_of_snd (by assumption) ?_
    | refine keep_of_snd3 (by assumption) ?_
    | refine keep_of_fst (by assumption) ?_
    | split

theorem rdlEffect_keep {s : State} {x : RdlFx} (h : Keep m l k s0 s) : Keep m l k s0 (rdlEffect s x) := by
  unfold rdlEffect
  repeat' with_reducible first
    | assumption
    | refine raise_keep ?_
    | refine blockRelease_keep ?_
    | refine regPut_keep ?_
    | refine logNow_keep ?_
    | refine preOutputs_keep ?_
    | refine keep_ite ?_ (fun _ => ?_)
    | refine keep_of_snd (by assumption) ?_
    | refine keep_of_snd3 (by assumption) ?_
    | refine keep_of_fst (by assumption) ?_
    | split

theorem rdlClose_keep {s : State} (h : Keep m l k s0 s) : Keep m l k s0 (rdlClose s) := by
  unfold rdlClose
  repeat' with_reducible first
    | assumption
    | refine rdlEffect_keep ?_
    | refine keep_ite ?_ (fun _ => ?_)
    | refine keep_foldl ?_ _ ?_
    | refine keep_foldl_snd ?_ _ ?_
    | intro _
    | refine keep_mk ?_ rfl rfl rfl rfl rfl rfl rfl rfl

theorem rdlBoth_keep {f : Rdl → Rdl} {s : State} (h : Keep m l k s0 s) : Keep m l k s0 (rdlBoth f s) := by
  unfold rdlBoth
  repeat' with_reducible first
    | assumption
    | refine keep_ite ?_ (fun _ => ?_)
    | refine keep_mk ?_ rfl rfl rfl rfl rfl rfl rfl rfl

theorem rdlGo_keep {f : Rdl → Rdl × List RdlFx} {s : State} (h : Keep m l k s0 s) : Keep m l k s0 (rdlGo f s) := by
  unfold rdlGo
  repeat' with_reducible first
    | assumption
    | refine rdlEffect_keep ?_
    | refine rdlBoth_keep ?_
    | refine keep_ite ?_ (fun _ => ?_)
    | refine keep_foldl ?_ _ ?_
    | refine keep_foldl_snd ?_ _ ?_
    | intro _

theorem preGoes_keep {f : Pre → Pre × List RdlFx} {s : State} (h : Keep m l k s0 s) : Keep m l k s0 (preGoes f s) := by
  unfold preGoes
  repeat' with_reducible first
    | assumption
    | refine rdlGo_keep ?_

theorem swgApply_keep {s : State} {x : Swg × List SwgFx} (h : Keep m l k s0 s) : Keep m l k s0 (swgApply s x) := by
  unfold swgApply
  repeat' with_reducible first
    | assumption
    | refine swgEffect_keep ?_
    | refine keep_ite ?_ (fun _ => ?_)
    | refine keep_foldl ?_ _ ?_
    | refine keep_foldl_snd ?_ _ ?_
    | intro _
    | refine keep_mk ?_ rfl rfl rfl rfl rfl rfl rfl rfl

end Sys2Proof.Machine
end

