-- ==== Sys2Proof/Laws/KeepStkOps.lean ====
section
/-!
SUPPORT. What every operation of Machine/StkOps.lean keeps.
-/
namespace Sys2Proof.Machine
set_option Elab.async false

variable {m l k : Bool} {s0 : State}

/-- Taking billets off the ready lists keeps the canonical form. -/
theorem tabWfFrom_readyTake (p : Item → Bool) : ∀ {t : Tab (List Item)} {lo : Nat},
    tabWfFrom (fun _ => []) lo t = true → tabWfFrom (fun _ => []) lo (readyTake p t).1 = true
  | [], _, _ => rfl
  | (j, u) :: t, lo, w => by
    simp only [tabWfFrom, Bool.and_eq_true, decide_eq_true_eq] at w
    have ih := tabWfFrom_readyTake p w.2
    simp only [readyTake]
    split
    · exact tabWfFrom_mono (by omega) ih
    · next hk =>
      simp only [tabWfFrom, Bool.and_eq_true, decide_eq_true_eq]
      exact ⟨⟨w.1.1, hk⟩, ih⟩

theorem tabWf_readyTake (p : Item → Bool) {t : Tab (List Item)} (w : tabWf (fun _ => []) t = true) :
    tabWf (fun _ => []) (readyTake p t).1 = true := tabWfFrom_readyTake p w

theorem stkSet_keep {s : State} {f : Stk → Stk} (hf : s.stk.wf → (f s.stk).wf) (h : Keep m l k s0 s) : Keep m l k s0 (stkSet s f) := by
  unfold stkSet
  exact keep_mk h rfl rfl rfl rfl rfl rfl rfl rfl id id id id id hf

theorem updRing_keep {s : State} {r : Nat} {f : Ring → Ring} (h : Keep m l k s0 s) : Keep m l k s0 (updRing s r f) := by
  exact stkSet_keep (fun w => ⟨tabWf_set_const w.1, w.2⟩) h

theorem updWorker_keep {s : State} {w : Nat} {f : Worker → Worker} (h : Keep m l k s0 s) : Keep m l k s0 (updWorker s w f) := by
  exact stkSet_keep (fun w => ⟨w.1, w.2.1, (length_updNth _ _ _).trans w.2.2⟩) h

theorem hostWrite_keep {s : State} {pf : Pf} {addr : Nat} {bs : List Byte} (h : Keep m l k s0 s) : Keep m l k s0 (hostWrite s pf addr bs) := by
  unfold hostWrite
  repeat' with_reducible first
    | assumption
    | refine send_keep ?_
    | refine keep_ite ?_ (fun _ => ?_)

theorem trace_keep {s : State} {u : Nat} {kind : Nat} {worker : Nat} {prio : Nat} {i : Item} (h : Keep m l k s0 s) : Keep m l k s0 (trace s u kind worker prio i) := by
  unfold trace
  repeat' with_reducible first
    | assumption
    | refine stkSet_keep id ?_
    | refine raise_keep ?_
    | refine keep_ite ?_ (fun _ => ?_)

theorem ringHalt_keep {s : State} {r : Nat} {cause : Nat} (h : Keep m l k s0 s) : Keep m l k s0 (ringHalt s r cause) := by
  unfold ringHalt
  repeat' with_reducible first
    | assumption
    | refine updRing_keep ?_
    | refine raise_keep ?_
    | refine keep_ite ?_ (fun _ => ?_)

theorem updReady_keep {s : State} {k_1 : Nat} {f : List Item → List Item} (h : Keep m l k s0 s) : Keep m l k s0 (updReady s k_1 f) := by
  exact stkSet_keep (fun w => ⟨w.1, tabWf_set_const w.2.1, w.2.2⟩) h

theorem flowTake_keep {s : State} {u : Nat} {i : Item} (h : Keep m l k s0 s) : Keep m l k s0 (flowTake s u i).2 := by
  unfold flowTake
  dsimp only
  refine keep_ite_snd ?_ fun _ => h
  exact keep_foldl (fun _ _ => trace_keep) _ (stkSet_keep (fun w => ⟨w.1, tabWf_readyTake _ w.2.1, w.2.2⟩) h)

theorem readyHead_keep {s : State} {w : Nat} : ∀ {p : Nat}, Keep m l k s0 s → Keep m l k s0 (readyHead s w p).2
  | 0, h => h
  | p + 1, h => by
    unfold readyHead
    split
    · exact readyHead_keep (p := p) h
    · exact updReady_keep h

theorem toService_keep {s : State} {u : Nat} {w : Nat} (h : Keep m l k s0 s) : Keep m l k s0 (toService s u w) := by
  unfold toService
  repeat' with_reducible first
    | assumption
    | refine trace_keep ?_
    | refine updWorker_keep ?_
    | refine keep_ite ?_ (fun _ => ?_)
    | refine keep_of_snd (by assumption) ?_
    | refine keep_of_snd3 (by assumption) ?_
    | refine keep_of_fst (by assumption) ?_
    | split
    | dsimp only

theorem toNext_keep {s : State} {u : Nat} {w : Nat} (h : Keep m l k s0 s) : Keep m l k s0 (toNext s u w) := by
  unfold toNext
  repeat' with_reducible first
    | assumption
    | refine readyHead_keep ?_
    | refine flowTake_keep ?_
    | refine trace_keep ?_
    | refine updWorker_keep ?_
    | refine keep_ite ?_ (fun _ => ?_)
    | refine keep_of_snd (by assumption) ?_
    | refine keep_of_snd3 (by assumption) ?_
    | refine keep_of_fst (by assumption) ?_
    | split

theorem toServiceBlocking_keep {s : State} {u : Nat} {w : Nat} (h : Keep m l k s0 s) : Keep m l k s0 (toServiceBlocking s u w) := by
  unfold toServiceBlocking
  repeat' with_reducible first
    | assumption
    | refine readyHead_keep ?_
    | refine flowTake_keep ?_
    | refine trace_keep ?_
    | refine updWorker_keep ?_
    | refine keep_ite ?_ (fun _ => ?_)
    | refine keep_of_snd (by assumption) ?_
    | refine keep_of_snd3 (by assumption) ?_
    | refine keep_of_fst (by assumption) ?_
    | split

theorem settle_keep {s : State} {u : Nat} {w : Nat} (h : Keep m l k s0 s) : Keep m l k s0 (settle s u w) := by
  unfold settle
  repeat' with_reducible first
    | assumption
    | refine toNext_keep ?_
    | refine toService_keep ?_
    | refine toServiceBlocking_keep ?_
    | refine keep_ite ?_ (fun _ => ?_)
    | refine keep_of_snd (by assumption) ?_
    | refine keep_of_snd3 (by assumption) ?_
    | refine keep_of_fst (by assumption) ?_
    | split

theorem settleAll_keep {s : State} {u : Nat} (h : Keep m l k s0 s) : Keep m l k s0 (settleAll s u) := by
  unfold settleAll
  repeat' with_reducible first
    | assumption
    | refine settle_keep ?_
    | refine keep_ite ?_ (fun _ => ?_)
    | refine keep_foldl ?_ _ ?_
    | refine keep_foldl_snd ?_ _ ?_
    | intro _

theorem displace_keep {s : State} {u : Nat} {w : Nat} (h : Keep m l k s0 s) : Keep m l k s0 (displace s u w) := by
  unfold displace
  repeat' with_reducible first
    | assumption
    | refine updWorker_keep ?_
    | refine trace_keep ?_
    | refine updReady_keep ?_
    | refine keep_ite ?_ (fun _ => ?_)
    | refine keep_of_snd (by assumption) ?_
    | refine keep_of_snd3 (by assumption) ?_
    | refine keep_of_fst (by assumption) ?_
    | split

theorem joinReady_keep {s : State} {u : Nat} {i : Item} (h : Keep m l k s0 s) : Keep m l k s0 (joinReady s u i) := by
  unfold joinReady
  repeat' with_reducible first
    | assumption
    | refine trace_keep ?_
    | refine updReady_keep ?_
    | refine displace_keep ?_
    | refine settle_keep ?_
    | refine keep_ite ?_ (fun _ => ?_)
    | refine keep_of_snd (by assumption) ?_
    | refine keep_of_snd3 (by assumption) ?_
    | refine keep_of_fst (by assumption) ?_
    | split

theorem enqueue_keep {s : State} {u : Nat} {i : Item} (h : Keep m l k s0 s) : Keep m l k s0 (enqueue s u i) := by
  unfold enqueue
  repeat' with_reducible first
    | assumption
    | refine trace_keep ?_
    | refine stkSet_keep id ?_
    | refine joinReady_keep ?_
    | refine keep_ite ?_ (fun _ => ?_)

theorem flowFree_keep {s : State} {u : Nat} {i : Item} (h : Keep m l k s0 s) : Keep m l k s0 (flowFree s u i) := by
  unfold flowFree
  repeat' with_reducible first
    | assumption
    | refine stkSet_keep id ?_
    | refine joinReady_keep ?_
    | refine keep_ite ?_ (fun _ => ?_)
    | refine keep_of_snd (by assumption) ?_
    | refine keep_of_snd3 (by assumption) ?_
    | refine keep_of_fst (by assumption) ?_
    | intro _
    | split
    | dsimp only

theorem fenceFree_keep {s : State} {u : Nat} {r : Nat} (h : Keep m l k s0 s) : Keep m l k s0 (fenceFree s u r) := by
  unfold fenceFree
  repeat' with_reducible first
    | assumption
    | refine enqueue_keep ?_
    | refine updRing_keep ?_
    | refine keep_ite ?_ (fun _ => ?_)
    | refine keep_of_snd (by assumption) ?_
    | refine keep_of_snd3 (by assumption) ?_
    | refine keep_of_fst (by assumption) ?_
    | split

theorem writeBack_keep {s : State} {u : Nat} {i : Item} {x : Result} (h : Keep m l k s0 s) : Keep m l k s0 (writeBack s u i x) := by
  unfold writeBack
  repeat' with_reducible first
    | assumption
    | refine hostWrite_keep ?_

theorem complete_keep {s : State} {u : Nat} {worker : Nat} {i : Item} {x : Result} (h : Keep m l k s0 s) : Keep m l k s0 (complete s u worker i x) := by
  unfold complete
  repeat' with_reducible first
    | assumption
    | refine trace_keep ?_
    | refine writeBack_keep ?_
    | refine updRing_keep ?_
    | refine hostWrite_keep ?_
    | refine msix_keep ?_
    | refine fenceFree_keep ?_
    | refine flowFree_keep ?_
    | refine keep_ite ?_ (fun _ => ?_)

theorem stkTake_keep {s : State} {p : Nat → Bool} (h : Keep m l k s0 s) : Keep m l k s0 (stkTake s p).1 := by
  unfold stkTake
  dsimp only
  refine stkSet_keep ?_ h
  exact fun w => ⟨w.1, tabWf_readyTake _ w.2.1, (List.length_map _).trans w.2.2⟩

theorem ringForget_keep {s : State} {r : Nat} (h : Keep m l k s0 s) : Keep m l k s0 (ringForget s r) := by
  unfold ringForget
  repeat' with_reducible first
    | assumption
    | refine updRing_keep ?_

theorem ringsDrop_keep {s : State} {u : Nat} {p : Nat → Bool} (h : Keep m l k s0 s) : Keep m l k s0 (ringsDrop s u p) := by
  unfold ringsDrop
  repeat' with_reducible first
    | assumption
    | refine stkTake_keep ?_
    | refine flowFree_keep ?_
    | refine ringHalt_keep ?_
    | refine ringForget_keep ?_
    | refine settleAll_keep ?_
    | refine keep_ite ?_ (fun _ => ?_)
    | refine keep_foldl ?_ _ ?_
    | refine keep_foldl_snd ?_ _ ?_
    | refine keep_of_snd (by assumption) ?_
    | refine keep_of_snd3 (by assumption) ?_
    | refine keep_of_fst (by assumption) ?_
    | intro _

theorem ringsStop_keep {s : State} {u : Nat} {cause : Nat} {p : Nat → Bool} (h : Keep m l k s0 s) : Keep m l k s0 (ringsStop s u cause p) := by
  unfold ringsStop
  repeat' with_reducible first
    | assumption
    | refine stkTake_keep ?_
    | refine trace_keep ?_
    | refine writeBack_keep ?_
    | refine flowFree_keep ?_
    | refine ringHalt_keep ?_
    | refine updRing_keep ?_
    | refine ringForget_keep ?_
    | refine raise_keep ?_
    | refine settleAll_keep ?_
    | refine keep_ite ?_ (fun _ => ?_)
    | refine keep_foldl ?_ _ ?_
    | refine keep_foldl_snd ?_ _ ?_
    | refine keep_of_snd (by assumption) ?_
    | refine keep_of_snd3 (by assumption) ?_
    | refine keep_of_fst (by assumption) ?_
    | intro _

theorem stkMode_keep {s : State} {old : Mode} {new : Mode} (h : Keep m l k s0 s) : Keep m l k s0 (stkMode s old new) := by
  unfold stkMode
  repeat' with_reducible first
    | assumption
    | refine stamp_keep ?_
    | refine ringsStop_keep ?_
    | refine settleAll_keep ?_
    | refine displace_keep ?_
    | refine keep_ite ?_ (fun _ => ?_)
    | refine keep_foldl ?_ _ ?_
    | refine keep_foldl_snd ?_ _ ?_
    | refine keep_of_snd (by assumption) ?_
    | refine keep_of_snd3 (by assumption) ?_
    | refine keep_of_fst (by assumption) ?_
    | intro _

theorem stkReset_keep {s : State} (h : Keep m l k s0 s) : Keep m l k s0 (stkReset s) := by
  unfold stkReset
  repeat' with_reducible first
    | assumption
    | refine stamp_keep ?_
    | refine ringsStop_keep ?_

end Sys2Proof.Machine
end

