-- ==== Sys2Proof/Laws/KeepStoker.lean ====
section
/-!
SUPPORT. What every operation of Machine/Stoker.lean keeps.
-/
namespace Sys2Proof.Machine
set_option Elab.async false

variable {m l k : Bool} {s0 : State}

theorem ringCfgWrite_keep {s : State} {pf : Pf} {r : Nat} {v : Word} (h : Keep m l k s0 s) : Keep m l k s0 (ringCfgWrite s pf r v) := by
  unfold ringCfgWrite
  repeat' with_reducible first
    | assumption
    | refine hostPf0_keep ?_ ?_
    | refine stamp_keep ?_
    | refine ringsStop_keep ?_
    | refine regPut_keep ?_
    | refine updRing_keep ?_
    | refine keep_ite ?_ (fun _ => ?_)
    | refine keep_of_snd (by assumption) ?_
    | refine keep_of_snd3 (by assumption) ?_
    | refine keep_of_fst (by assumption) ?_
    | intro _

theorem execRingEnable_keep {pf : Pf} {ring : Fin 64} {v : Word} {s : State} : KeepO m l k s (execRingEnable pf ring v s) := by
  have h := Keep.refl m l k s
  unfold execRingEnable
  repeat' with_reducible first
    | assumption
    | refine ringCfgWrite_keep ?_
    | refine begin_keep ?_
    | refine keep_ite ?_ (fun _ => ?_)
    | refine keepO_next ?_

theorem execRingDisable_keep {pf : Pf} {ring : Fin 64} {v : Word} {s : State} : KeepO m l k s (execRingDisable pf ring v s) := by
  have h := Keep.refl m l k s
  unfold execRingDisable
  repeat' with_reducible first
    | assumption
    | refine ringCfgWrite_keep ?_
    | refine begin_keep ?_
    | refine keep_ite ?_ (fun _ => ?_)
    | refine keepO_next ?_

theorem execRingPiWrite_keep {pf : Pf} {ring : Fin 64} {v : Word} {s : State} : KeepO m l k s (execRingPiWrite pf ring v s) := by
  have h := Keep.refl m l k s
  unfold execRingPiWrite
  repeat' with_reducible first
    | assumption
    | refine hostAccess_keep ?_ ?_
    | refine begin_keep ?_
    | refine accessErr_keep ?_
    | refine updRing_keep ?_
    | refine ringHalt_keep ?_
    | refine keep_ite ?_ (fun _ => ?_)
    | refine keepO_next ?_
    | refine keepO_ite ?_ ?_
    | intro _

theorem arrive_keep {s : State} {u : Nat} {r : Nat} {b : Billet} (h : Keep m l k s0 s) : Keep m l k s0 (arrive s u r b) := by
  unfold arrive
  repeat' with_reducible first
    | assumption
    | refine freshBelow_keep ?_
    | refine updRing_keep ?_
    | refine stkSet_keep id ?_
    | refine trace_keep ?_
    | refine complete_keep ?_
    | refine enqueue_keep ?_
    | refine keep_ite ?_ (fun _ => ?_)
    | refine keep_of_snd (by assumption) ?_
    | refine keep_of_snd3 (by assumption) ?_
    | refine keep_of_fst (by assumption) ?_
    | intro _
    | split

theorem arriveAll_keep {u r : Nat} : ∀ {bs : List Billet} {s : State}, Keep m l k s0 s → Keep m l k s0 (arriveAll s u r bs)
  | [], _, h => h
  | b :: bs, s, h => by
    unfold arriveAll
    split
    · exact arriveAll_keep (bs := bs) (arrive_keep h)
    · exact h

theorem execBilletFetch_keep {ring : Fin 64} {bs : List Billet} {s : State} : KeepO m l k s (execBilletFetch ring bs s) := by
  have h := Keep.refl m l k s
  unfold execBilletFetch
  repeat' with_reducible first
    | assumption
    | refine stamp_keep ?_
    | refine begin_keep ?_
    | refine arriveAll_keep ?_
    | refine keep_ite ?_ (fun _ => ?_)
    | refine keepO_next ?_

theorem workerDone_keep {s : State} {u : Nat} {w : Nat} (h : Keep m l k s0 s) : Keep m l k s0 (workerDone s u w) := by
  unfold workerDone
  repeat' with_reducible first
    | assumption
    | refine updWorker_keep ?_
    | refine settle_keep ?_
    | refine complete_keep ?_
    | refine keep_ite ?_ (fun _ => ?_)
    | refine keep_of_snd (by assumption) ?_
    | refine keep_of_snd3 (by assumption) ?_
    | refine keep_of_fst (by assumption) ?_
    | split
    | dsimp only

theorem execBilletComplete_keep {w : Fin 12} {s : State} : KeepO m l k s (execBilletComplete w s) := by
  have h := Keep.refl m l k s
  unfold execBilletComplete
  repeat' with_reducible first
    | assumption
    | refine begin_keep ?_
    | refine stamp_keep ?_
    | refine workerDone_keep ?_
    | refine keep_ite ?_ (fun _ => ?_)
    | refine keepO_next ?_
    | refine keepO_ite ?_ ?_

theorem workerResult_keep {s : State} {w : Nat} {x : Result} (h : Keep m l k s0 s) : Keep m l k s0 (workerResult s w x) := by
  unfold workerResult
  repeat' with_reducible first
    | assumption
    | refine updWorker_keep ?_

theorem working_keep {s : State} {w : Nat} {op : Nat} {f : Item → State → State} (hf : ∀ a0 s, Keep m l k s0 s → Keep m l k s0 (f a0 s)) (h : Keep m l k s0 s) : Keep m l k s0 (working s w op f) := by
  unfold working
  repeat' with_reducible first
    | assumption
    | refine hf _ _ ?_
    | refine keep_ite ?_ (fun _ => ?_)
    | refine keep_of_snd (by assumption) ?_
    | refine keep_of_snd3 (by assumption) ?_
    | refine keep_of_fst (by assumption) ?_
    | split
    | dsimp only

theorem execNop_keep {s : State} : KeepO m l k s (execNop s) := by
  have h := Keep.refl m l k s
  unfold execNop
  repeat' with_reducible first
    | assumption
    | refine working_keep ?_ ?_
    | refine begin_keep ?_
    | refine workerResult_keep ?_
    | refine keep_ite ?_ (fun _ => ?_)
    | refine keepO_next ?_
    | refine keepO_ite ?_ ?_
    | intro _

theorem logRead_keep {s : State} {k_1 : Nat} {n : Nat} (h : Keep m l k s0 s) : Keep m l k s0 (logRead s k_1 n).2 := by
  unfold logRead
  repeat' with_reducible first
    | assumption
    | refine rickRead_keep ?_
    | refine keep_ite_snd ?_ (fun _ => ?_)
    | refine keep_ite ?_ (fun _ => ?_)
    | refine keep_of_snd (by assumption) ?_
    | refine keep_of_snd3 (by assumption) ?_
    | refine keep_of_fst (by assumption) ?_
    | split
    | dsimp only

theorem execEvlogRead_keep {s : State} : KeepO m l k s (execEvlogRead s) := by
  have h := Keep.refl m l k s
  unfold execEvlogRead
  repeat' with_reducible first
    | assumption
    | refine working_keep ?_ ?_
    | refine begin_keep ?_
    | refine logRead_keep ?_
    | refine workerResult_keep ?_
    | refine hostWrite_keep ?_
    | refine keep_ite ?_ (fun _ => ?_)
    | refine keepO_next ?_
    | refine keepO_ite ?_ ?_
    | refine keep_of_snd (by assumption) ?_
    | refine keep_of_snd3 (by assumption) ?_
    | refine keep_of_fst (by assumption) ?_
    | intro _
    | split
    | dsimp only

theorem execEthTx_keep {port : Fin 2} {frame : List Byte} {s : State} : KeepO m l k s (execEthTx port frame s) := by
  have h := Keep.refl m l k s
  unfold execEthTx
  repeat' with_reducible first
    | assumption
    | refine working_keep ?_ ?_
    | refine begin_keep ?_
    | refine stamp_keep ?_
    | refine workerResult_keep ?_
    | refine send_keep ?_
    | refine keep_ite ?_ (fun _ => ?_)
    | refine keepO_next ?_
    | refine keepO_ite ?_ ?_
    | refine keep_of_snd (by assumption) ?_
    | refine keep_of_snd3 (by assumption) ?_
    | refine keep_of_fst (by assumption) ?_
    | intro _

theorem execEthRxPost_keep {port : Fin 2} {s : State} : KeepO m l k s (execEthRxPost port s) := by
  have h := Keep.refl m l k s
  unfold execEthRxPost
  repeat' with_reducible first
    | assumption
    | refine working_keep ?_ ?_
    | refine begin_keep ?_
    | refine stamp_keep ?_
    | refine updWorker_keep ?_
    | refine settle_keep ?_
    | refine stkSet_keep id ?_
    | refine keep_ite ?_ (fun _ => ?_)
    | refine keepO_next ?_
    | refine keepO_ite ?_ ?_
    | refine keep_of_snd (by assumption) ?_
    | refine keep_of_snd3 (by assumption) ?_
    | refine keep_of_fst (by assumption) ?_
    | intro _

theorem execEthRxFrame_keep {port : Fin 2} {frame : List Byte} {s : State} : KeepO m l k s (execEthRxFrame port frame s) := by
  have h := Keep.refl m l k s
  unfold execEthRxFrame
  repeat' with_reducible first
    | assumption
    | refine begin_keep ?_
    | refine raise_keep ?_
    | refine regInc_keep ?_
    | refine stamp_keep ?_
    | refine stkSet_keep id ?_
    | refine hostWrite_keep ?_
    | refine complete_keep ?_
    | refine keep_ite ?_ (fun _ => ?_)
    | refine keepO_next ?_
    | refine keepO_ite ?_ ?_
    | refine keep_of_snd (by assumption) ?_
    | refine keep_of_snd3 (by assumption) ?_
    | refine keep_of_fst (by assumption) ?_
    | intro _
    | split

theorem devCopy_keep {s : State} {op : Nat} {wr : Bool} {f : Item → State → State} (hf : ∀ a0 s, Keep m l k s0 s → Keep m l k s0 (f a0 s)) (h : Keep m l k s0 s) : Keep m l k s0 (devCopy s op wr f) := by
  unfold devCopy
  repeat' with_reducible first
    | assumption
    | refine hf _ _ ?_
    | refine working_keep ?_ ?_
    | refine workerResult_keep ?_
    | refine denyAccess_keep ?_
    | refine raise_keep ?_
    | refine keep_ite ?_ (fun _ => ?_)
    | intro _

theorem execMemRead_keep {s : State} : KeepO m l k s (execMemRead s) := by
  have h := Keep.refl m l k s
  unfold execMemRead
  repeat' with_reducible first
    | assumption
    | refine devCopy_keep ?_ ?_
    | refine begin_keep ?_
    | refine workerResult_keep ?_
    | refine hostWrite_keep ?_
    | refine parityRead_keep ?_
    | refine blkRead_keep ?_
    | refine keep_ite ?_ (fun _ => ?_)
    | refine keepO_next ?_
    | refine keepO_ite ?_ ?_
    | refine keep_of_snd (by assumption) ?_
    | refine keep_of_snd3 (by assumption) ?_
    | refine keep_of_fst (by assumption) ?_
    | intro _
    | split

theorem execMemWrite_keep {data : List Byte} {s : State} : KeepO m l k s (execMemWrite data s) := by
  have h := Keep.refl m l k s
  unfold execMemWrite
  repeat' with_reducible first
    | assumption
    | refine devCopy_keep ?_ ?_
    | refine begin_keep ?_
    | refine blkLook_keep ?_
    | refine workerResult_keep ?_
    | refine devWrite_keep ?_
    | refine keep_ite ?_ (fun _ => ?_)
    | refine keepO_next ?_
    | refine keepO_ite ?_ ?_
    | intro _

theorem execPtsRead_keep {s : State} : KeepO m l k s (execPtsRead s) := by
  have h := Keep.refl m l k s
  unfold execPtsRead
  repeat' with_reducible first
    | assumption
    | refine working_keep ?_ ?_
    | refine begin_keep ?_
    | refine hostWrite_keep ?_
    | refine workerResult_keep ?_
    | refine keep_ite ?_ (fun _ => ?_)
    | refine keepO_next ?_
    | refine keepO_ite ?_ ?_
    | intro _
    | refine keep_mk ?_ rfl rfl rfl rfl rfl rfl rfl rfl

theorem execPeekBatch_keep {ids : List (BitVec 16)} {s : State} : KeepO m l k s (execPeekBatch ids s) := by
  have h := Keep.refl m l k s
  unfold execPeekBatch
  repeat' with_reducible first
    | assumption
    | refine working_keep ?_ ?_
    | refine begin_keep ?_
    | refine updWorker_keep ?_
    | refine keep_ite ?_ (fun _ => ?_)
    | refine keepO_next ?_
    | refine keepO_ite ?_ ?_
    | intro _

theorem peekEnd_keep {s : State} (h : Keep m l k s0 s) : Keep m l k s0 (peekEnd s) := by
  unfold peekEnd
  repeat' with_reducible first
    | assumption
    | refine working_keep ?_ ?_
    | refine hostWrite_keep ?_
    | refine workerResult_keep ?_
    | refine keep_ite ?_ (fun _ => ?_)
    | refine keep_of_snd (by assumption) ?_
    | refine keep_of_snd3 (by assumption) ?_
    | refine keep_of_fst (by assumption) ?_
    | intro _

theorem peekBatch_keep {s : State} {evald : Nat → Bool} {cap : Nat → Capture} (h : Keep m l k s0 s) : Keep m l k s0 (peekBatch s evald cap) := by
  unfold peekBatch
  repeat' with_reducible first
    | assumption
    | refine working_keep ?_ ?_
    | refine updWorker_keep ?_
    | refine peekEnd_keep ?_
    | refine keep_ite ?_ (fun _ => ?_)
    | intro _

theorem execPeekBatchTimeout_keep {s : State} : KeepO m l k s (execPeekBatchTimeout s) := by
  have h := Keep.refl m l k s
  unfold execPeekBatchTimeout
  repeat' with_reducible first
    | assumption
    | refine begin_keep ?_
    | refine peekEnd_keep ?_
    | refine keep_ite ?_ (fun _ => ?_)
    | refine keepO_next ?_

theorem execHash_keep {data : List Byte} {s : State} : KeepO m l k s (execHash data s) := by
  have h := Keep.refl m l k s
  unfold execHash
  repeat' with_reducible first
    | assumption
    | refine working_keep ?_ ?_
    | refine begin_keep ?_
    | refine workerResult_keep ?_
    | refine hostWrite_keep ?_
    | refine keep_ite ?_ (fun _ => ?_)
    | refine keepO_next ?_
    | refine keepO_ite ?_ ?_
    | intro _

theorem sec13Clear_keep {s : State} (h : Keep m l k s0 s) : Keep m l k s0 (sec13Clear s) := by
  unfold sec13Clear
  exact ⟨h.queue, fun i => ⟨tabWf_filter _ (h.inv i).1, (h.inv i).2⟩, h.arc, h.mode, h.lock, h.tick⟩

theorem attest_keep {s : State} (h : Keep m l k s0 s) : Keep m l k s0 (attest s) := by
  unfold attest
  repeat' with_reducible first
    | assumption
    | refine working_keep ?_ ?_
    | refine workerResult_keep ?_
    | refine devAsk_keep ?_
    | refine stamp_keep ?_
    | refine recNow_keep ?_
    | refine sec13Clear_keep ?_
    | refine hostWrite_keep ?_
    | refine raise_keep ?_
    | refine keep_ite ?_ (fun _ => ?_)
    | refine keep_of_snd (by assumption) ?_
    | refine keep_of_snd3 (by assumption) ?_
    | refine keep_of_fst (by assumption) ?_
    | intro _
    | split
    | dsimp only
    | refine keep_mk ?_ rfl rfl rfl rfl rfl rfl rfl rfl

theorem execAttest_keep {s : State} : KeepO m l k s (execAttest s) := by
  have h := Keep.refl m l k s
  unfold execAttest
  repeat' with_reducible first
    | assumption
    | refine attest_keep ?_
    | refine begin_keep ?_
    | refine keep_ite ?_ (fun _ => ?_)
    | refine keepO_next ?_

theorem execTraceRead_keep {s : State} : KeepO m l k s (execTraceRead s) := by
  have h := Keep.refl m l k s
  unfold execTraceRead
  repeat' with_reducible first
    | assumption
    | refine working_keep ?_ ?_
    | refine begin_keep ?_
    | refine workerResult_keep ?_
    | refine hostWrite_keep ?_
    | refine keep_ite ?_ (fun _ => ?_)
    | refine keepO_next ?_
    | refine keepO_ite ?_ ?_
    | intro _

theorem traceClear_keep {s : State} (h : Keep m l k s0 s) : Keep m l k s0 (traceClear s) := by
  unfold traceClear
  repeat' with_reducible first
    | assumption
    | refine stkSet_keep id ?_

theorem execTraceClear_keep {pf : Pf} {v : Word} {s : State} : KeepO m l k s (execTraceClear pf v s) := by
  have h := Keep.refl m l k s
  unfold execTraceClear
  repeat' with_reducible first
    | assumption
    | refine hostPf0_keep ?_ ?_
    | refine begin_keep ?_
    | refine regPut_keep ?_
    | refine traceClear_keep ?_
    | refine keep_ite ?_ (fun _ => ?_)
    | refine keepO_next ?_
    | refine keepO_ite ?_ ?_
    | intro _

end Sys2Proof.Machine
end

