-- ==== Sys2Proof/Laws/KeepSlots.lean ====
section
/-!
SUPPORT. What every operation of Machine/Slots.lean keeps.
-/
namespace Sys2Proof.Machine
set_option Elab.async false

variable {m l k : Bool} {s0 : State}

theorem secSet_keep {s : State} {f : Sec → Sec} (h : Keep m l k s0 s) : Keep m l k s0 (secSet s f) := by
  unfold secSet
  repeat' with_reducible first
    | assumption
    | refine keep_ite ?_ (fun _ => ?_)
    | refine keep_mk ?_ rfl rfl rfl rfl rfl rfl rfl rfl

theorem imgSet_keep {s : State} {f : FabImg → FabImg} (h : Keep m l k s0 s) : Keep m l k s0 (imgSet s f) := by
  unfold imgSet
  repeat' with_reducible first
    | assumption
    | refine keep_ite ?_ (fun _ => ?_)
    | refine keep_mk ?_ rfl rfl rfl rfl rfl rfl rfl rfl

theorem imgSlotPut_keep {s : State} {k_1 : Nat} {x : ImgSlot} (h : Keep m l k s0 s) : Keep m l k s0 (imgSlotPut s k_1 x) := by
  unfold imgSlotPut
  repeat' with_reducible first
    | assumption
    | refine slotChanged_keep ?_
    | refine peatWrite_keep ?_ ?_
    | refine keep_ite ?_ (fun _ => ?_)
    | rfl

theorem loadLines_keep {s : State} {k_1 : Nat} {len : Nat} (h : Keep m l k s0 s) : Keep m l k s0 (loadLines s k_1 len) := by
  exact peatSet_keep (peatJob_arc _ _) h

theorem loadOver_keep {s : State} (h : Keep m l k s0 s) : Keep m l k s0 (loadOver s) := by
  exact peatSet_keep (peatDrop_arc _ _) h

theorem imgStatus_keep {s : State} {st : Nat} (h : Keep m l k s0 s) : Keep m l k s0 (imgStatus s st) := by
  unfold imgStatus
  repeat' with_reducible first
    | assumption
    | refine secSet_keep ?_

theorem imgIdle_keep {s : State} {st : Nat} (h : Keep m l k s0 s) : Keep m l k s0 (imgIdle s st) := by
  unfold imgIdle
  repeat' with_reducible first
    | assumption
    | refine msix_keep ?_
    | refine secSet_keep ?_
    | refine loadOver_keep ?_
    | refine stamp_keep ?_
    | refine settle_keep ?_

theorem imgCtl_keep {s : State} {pf : Pf} {key : BitVec 16} {f : State → State} (hf : ∀ s, Keep m l k s0 s → Keep m l k s0 (f s)) (h : Keep m l k s0 s) : Keep m l k s0 (imgCtl s pf key f) := by
  unfold imgCtl
  repeat' with_reducible first
    | assumption
    | refine hf _ ?_
    | refine hostPf0_keep ?_ ?_
    | refine imgStatus_keep ?_
    | refine keep_ite ?_ (fun _ => ?_)
    | intro _

theorem imgStart_keep {s : State} {slot : Nat} {f : State → State} (hf : ∀ s, Keep m l k s0 s → Keep m l k s0 (f s)) (h : Keep m l k s0 s) : Keep m l k s0 (imgStart s slot f) := by
  unfold imgStart
  repeat' with_reducible first
    | assumption
    | refine hf _ ?_
    | refine imgStatus_keep ?_
    | refine secSet_keep ?_
    | refine keep_ite ?_ (fun _ => ?_)

theorem execImgLoad_keep {pf : Pf} {key : BitVec 16} {slot : Fin 2} {s : State} : KeepO m l k s (execImgLoad pf key slot s) := by
  have h := Keep.refl m l k s
  unfold execImgLoad
  repeat' with_reducible first
    | assumption
    | refine imgCtl_keep ?_ ?_
    | refine begin_keep ?_
    | refine imgStart_keep ?_ ?_
    | refine imgStatus_keep ?_
    | refine secSet_keep ?_
    | refine loadLines_keep ?_
    | refine imgSlotPut_keep ?_
    | refine keep_ite ?_ (fun _ => ?_)
    | refine keepO_next ?_
    | refine keepO_ite ?_ ?_
    | intro _

theorem loadTick_keep {s : State} (h : Keep m l k s0 s) : Keep m l k s0 (loadTick s) := by
  unfold loadTick
  repeat' with_reducible first
    | assumption
    | refine freshBelow_keep ?_
    | refine secSet_keep ?_
    | refine keep_ite ?_ (fun _ => ?_)

theorem loadFail_keep {s : State} (h : Keep m l k s0 s) : Keep m l k s0 (loadFail s) := by
  unfold loadFail
  repeat' with_reducible first
    | assumption
    | refine imgIdle_keep ?_
    | refine keep_ite ?_ (fun _ => ?_)

theorem dmaLost_keep {s : State} (h : Keep m l k s0 s) : Keep m l k s0 (dmaLost s) := by
  unfold dmaLost
  repeat' with_reducible first
    | assumption
    | refine raise_keep ?_

theorem secUse_keep {s : State} {no : Nat → State → State} {f : State → State} (hno : ∀ a0 s, Keep m l k s0 s → Keep m l k s0 (no a0 s)) (hf : ∀ s, Keep m l k s0 s → Keep m l k s0 (f s)) (h : Keep m l k s0 s) : Keep m l k s0 (secUse s no f) := by
  unfold secUse
  repeat' with_reducible first
    | assumption
    | refine hno _ _ ?_
    | refine hf _ ?_
    | refine devAsk_keep ?_
    | refine sec13Clear_keep ?_
    | refine keep_ite ?_ (fun _ => ?_)

theorem execImgLoadDone_keep {dmaOk : Bool} {bytes : List Byte} {s : State} : KeepO m l k s (execImgLoadDone dmaOk bytes s) := by
  have h := Keep.refl m l k s
  unfold execImgLoadDone
  repeat' with_reducible first
    | assumption
    | refine begin_keep ?_
    | refine dmaLost_keep ?_
    | refine loadFail_keep ?_
    | refine secUse_keep ?_ ?_ ?_
    | refine secSet_keep ?_
    | refine imgIdle_keep ?_
    | refine imgSlotPut_keep ?_
    | refine keep_ite ?_ (fun _ => ?_)
    | refine keepO_next ?_
    | refine keepO_ite ?_ ?_
    | intro _

theorem execImgErase_keep {pf : Pf} {key : BitVec 16} {slot : Fin 2} {s : State} : KeepO m l k s (execImgErase pf key slot s) := by
  have h := Keep.refl m l k s
  unfold execImgErase
  repeat' with_reducible first
    | assumption
    | refine imgCtl_keep ?_ ?_
    | refine begin_keep ?_
    | refine imgStart_keep ?_ ?_
    | refine imgStatus_keep ?_
    | refine secSet_keep ?_
    | refine loadLines_keep ?_
    | refine imgSlotPut_keep ?_
    | refine keep_ite ?_ (fun _ => ?_)
    | refine keepO_next ?_
    | refine keepO_ite ?_ ?_
    | intro _

theorem execImgEraseDone_keep {s : State} : KeepO m l k s (execImgEraseDone s) := by
  have h := Keep.refl m l k s
  unfold execImgEraseDone
  repeat' with_reducible first
    | assumption
    | refine begin_keep ?_
    | refine imgIdle_keep ?_
    | refine keep_ite ?_ (fun _ => ?_)
    | refine keepO_next ?_

theorem imgAbort_keep {s : State} (h : Keep m l k s0 s) : Keep m l k s0 (imgAbort s) := by
  unfold imgAbort
  repeat' with_reducible first
    | assumption
    | refine imgIdle_keep ?_
    | refine keep_ite ?_ (fun _ => ?_)

theorem execImgAbort_keep {pf : Pf} {key : BitVec 16} {s : State} : KeepO m l k s (execImgAbort pf key s) := by
  have h := Keep.refl m l k s
  unfold execImgAbort
  repeat' with_reducible first
    | assumption
    | refine imgCtl_keep ?_ ?_
    | refine begin_keep ?_
    | refine imgAbort_keep ?_
    | refine keep_ite ?_ (fun _ => ?_)
    | refine keepO_next ?_
    | refine keepO_ite ?_ ?_
    | intro _

theorem execImgBootNext_keep {pf : Pf} {key : BitVec 16} {slot : Fin 2} {s : State} : KeepO m l k s (execImgBootNext pf key slot s) := by
  have h := Keep.refl m l k s
  unfold execImgBootNext
  repeat' with_reducible first
    | assumption
    | refine imgCtl_keep ?_ ?_
    | refine begin_keep ?_
    | refine imgStart_keep ?_ ?_
    | refine imgStatus_keep ?_
    | refine peatWrite_keep ?_ ?_
    | refine keep_ite ?_ (fun _ => ?_)
    | refine keepO_next ?_
    | refine keepO_ite ?_ ?_
    | rfl
    | intro _

theorem fabStatus_keep {s : State} {st : Nat} (h : Keep m l k s0 s) : Keep m l k s0 (fabStatus s st) := by
  unfold fabStatus
  repeat' with_reducible first
    | assumption
    | refine imgSet_keep ?_

theorem fabCtl_keep {s : State} {pf : Pf} {key : BitVec 16} {f : State → State} (hf : ∀ s, Keep m l k s0 s → Keep m l k s0 (f s)) (h : Keep m l k s0 s) : Keep m l k s0 (fabCtl s pf key f) := by
  unfold fabCtl
  repeat' with_reducible first
    | assumption
    | refine hf _ ?_
    | refine hostPf0_keep ?_ ?_
    | refine fabStatus_keep ?_
    | refine keep_ite ?_ (fun _ => ?_)
    | intro _

theorem execImgStage_keep {pf : Pf} {key : BitVec 16} {slot : Fin 2} {s : State} : KeepO m l k s (execImgStage pf key slot s) := by
  have h := Keep.refl m l k s
  unfold execImgStage
  repeat' with_reducible first
    | assumption
    | refine fabCtl_keep ?_ ?_
    | refine begin_keep ?_
    | refine fabStatus_keep ?_
    | refine slotChanged_keep ?_
    | refine imgSet_keep ?_
    | refine keep_ite ?_ (fun _ => ?_)
    | refine keepO_next ?_
    | refine keepO_ite ?_ ?_
    | intro _

theorem execImgStageDone_keep {s : State} : KeepO m l k s (execImgStageDone s) := by
  have h := Keep.refl m l k s
  unfold execImgStageDone
  repeat' with_reducible first
    | assumption
    | refine begin_keep ?_
    | refine slotChanged_keep ?_
    | refine imgSet_keep ?_
    | refine keep_ite ?_ (fun _ => ?_)
    | refine keepO_next ?_
    | refine keepO_ite ?_ ?_

theorem execImgUnstage_keep {pf : Pf} {key : BitVec 16} {s : State} : KeepO m l k s (execImgUnstage pf key s) := by
  have h := Keep.refl m l k s
  unfold execImgUnstage
  repeat' with_reducible first
    | assumption
    | refine fabCtl_keep ?_ ?_
    | refine begin_keep ?_
    | refine fabStatus_keep ?_
    | refine slotChanged_keep ?_
    | refine imgSet_keep ?_
    | refine keep_ite ?_ (fun _ => ?_)
    | refine keepO_next ?_
    | refine keepO_ite ?_ ?_
    | intro _

theorem commitEntries_keep {s : State} {outcome : Nat} {slot : Nat} {new : Option Image} {n : Nat × Nat × Nat} (h : Keep m l k s0 s) : Keep m l k s0 (commitEntries s outcome slot new n) := by
  unfold commitEntries
  repeat' with_reducible first
    | assumption
    | refine logBound_keep ?_

theorem commitLog_keep {s : State} {outcome : Nat} (h : Keep m l k s0 s) : Keep m l k s0 (commitLog s outcome) := by
  unfold commitLog
  repeat' with_reducible first
    | assumption
    | refine commitEntries_keep ?_

theorem commitRefuse_keep {s : State} {st : Nat} (h : Keep m l k s0 s) : Keep m l k s0 (commitRefuse s st) := by
  unfold commitRefuse
  repeat' with_reducible first
    | assumption
    | refine fabStatus_keep ?_
    | refine commitLog_keep ?_

theorem execImgCommit_keep {pf : Pf} {key : BitVec 16} {solo : Bool} {s : State} : KeepO m l k s (execImgCommit pf key solo s) := by
  have h := Keep.refl m l k s
  unfold execImgCommit
  repeat' with_reducible first
    | assumption
    | refine fabCtl_keep ?_ ?_
    | refine begin_keep ?_
    | refine commitRefuse_keep ?_
    | refine imgSet_keep ?_
    | refine keep_ite ?_ (fun _ => ?_)
    | refine keepO_next ?_
    | refine keepO_ite ?_ ?_
    | intro _

theorem arcRaise_keep {s : State} {n : Nat} {v : Nat} (h : Keep m l k s0 s) : Keep m l k s0 (arcRaise s n v) := by
  unfold arcRaise
  split
  · next hv => exact recNow_keep (keep_peat h (arcPut_le hv))
  · exact h

theorem execImgConfirm_keep {pf : Pf} {key : BitVec 16} {s : State} : KeepO m l k s (execImgConfirm pf key s) := by
  have h := Keep.refl m l k s
  unfold execImgConfirm
  repeat' with_reducible first
    | assumption
    | refine fabCtl_keep ?_ ?_
    | refine begin_keep ?_
    | refine fabStatus_keep ?_
    | refine peatWrite_keep ?_ ?_
    | refine arcRaise_keep ?_
    | refine keep_ite ?_ (fun _ => ?_)
    | refine keepO_next ?_
    | refine keepO_ite ?_ ?_
    | rfl
    | refine keep_of_snd (by assumption) ?_
    | refine keep_of_snd3 (by assumption) ?_
    | refine keep_of_fst (by assumption) ?_
    | intro _
    | split

end Sys2Proof.Machine
end

