-- ==== Sys2Proof/Laws/KeepCommit.lean ====
section
/-!
SUPPORT. What every operation of Machine/Commit.lean keeps.
-/
namespace Sys2Proof.Machine
set_option Elab.async false

variable {m l k : Bool} {s0 : State}

theorem partnerReady_keep {s : State} {new : Image} (h : Keep m l k s0 s) : Keep m l k s0 (partnerReady s new).2 := by
  unfold partnerReady
  repeat' with_reducible first
    | assumption
    | refine freshBelow_keep ?_
    | refine keep_ite_snd ?_ (fun _ => ?_)
    | refine keep_ite ?_ (fun _ => ?_)
    | refine keep_of_snd (by assumption) ?_
    | refine keep_of_snd3 (by assumption) ?_
    | refine keep_of_fst (by assumption) ?_
    | split

theorem commitCheck_keep {s : State} {solo : Bool} {sw : Bool} (h : Keep m l k s0 s) : Keep m l k s0 (commitCheck s solo sw).2 := by
  unfold commitCheck
  repeat' with_reducible first
    | assumption
    | refine partnerReady_keep ?_
    | refine keep_ite_snd ?_ (fun _ => ?_)
    | refine keep_ite ?_ (fun _ => ?_)
    | refine keep_of_snd (by assumption) ?_
    | refine keep_of_snd3 (by assumption) ?_
    | refine keep_of_fst (by assumption) ?_
    | split

theorem mapClear_keep {s : State} {a : Nat} (h : Keep m l k s0 s) : Keep m l k s0 (mapClear s a) := by
  unfold mapClear
  repeat' with_reducible first
    | assumption
    | refine raise_keep ?_
    | refine keep_ite ?_ (fun _ => ?_)
    | refine keep_mk ?_ rfl rfl rfl rfl rfl rfl rfl rfl

theorem mapArms_keep {s : State} (h : Keep m l k s0 s) : Keep m l k s0 (mapArms s) := by
  unfold mapArms
  repeat' with_reducible first
    | assumption
    | refine peatWrite_keep ?_ ?_
    | refine mapClear_keep ?_
    | refine keep_ite ?_ (fun _ => ?_)
    | refine keep_foldl ?_ _ ?_
    | refine keep_foldl_snd ?_ _ ?_
    | rfl
    | intro _

theorem redFollow_keep {s : State} (h : Keep m l k s0 s) : Keep m l k s0 (redFollow s) := by
  unfold redFollow
  repeat' with_reducible first
    | assumption
    | refine redSet_keep ?_
    | refine redGo_keep ?_
    | refine raise_keep ?_
    | refine regInc_keep ?_
    | refine keep_ite ?_ (fun _ => ?_)
    | refine keep_of_snd (by assumption) ?_
    | refine keep_of_snd3 (by assumption) ?_
    | refine keep_of_fst (by assumption) ?_
    | split

theorem sectsFollow_keep {s : State} {old : Image} (h : Keep m l k s0 s) : Keep m l k s0 (sectsFollow s old) := by
  unfold sectsFollow
  repeat' with_reducible first
    | assumption
    | refine domsEval_keep ?_
    | refine timLoad_keep ?_
    | refine mapArms_keep ?_
    | refine crdStart_keep ?_
    | refine chSrcImage_keep ?_
    | refine chainsNew_keep ?_
    | refine redFollow_keep ?_
    | refine fioEval_keep ?_
    | refine keep_ite ?_ (fun _ => ?_)
    | refine keep_mk ?_ rfl rfl rfl rfl rfl rfl rfl rfl

theorem imageFollow_keep {s : State} {old : Image} (h : Keep m l k s0 s) : Keep m l k s0 (imageFollow s old) := by
  unfold imageFollow
  repeat' with_reducible first
    | assumption
    | refine sectsFollow_keep ?_
    | refine fltLoad_keep ?_
    | refine keep_ite ?_ (fun _ => ?_)

theorem commitFollow_keep {s : State} {old : Image} (h : Keep m l k s0 s) : Keep m l k s0 (commitFollow s old) := by
  unfold commitFollow
  repeat' with_reducible first
    | assumption
    | refine sectsFollow_keep ?_
    | refine fltLoad_keep ?_

theorem commitMake_keep {s : State} (h : Keep m l k s0 s) : Keep m l k s0 (commitMake s) := by
  unfold commitMake
  repeat' with_reducible first
    | assumption
    | refine imgSet_keep ?_
    | refine peatWrite_keep ?_ ?_
    | refine secSet_keep ?_
    | refine slotChanged_keep ?_
    | refine commitFollow_keep ?_
    | refine keep_ite ?_ (fun _ => ?_)
    | rfl
    | refine keep_of_snd (by assumption) ?_
    | refine keep_of_snd3 (by assumption) ?_
    | refine keep_of_fst (by assumption) ?_
    | intro _
    | split
    | dsimp only
    | refine keep_mk ?_ rfl rfl rfl rfl rfl rfl rfl rfl

theorem commitEnd_keep {s : State} {outcome : Nat} (h : Keep m l k s0 s) : Keep m l k s0 (commitEnd s outcome) := by
  unfold commitEnd
  repeat' with_reducible first
    | assumption
    | refine commitLog_keep ?_
    | refine imgSet_keep ?_
    | refine commitMake_keep ?_
    | refine keep_ite ?_ (fun _ => ?_)

theorem hostCommitEnd_keep {s : State} {outcome : Nat} (h : Keep m l k s0 s) : Keep m l k s0 (hostCommitEnd s outcome) := by
  unfold hostCommitEnd
  repeat' with_reducible first
    | assumption
    | refine commitEnd_keep ?_
    | refine keep_ite ?_ (fun _ => ?_)

theorem stageDrop_keep {s : State} (h : Keep m l k s0 s) : Keep m l k s0 (stageDrop s) := by
  unfold stageDrop
  repeat' with_reducible first
    | assumption
    | refine slotChanged_keep ?_
    | refine imgSet_keep ?_
    | refine hostCommitEnd_keep ?_
    | refine keep_ite ?_ (fun _ => ?_)

theorem commitJudge_keep {s : State} {solo : Bool} {abandon : Bool} (h : Keep m l k s0 s) : Keep m l k s0 (commitJudge s solo abandon).2 := by
  unfold commitJudge
  repeat' with_reducible first
    | assumption
    | refine commitCheck_keep ?_
    | refine keep_ite_snd ?_ (fun _ => ?_)

theorem bankedCommit_keep {s : State} {k_1 : Nat} (h : Keep m l k s0 s) : Keep m l k s0 (bankedCommit s k_1) := by
  unfold bankedCommit
  repeat' with_reducible first
    | assumption
    | refine commitEntries_keep ?_
    | refine imgSet_keep ?_
    | refine peatWrite_keep ?_ ?_
    | refine secSet_keep ?_
    | refine slotChanged_keep ?_
    | refine redSet_keep ?_
    | refine commitFollow_keep ?_
    | refine keep_ite ?_ (fun _ => ?_)
    | rfl

theorem partnerCommit_keep {s : State} {abandon : Bool} (h : Keep m l k s0 s) : Keep m l k s0 (partnerCommit s abandon) := by
  unfold partnerCommit
  repeat' with_reducible first
    | assumption
    | refine bankedCommit_keep ?_
    | refine commitJudge_keep ?_
    | refine commitEnd_keep ?_
    | refine keep_ite ?_ (fun _ => ?_)

end Sys2Proof.Machine
end

