-- ==== Sys2Proof/Laws/KeepModes.lean ====
section
/-!
SUPPORT. What every operation of Machine/Modes.lean keeps.
-/
namespace Sys2Proof.Machine
set_option Elab.async false

variable {m l k : Bool} {s0 : State}

theorem ricks_map {p : List Nat} {f : Nat → Nat} (hf : f 12 = 2 ∧ f 14 = 2 ∧ f 15 = 2) (_ : Ricks.wf p = true) :
    Ricks.wf ((List.range 16).map f) = true := by
  simp only [Ricks.wf, List.all_cons, List.all_nil, nth]
  have e : List.range 16 = [0, 1, 2, 3, 4, 5, 6, 7, 8, 9, 10, 11, 12, 13, 14, 15] := by decide
  rw [e]
  simp [hf.1, hf.2.1, hf.2.2]

/-- The controller changes where the mode is not looked at. -/
theorem sysSet_mode_keep {s : State} {f : Sys → Sys} (h : Keep false l k s0 s) (h1 : (f s.sys).tickCnt = s.sys.tickCnt)
    (h2 : (f s.sys).bound = s.sys.bound) : Keep false l k s0 (sysSet s f) := keep_mode h h1 h2

/-- The mode becomes MD_10. -/
theorem sysSet_md10_keep {s : State} {f : Sys → Sys} (h : Keep m l k s0 s) (hm : (f s.sys).mode = .md10)
    (h1 : (f s.sys).tickCnt = s.sys.tickCnt) (h2 : (f s.sys).bound = s.sys.bound) : Keep m l k s0 (sysSet s f) :=
  keep_md10 h hm h1 h2

theorem sysSet_keep {s : State} {f : Sys → Sys} (hf : (f s.sys).mode = s.sys.mode ∧ (f s.sys).tickCnt = s.sys.tickCnt ∧ (f s.sys).bound = s.sys.bound) (h : Keep m l k s0 s) : Keep m l k s0 (sysSet s f) := by
  unfold sysSet
  exact keep_mk h hf.1 hf.2.1 hf.2.2 rfl rfl rfl rfl rfl

theorem reqStatus_keep {s : State} {r : Req} {st : Nat} (h : Keep m l k s0 s) : Keep m l k s0 (reqStatus s r st) := by
  unfold reqStatus
  repeat' with_reducible first
    | assumption
    | refine sysSet_keep ?_ ?_
    | refine logNow_keep ?_
    | refine keep_ite ?_ (fun _ => ?_)
    | exact ⟨rfl, rfl, rfl⟩
    | refine keep_of_snd (by assumption) ?_
    | refine keep_of_snd3 (by assumption) ?_
    | refine keep_of_fst (by assumption) ?_
    | intro _
    | split
    | dsimp only
    | refine keep_mk ?_ rfl rfl rfl rfl rfl rfl rfl rfl

theorem liveEnd_keep {s : State} {st : Nat} (h : Keep m l k s0 s) : Keep m l k s0 (liveEnd s st) := by
  unfold liveEnd
  repeat' with_reducible first
    | assumption
    | refine reqStatus_keep ?_
    | refine sysSet_keep ?_ ?_
    | refine keep_ite ?_ (fun _ => ?_)
    | exact ⟨rfl, rfl, rfl⟩
    | refine keep_of_snd (by assumption) ?_
    | refine keep_of_snd3 (by assumption) ?_
    | refine keep_of_fst (by assumption) ?_
    | intro _
    | split

theorem transDone_keep {s : State} (h : Keep m l k s0 s) : Keep m l k s0 (transDone s) := by
  unfold transDone
  repeat' with_reducible first
    | assumption
    | refine liveEnd_keep ?_
    | refine sysSet_keep ?_ ?_
    | refine keep_ite ?_ (fun _ => ?_)
    | exact ⟨rfl, rfl, rfl⟩

theorem transAbandon_keep {s : State} (h : Keep m l k s0 s) : Keep m l k s0 (transAbandon s) := by
  unfold transAbandon
  repeat' with_reducible first
    | assumption
    | refine liveEnd_keep ?_
    | refine sysSet_keep ?_ ?_
    | refine keep_ite ?_ (fun _ => ?_)
    | exact ⟨rfl, rfl, rfl⟩
    | intro _
    | refine keep_mk ?_ rfl rfl rfl rfl rfl rfl rfl rfl

theorem regsBank_keep {s : State} (h : Keep m l k s0 s) : Keep m l k s0 (regsBank s) := by
  unfold regsBank
  exact ⟨h.queue, fun i => ⟨(h.inv i).1, tabWf_regsFrst_foldl _ _ (h.inv i).2.1, (h.inv i).2.2⟩, h.arc, h.mode, h.lock, h.tick⟩

theorem memBank_keep {s : State} (h : Keep m l k s0 s) : Keep m l k s0 (memBank s) := by
  refine ⟨h.queue, fun i => ⟨tabWf_filter _ (h.inv i).1, (h.inv i).2.1, (h.inv i).2.2.1, ricks_map ?_ (h.inv i).2.2.2.1, (h.inv i).2.2.2.2⟩, h.arc, h.mode, h.lock, h.tick⟩
  have r := (h.inv i).2.2.2.1
  simp only [Ricks.wf, List.all_cons, List.all_nil, Bool.and_eq_true, decide_eq_true_eq] at r
  simpa using ⟨r.2.1, r.2.2.1, r.2.2.2.1⟩

theorem memWake_keep {s : State} (h : Keep m l k s0 s) : Keep m l k s0 (memWake s) := by
  refine ⟨h.queue, fun i => ⟨(h.inv i).1, (h.inv i).2.1, (h.inv i).2.2.1, ricks_map ?_ (h.inv i).2.2.2.1, (h.inv i).2.2.2.2⟩, h.arc, h.mode, h.lock, h.tick⟩
  have r := (h.inv i).2.2.2.1
  simp only [Ricks.wf, List.all_cons, List.all_nil, Bool.and_eq_true, decide_eq_true_eq] at r
  simpa using ⟨r.2.1, r.2.2.1, r.2.2.2.1⟩

theorem bankDown_keep {s : State} (h : Keep m l k s0 s) : Keep m l k s0 (bankDown s) := by
  unfold bankDown
  repeat' with_reducible first
    | assumption
    | refine recOff_keep ?_
    | refine imgAbort_keep ?_
    | refine crdSleep_keep ?_
    | refine portOff_keep ?_
    | refine fltReset_keep ?_
    | refine adcReset_keep ?_
    | refine stageDrop_keep ?_
    | refine fioReset_keep ?_
    | refine regsBank_keep ?_
    | refine memBank_keep ?_
    | refine keep_ite ?_ (fun _ => ?_)
    | refine keep_mk ?_ rfl rfl rfl rfl rfl rfl rfl rfl

theorem planeImage_keep {s : State} (h : Keep m l k s0 s) : Keep m l k s0 (planeImage s).2 := by
  unfold planeImage
  repeat' with_reducible first
    | assumption
    | refine planeRead_keep ?_

theorem bankUp_keep {s : State} (h : Keep m l k s0 s) : Keep m l k s0 (bankUp s) := by
  unfold bankUp
  repeat' with_reducible first
    | assumption
    | refine planeImage_keep ?_
    | refine sectsFollow_keep ?_
    | refine memWake_keep ?_
    | refine chSrcImage_keep ?_
    | refine fltLoad_keep ?_
    | refine keep_ite ?_ (fun _ => ?_)
    | refine keep_of_snd (by assumption) ?_
    | refine keep_of_snd3 (by assumption) ?_
    | refine keep_of_fst (by assumption) ?_
    | split
    | dsimp only
    | refine keep_mk ?_ rfl rfl rfl rfl rfl rfl rfl rfl

theorem modeHooks_keep {s : State} {old : Mode} {new : Mode} {claim : Bool} {wait : Bool} (h : Keep m l k s0 s) : Keep m l k s0 (modeHooks s old new claim wait) := by
  unfold modeHooks
  repeat' with_reducible first
    | assumption
    | refine rdlClose_keep ?_
    | refine rdlGo_keep ?_
    | refine preGoes_keep ?_
    | refine swgWait_keep ?_
    | refine rdlBoth_keep ?_
    | refine bankUp_keep ?_
    | refine crdMode_keep ?_
    | refine adcStart_keep ?_
    | refine fioStart_keep ?_
    | refine redSet_keep ?_
    | refine chSrcImage_keep ?_
    | refine stkMode_keep ?_
    | refine planeCopyWrite_keep ?_
    | refine bankDown_keep ?_
    | refine tpcFollow_keep ?_
    | refine portSettle_keep ?_
    | refine fioEval_keep ?_
    | refine domsEval_keep ?_
    | refine keep_ite ?_ (fun _ => ?_)
    | refine keep_mk ?_ rfl rfl rfl rfl rfl rfl rfl rfl

theorem releaseDue_keep {s : State} {cause : Nat} (h : Keep m l k s0 s) : Keep m l k s0 (releaseDue s cause) := by
  unfold releaseDue
  repeat' with_reducible first
    | assumption
    | refine snapCapture_keep ?_
    | refine sysSet_keep ?_ ?_
    | refine keep_ite ?_ (fun _ => ?_)
    | exact ⟨rfl, rfl, rfl⟩

theorem modeEnter_keep {s : State} {new : Mode} {cause : Nat} {claim : Bool} {rel : Option Nat} (h : Keep false l k s0 s) :
    Keep false l k s0 (modeEnter s new cause claim rel) := by
  unfold modeEnter
  cases rel
  · exact modeHooks_keep (sysSet_mode_keep h rfl rfl)
  · exact modeHooks_keep (sysSet_mode_keep (releaseDue_keep h) rfl rfl)

/-- An entry to MD_10 keeps what the others do, and the mode is MD_10. -/
theorem modeEnter_md10_keep {s : State} {cause : Nat} {claim : Bool} (h : Keep m l k s0 s) :
    Keep m l k s0 (modeEnter s .md10 cause claim none) :=
  modeHooks_keep (sysSet_md10_keep h rfl rfl rfl)

theorem transLog_keep {s : State} {cur : Mode} {cause : Nat} (h : Keep m l k s0 s) : Keep m l k s0 (transLog s cur cause) := by
  unfold transLog
  repeat' with_reducible first
    | assumption
    | refine logBound_keep ?_

theorem stopEnd_keep {s : State} {forced : Bool} (h : Keep false l k s0 s) : Keep false l k s0 (stopEnd s forced) := by
  unfold stopEnd
  repeat' with_reducible first
    | assumption
    | refine logBound_keep ?_
    | refine transDone_keep ?_
    | refine modeEnter_keep ?_
    | refine keep_ite ?_ (fun _ => ?_)

theorem reqHold_keep {s : State} {r : Req} (h : Keep m l k s0 s) : Keep m l k s0 (reqHold s r) := by
  unfold reqHold
  repeat' with_reducible first
    | assumption
    | refine reqStatus_keep ?_
    | refine sysSet_keep ?_ ?_
    | refine keep_ite ?_ (fun _ => ?_)
    | exact ⟨rfl, rfl, rfl⟩
    | refine keep_of_snd (by assumption) ?_
    | refine keep_of_snd3 (by assumption) ?_
    | refine keep_of_fst (by assumption) ?_
    | intro _
    | split

theorem reqSubmit_keep {s : State} {r : Req} (h : Keep m l k s0 s) : Keep m l k s0 (reqSubmit s r) := by
  unfold reqSubmit
  repeat' with_reducible first
    | assumption
    | refine reqStatus_keep ?_
    | refine reqHold_keep ?_
    | refine sysSet_keep ?_ ?_
    | refine keep_ite ?_ (fun _ => ?_)
    | refine keep_foldl ?_ _ ?_
    | refine keep_foldl_snd ?_ _ ?_
    | exact ⟨rfl, rfl, rfl⟩
    | intro _

theorem execModeRequest_keep {pf : Pf} {v : Word} {s : State} : KeepO m l k s (execModeRequest pf v s) := by
  have h := Keep.refl m l k s
  unfold execModeRequest
  repeat' with_reducible first
    | assumption
    | refine hostAccess_keep ?_ ?_
    | refine begin_keep ?_
    | refine sysSet_keep ?_ ?_
    | refine reqStatus_keep ?_
    | refine accessErr_keep ?_
    | refine reqSubmit_keep ?_
    | refine keep_ite ?_ (fun _ => ?_)
    | refine keepO_next ?_
    | refine keepO_ite ?_ ?_
    | exact ⟨rfl, rfl, rfl⟩
    | intro _

theorem candApply_keep {s : State} {c : Cand} (h : Keep false l k s0 s) : Keep false l k s0 (candApply s c) := by
  unfold candApply
  repeat' with_reducible first
    | assumption
    | refine transAbandon_keep ?_
    | refine transLog_keep ?_
    | refine reqStatus_keep ?_
    | refine sysSet_keep ?_ ?_
    | refine modeEnter_keep ?_
    | refine transDone_keep ?_
    | refine keep_ite ?_ (fun _ => ?_)
    | exact ⟨rfl, rfl, rfl⟩
    | refine keep_of_snd (by assumption) ?_
    | refine keep_of_snd3 (by assumption) ?_
    | refine keep_of_fst (by assumption) ?_
    | intro _
    | split
    | dsimp only
    | refine keep_mk ?_ rfl rfl rfl rfl rfl rfl rfl rfl

theorem voteStop_keep {s : State} (h : Keep false l k s0 s) : Keep false l k s0 (voteStop s) := by
  unfold voteStop
  repeat' with_reducible first
    | assumption
    | refine stopEnd_keep ?_
    | refine keep_ite ?_ (fun _ => ?_)

theorem requestCand_keep {x : State × List Cand} {r : Req} (h : Keep m l k s0 x.1) : Keep m l k s0 (requestCand x r).1 := by
  unfold requestCand
  obtain ⟨s, cs⟩ := x
  dsimp only at h ⊢
  split
  · exact reqHold_keep h
  · split
    · exact reqStatus_keep h
    · exact h

theorem voteCands_keep {s : State} (h : Keep m l k s0 s) : Keep m l k s0 (voteCands s).1 := by
  unfold voteCands
  refine keep_foldl_fst (fun _ _ => requestCand_keep) _ ?_
  dsimp only
  exact sysSet_keep ⟨rfl, rfl, rfl⟩ h

theorem voteTake_keep {s : State} {cands : List Cand} (h : Keep false l k s0 s) : Keep false l k s0 (voteTake s cands).1 := by
  unfold voteTake
  split
  · exact h
  · exact candApply_keep (keep_foldl (fun _ _ => reqStatus_keep) _ h)

theorem vote_keep {s : State} (h : Keep false l k s0 s) : Keep false l k s0 (vote s).1 := by
  unfold vote
  split
  · exact h
  · exact voteTake_keep (voteCands_keep (voteStop_keep h))

theorem rowCause_keep {s : State} {r : Row} {m_2 : Mode} (h : Keep m l k s0 s) : Keep m l k s0 (rowCause s r m_2) := by
  unfold rowCause
  repeat' with_reducible first
    | assumption
    | refine addCause_keep ?_
    | refine keep_ite ?_ (fun _ => ?_)

theorem execPrechgLimitExpire_keep {s : State} : KeepO m l k s (execPrechgLimitExpire s) := by
  have h := Keep.refl m l k s
  unfold execPrechgLimitExpire
  repeat' with_reducible first
    | assumption
    | refine begin_keep ?_
    | refine rowCause_keep ?_
    | refine keep_ite ?_ (fun _ => ?_)
    | refine keepO_next ?_

theorem execStopLimitExpire_keep {s : State} : KeepO m l k s (execStopLimitExpire s) := by
  have h := Keep.refl m l k s
  unfold execStopLimitExpire
  repeat' with_reducible first
    | assumption
    | refine begin_keep ?_
    | refine addCause_keep ?_
    | refine keep_ite ?_ (fun _ => ?_)
    | refine keepO_next ?_

theorem execServiceLimitExpire_keep {s : State} : KeepO m l k s (execServiceLimitExpire s) := by
  have h := Keep.refl m l k s
  unfold execServiceLimitExpire
  repeat' with_reducible first
    | assumption
    | refine rowCause_keep ?_
    | refine begin_keep ?_
    | refine keep_ite ?_ (fun _ => ?_)
    | refine keepO_next ?_

theorem execInrushLimitExpire_keep {s : State} : KeepO m l k s (execInrushLimitExpire s) := by
  have h := Keep.refl m l k s
  unfold execInrushLimitExpire
  repeat' with_reducible first
    | assumption
    | refine rowCause_keep ?_
    | refine begin_keep ?_
    | refine keep_ite ?_ (fun _ => ?_)
    | refine keepO_next ?_

theorem execRtLimitExpire_keep {s : State} : KeepO m l k s (execRtLimitExpire s) := by
  have h := Keep.refl m l k s
  unfold execRtLimitExpire
  repeat' with_reducible first
    | assumption
    | refine rowCause_keep ?_
    | refine begin_keep ?_
    | refine keep_ite ?_ (fun _ => ?_)
    | refine keepO_next ?_

theorem execSyncLimitExpire_keep {s : State} : KeepO m l k s (execSyncLimitExpire s) := by
  have h := Keep.refl m l k s
  unfold execSyncLimitExpire
  repeat' with_reducible first
    | assumption
    | refine begin_keep ?_
    | refine rowCause_keep ?_
    | refine keep_ite ?_ (fun _ => ?_)
    | refine keepO_next ?_

theorem execRampTargetReached_keep {s : State} : KeepO m l k s (execRampTargetReached s) := by
  have h := Keep.refl m l k s
  unfold execRampTargetReached
  repeat' with_reducible first
    | assumption
    | refine rowCause_keep ?_
    | refine begin_keep ?_
    | refine keep_ite ?_ (fun _ => ?_)
    | refine keepO_next ?_

theorem execFaultCondition_keep {s : State} : KeepO m l k s (execFaultCondition s) := by
  have h := Keep.refl m l k s
  unfold execFaultCondition
  repeat' with_reducible first
    | assumption
    | refine rowCause_keep ?_
    | refine begin_keep ?_
    | refine keep_ite ?_ (fun _ => ?_)
    | refine keepO_next ?_

theorem execRecoveryMet_keep {s : State} : KeepO m l k s (execRecoveryMet s) := by
  have h := Keep.refl m l k s
  unfold execRecoveryMet
  repeat' with_reducible first
    | assumption
    | refine begin_keep ?_
    | refine rowCause_keep ?_
    | refine keep_ite ?_ (fun _ => ?_)
    | refine keepO_next ?_

theorem saEnd_keep {s : State} {k_1 : Nat} {status : Nat} {delay : Word} (h : Keep m l k s0 s) : Keep m l k s0 (saEnd s k_1 status delay) := by
  unfold saEnd
  repeat' with_reducible first
    | assumption
    | refine keep_regSet ?_
    | refine msixBoth_keep ?_
    | refine keep_ite ?_ (fun _ => ?_)
    | refine keep_mk ?_ rfl rfl rfl rfl rfl rfl rfl rfl

theorem saLog_keep {s : State} {k_1 : Nat} (h : Keep m l k s0 s) : Keep m l k s0 (saLog s k_1) := by
  unfold saLog
  repeat' with_reducible first
    | assumption
    | refine logNow_keep ?_

theorem saCancel_keep {s : State} {k_1 : Nat} (h : Keep m l k s0 s) : Keep m l k s0 (saCancel s k_1) := by
  unfold saCancel
  repeat' with_reducible first
    | assumption
    | refine saLog_keep ?_
    | refine saEnd_keep ?_

theorem saCancelAll_keep {s : State} (h : Keep m l k s0 s) : Keep m l k s0 (saCancelAll s) := by
  unfold saCancelAll
  repeat' with_reducible first
    | assumption
    | refine saCancel_keep ?_
    | refine keep_ite ?_ (fun _ => ?_)
    | refine keep_foldl ?_ _ ?_
    | refine keep_foldl_snd ?_ _ ?_
    | intro _

theorem safeStop_keep {s : State} {flag : Nat} {cause : Nat} (h : Keep m l k s0 s) : Keep m l k s0 (safeStop s flag cause) := by
  unfold safeStop
  repeat' with_reducible first
    | assumption
    | refine regInc_keep ?_
    | refine raise_keep ?_
    | refine regPut_keep ?_
    | refine freshBelow_keep ?_
    | refine transAbandon_keep ?_
    | refine hostCommitEnd_keep ?_
    | refine transLog_keep ?_
    | refine snapCapture_keep ?_
    | refine sysSet_keep ?_ ?_
    | refine modeEnter_keep ?_
    | refine redEval_keep ?_
    | refine fioEval_keep ?_
    | refine saCancelAll_keep ?_
    | refine modeEnter_md10_keep ?_
    | refine keep_locked ?_ rfl
    | refine keep_ite ?_ (fun _ => ?_)
    | exact ⟨rfl, rfl, rfl⟩
    | refine keep_of_snd (by assumption) ?_
    | refine keep_of_snd3 (by assumption) ?_
    | refine keep_of_fst (by assumption) ?_
    | intro _
    | split
    | dsimp only
    | refine keep_mk ?_ rfl rfl rfl rfl rfl rfl rfl rfl

theorem enterMd0_keep {s : State} (h : Keep false false false s0 s) : Keep false false false s0 (enterMd0 s) := by
  have h1 := peatCut_keep h
  unfold enterMd0
  exact fioEval_keep ⟨h1.queue, fun _ => ⟨rfl, rfl, rfl, rfl, rfl, rfl, ⟨rfl, rfl⟩, rfl, ⟨rfl, rfl⟩, ⟨rfl, rfl, rfl⟩, rfl, rfl, rfl⟩, h1.arc,
    nofun, nofun, nofun⟩

theorem leaveMd0_keep {s : State} (h : Keep false l k s0 s) : Keep false l k s0 (leaveMd0 s) := by
  unfold leaveMd0
  repeat' with_reducible first
    | assumption
    | refine regPut_keep ?_
    | refine logNow_keep ?_
    | refine fioEval_keep ?_
    | refine fioSet_keep ?_
    | refine hardTrip_keep ?_
    | refine sysSet_mode_keep ?_ rfl rfl
    | refine keep_ite ?_ (fun _ => ?_)
    | refine keep_mk ?_ rfl rfl rfl rfl rfl rfl rfl rfl

theorem clkTry_keep {s : State} (h : Keep m l k s0 s) : Keep m l k s0 (clkTry s) := by
  unfold clkTry
  repeat' with_reducible first
    | assumption
    | refine keep_ite ?_ (fun _ => ?_)
    | refine keep_mk ?_ rfl rfl rfl rfl rfl rfl rfl rfl

theorem execModuleReset_keep {pf : Pf} {v : Word} {s : State} : KeepO false false false s (execModuleReset pf v s) := by
  have h := Keep.refl false false false s
  unfold execModuleReset
  repeat' with_reducible first
    | assumption
    | refine hostAccess_keep ?_ ?_
    | refine begin_keep ?_
    | refine logNow_keep ?_
    | refine sysSet_keep ?_ ?_
    | refine accessErr_keep ?_
    | refine clkTry_keep ?_
    | refine enterMd0_keep ?_
    | refine keep_ite ?_ (fun _ => ?_)
    | refine keepO_next ?_
    | refine keepO_ite ?_ ?_
    | exact ⟨rfl, rfl, rfl⟩
    | intro _

theorem tmrLog_keep {s : State} {mask : Nat} {action : Nat} (h : Keep m l k s0 s) : Keep m l k s0 (tmrLog s mask action) := by
  unfold tmrLog
  repeat' with_reducible first
    | assumption
    | refine logNow_keep ?_

theorem tmrStop_keep {s : State} {mask : Nat} (h : Keep m l k s0 s) : Keep m l k s0 (tmrStop s mask) := by
  unfold tmrStop
  repeat' with_reducible first
    | assumption
    | refine safeStop_keep ?_
    | refine tmrLog_keep ?_
    | refine keep_ite ?_ (fun _ => ?_)
    | refine keep_mk ?_ rfl rfl rfl rfl rfl rfl rfl rfl

theorem execTmrReplicaDiffer_keep {rep : Fin 3} {s : State} : KeepO m l k s (execTmrReplicaDiffer rep s) := by
  have h := Keep.refl m l k s
  unfold execTmrReplicaDiffer
  repeat' with_reducible first
    | assumption
    | refine begin_keep ?_
    | refine tmrStop_keep ?_
    | refine regInc_keep ?_
    | refine regPut_keep ?_
    | refine tmrLog_keep ?_
    | refine keep_ite ?_ (fun _ => ?_)
    | refine keepO_next ?_
    | refine keepO_ite ?_ ?_
    | refine keep_of_snd (by assumption) ?_
    | refine keep_of_snd3 (by assumption) ?_
    | refine keep_of_fst (by assumption) ?_
    | split
    | dsimp only
    | refine keep_mk ?_ rfl rfl rfl rfl rfl rfl rfl rfl

theorem execTmrTwoOfTwoDiffer_keep {s : State} : KeepO m l k s (execTmrTwoOfTwoDiffer s) := by
  have h := Keep.refl m l k s
  unfold execTmrTwoOfTwoDiffer
  repeat' with_reducible first
    | assumption
    | refine begin_keep ?_
    | refine tmrStop_keep ?_
    | refine keep_ite ?_ (fun _ => ?_)
    | refine keepO_next ?_

theorem execTmrNoMajority_keep {s : State} : KeepO m l k s (execTmrNoMajority s) := by
  have h := Keep.refl m l k s
  unfold execTmrNoMajority
  repeat' with_reducible first
    | assumption
    | refine begin_keep ?_
    | refine tmrStop_keep ?_
    | refine keep_ite ?_ (fun _ => ?_)
    | refine keepO_next ?_

theorem tmrResync_keep {s : State} (h : Keep m l k s0 s) : Keep m l k s0 (tmrResync s) := by
  unfold tmrResync
  repeat' with_reducible first
    | assumption
    | refine keep_ite ?_ (fun _ => ?_)
    | refine keep_of_snd (by assumption) ?_
    | refine keep_of_snd3 (by assumption) ?_
    | refine keep_of_fst (by assumption) ?_
    | split
    | dsimp only
    | refine keep_mk ?_ rfl rfl rfl rfl rfl rfl rfl rfl

end Sys2Proof.Machine
end

