-- ==== Sys2Proof/Laws/KeepSched.lean ====
section
/-!
SUPPORT. What every operation of Machine/Sched.lean keeps.
-/
namespace Sys2Proof.Machine
set_option Elab.async false

variable {m l k : Bool} {s0 : State}

theorem saCtlWrite_keep {s : State} {pf : Pf} {k_2 : Nat} {v : Word} (h : Keep m l k s0 s) : Keep m l k s0 (saCtlWrite s pf k_2 v) := by
  unfold saCtlWrite
  repeat' with_reducible first
    | assumption
    | refine accessErr_keep ?_
    | refine keep_ite ?_ (fun _ => ?_)
    | refine keep_mk ?_ rfl rfl rfl rfl rfl rfl rfl rfl

theorem execSaArm_keep {pf : Pf} {k_1 : Fin 64} {v : Word} {s : State} : KeepO m l k s (execSaArm pf k_1 v s) := by
  have h := Keep.refl m l k s
  unfold execSaArm
  repeat' with_reducible first
    | assumption
    | refine hostAccess_keep ?_ ?_
    | refine begin_keep ?_
    | refine saCtlWrite_keep ?_
    | refine keep_ite ?_ (fun _ => ?_)
    | refine keepO_next ?_
    | refine keepO_ite ?_ ?_
    | intro _

theorem execSaDisarm_keep {pf : Pf} {k_1 : Fin 64} {v : Word} {s : State} : KeepO m l k s (execSaDisarm pf k_1 v s) := by
  have h := Keep.refl m l k s
  unfold execSaDisarm
  repeat' with_reducible first
    | assumption
    | refine hostAccess_keep ?_ ?_
    | refine begin_keep ?_
    | refine saCtlWrite_keep ?_
    | refine keep_ite ?_ (fun _ => ?_)
    | refine keepO_next ?_
    | refine keepO_ite ?_ ?_
    | intro _

theorem saWordWrite_keep {s : State} {pf : Pf} {k_2 : Nat} {off : Nat} {v : Word} (h : Keep m l k s0 s) : Keep m l k s0 (saWordWrite s pf k_2 off v) := by
  unfold saWordWrite
  repeat' with_reducible first
    | assumption
    | refine accessErr_keep ?_
    | refine keep_ite ?_ (fun _ => ?_)
    | refine keep_of_snd (by assumption) ?_
    | refine keep_of_snd3 (by assumption) ?_
    | refine keep_of_fst (by assumption) ?_
    | split
    | dsimp only
    | refine keep_mk ?_ rfl rfl rfl rfl rfl rfl rfl rfl

theorem measFollow_keep {s : State} {p : ParamRec} (h : Keep m l k s0 s) : Keep m l k s0 (measFollow s p) := by
  unfold measFollow
  repeat' with_reducible first
    | assumption
    | refine regPut_keep ?_
    | refine fltLoadBank_keep ?_
    | refine fltLoadTap_keep ?_
    | refine keep_regSet ?_
    | refine keep_ite ?_ (fun _ => ?_)
    | refine keep_of_snd (by assumption) ?_
    | refine keep_of_snd3 (by assumption) ?_
    | refine keep_of_fst (by assumption) ?_
    | split

theorem paramAction_keep {s : State} {sym : Nat} {v : Word} (h : Keep m l k s0 s) : Keep m l k s0 (paramAction s sym v).2 := by
  unfold paramAction
  repeat' with_reducible first
    | assumption
    | refine raise_keep ?_
    | refine imgSet_keep ?_
    | refine measFollow_keep ?_
    | refine sectsFollow_keep ?_
    | refine keep_ite_snd ?_ (fun _ => ?_)
    | refine keep_ite ?_ (fun _ => ?_)
    | refine keep_of_snd (by assumption) ?_
    | refine keep_of_snd3 (by assumption) ?_
    | refine keep_of_fst (by assumption) ?_
    | split

theorem breakerRun_keep {s : State} {e : SaEntry} (h : Keep m l k s0 s) : Keep m l k s0 (breakerRun s e) := by
  unfold breakerRun
  repeat' with_reducible first
    | assumption
    | refine driveN9_keep ?_
    | refine swgEffect_keep ?_
    | refine keep_ite ?_ (fun _ => ?_)
    | refine keep_mk ?_ rfl rfl rfl rfl rfl rfl rfl rfl

theorem breakerExpired_keep {s : State} (h : Keep m l k s0 s) : Keep m l k s0 (breakerExpired s) := by
  unfold breakerExpired
  repeat' with_reducible first
    | assumption
    | refine raise_keep ?_
    | refine swgEffect_keep ?_
    | refine keep_ite ?_ (fun _ => ?_)
    | refine keep_mk ?_ rfl rfl rfl rfl rfl rfl rfl rfl

theorem saLate_keep {s : State} {k_1 : Nat} {status : Nat} (h : Keep m l k s0 s) : Keep m l k s0 (saLate s k_1 status) := by
  unfold saLate
  dsimp only
  split
  · exact saLog_keep (saEnd_keep h)
  · exact h

theorem saAction_keep {r : SaRun} {i status : Nat} {d : Word} {e : SaEntry} (h : Keep m l k s0 r.st) :
    Keep m l k s0 (saAction r i status d e).st := by
  unfold saAction
  dsimp only
  split
  repeat' with_reducible first
    | assumption
    | refine saLog_keep ?_
    | refine saEnd_keep ?_
    | refine reqSubmit_keep ?_
    | refine fioAction_keep ?_
    | refine softTrig_keep ?_
    | refine tbStepEntry_keep ?_
    | refine breakerRun_keep ?_
    | refine hbkRun_keep ?_
    | refine breakerExpired_keep ?_
    | refine hbkExpired_keep ?_
    | refine keep_ite ?_ (fun _ => ?_)
    | refine keep_of_snd (by assumption) ?_
    | refine keep_of_fst (by assumption) ?_
    | split
    | dsimp only
    | refine keep_mk ?_ rfl rfl rfl rfl rfl rfl rfl rfl

theorem saStep_keep {tPrev t i : Nat} {r : SaRun} (h : Keep m l k s0 r.st) : Keep m l k s0 (saStep tPrev t r i).st := by
  unfold saStep
  dsimp only
  repeat' split
  repeat' with_reducible first
    | assumption
    | refine saAction_keep ?_
    | refine saLog_keep ?_
    | refine saEnd_keep ?_
    | refine reqSubmit_keep ?_
    | refine fioAction_keep ?_
    | refine softTrig_keep ?_
    | refine tbStepEntry_keep ?_
    | refine breakerRun_keep ?_
    | refine hbkRun_keep ?_
    | refine breakerExpired_keep ?_
    | refine hbkExpired_keep ?_

theorem saRun_keep {s : State} {tPrev t : Nat} (h : Keep m l k s0 s) : Keep m l k s0 (saRun s tPrev t).st := by
  have go : ∀ (l' : List Nat) (r : SaRun), Keep m l k s0 r.st → Keep m l k s0 (l'.foldl (saStep tPrev t) r).st := by
    intro l'
    induction l' with
    | nil => exact fun _ h => h
    | cons x xs ih => exact fun r h => ih _ (saStep_keep h)
  unfold saRun
  split
  · exact h
  · exact go _ _ h

theorem saParams_keep {s : State} {l_1 : List (Nat × Nat)} (h : Keep m l k s0 s) : Keep m l k s0 (saParams s l_1) := by
  unfold saParams
  repeat' with_reducible first
    | assumption
    | refine paramAction_keep ?_
    | refine saLate_keep ?_
    | refine keep_ite ?_ (fun _ => ?_)
    | refine keep_foldl ?_ _ ?_
    | refine keep_foldl_snd ?_ _ ?_
    | refine keep_of_snd (by assumption) ?_
    | refine keep_of_snd3 (by assumption) ?_
    | refine keep_of_fst (by assumption) ?_
    | intro _

theorem saCommit_keep {abandon : Bool} {s : State} {x : Nat × Nat} (h : Keep m l k s0 s) : Keep m l k s0 (saCommit abandon s x) := by
  unfold saCommit
  repeat' with_reducible first
    | assumption
    | refine commitJudge_keep ?_
    | refine saLate_keep ?_
    | refine commitEnd_keep ?_
    | refine keep_ite ?_ (fun _ => ?_)
    | refine keep_of_snd (by assumption) ?_
    | refine keep_of_snd3 (by assumption) ?_
    | refine keep_of_fst (by assumption) ?_
    | split

theorem saCommits_keep {s : State} {l_1 : List (Nat × Nat)} {abandon : Bool} (h : Keep m l k s0 s) : Keep m l k s0 (saCommits s l_1 abandon) := by
  unfold saCommits
  repeat' with_reducible first
    | assumption
    | refine saCommit_keep ?_
    | refine commitJudge_keep ?_
    | refine commitEnd_keep ?_
    | refine fabStatus_keep ?_
    | refine keep_ite ?_ (fun _ => ?_)
    | refine keep_foldl ?_ _ ?_
    | refine keep_foldl_snd ?_ _ ?_
    | refine keep_of_snd (by assumption) ?_
    | refine keep_of_snd3 (by assumption) ?_
    | refine keep_of_fst (by assumption) ?_
    | intro _
    | split

theorem saModes_keep {s : State} {l_1 : List Nat} (h : Keep m l k s0 s) : Keep m l k s0 (saModes s l_1) := by
  exact keep_foldl (fun _ _ => saLog_keep) _ h

theorem restoreSa_keep {bs : List Byte} {s : State} {k_2 : Nat} (h : Keep m l k s0 s) : Keep m l k s0 (restoreSa bs s k_2) := by
  unfold restoreSa
  dsimp only
  split
  · refine saCancel_keep (keep_mk h rfl rfl rfl rfl rfl rfl rfl rfl)
  · refine keep_mk h rfl rfl rfl rfl rfl rfl rfl rfl

theorem restoreApply_keep {s : State} {bs : List Byte} (h : Keep m l k s0 s) : Keep m l k s0 (restoreApply s bs) := by
  unfold restoreApply
  repeat' with_reducible first
    | assumption
    | refine swgWait_keep ?_
    | refine preGoes_keep ?_
    | refine restoreSa_keep ?_
    | refine keep_ite ?_ (fun _ => ?_)
    | refine keep_foldl ?_ _ ?_
    | refine keep_foldl_snd ?_ _ ?_
    | intro _
    | refine keep_mk ?_ rfl rfl rfl rfl rfl rfl rfl rfl

end Sys2Proof.Machine
end

