-- ==== Sys2Proof/Laws/KeepSaf.lean ====
section
/-!
SUPPORT. What every operation of Machine/Saf.lean keeps.
-/
namespace Sys2Proof.Machine
set_option Elab.async false

variable {m l k : Bool} {s0 : State}

/-- The safe block function changes where its lock-out is not looked at. -/
theorem safUnlock_keep {s : State} {f : Saf → Saf} (h : Keep m false k s0 s) : Keep m false k s0 (safSet s f) :=
  ⟨h.queue, h.inv, h.arc, h.mode, nofun, h.tick⟩

theorem safSet_keep {s : State} {f : Saf → Saf} (hf : (f s.saf).lock = s.saf.lock) (h : Keep m l k s0 s) : Keep m l k s0 (safSet s f) := by
  unfold safSet
  exact keep_mk h rfl rfl rfl rfl hf rfl rfl rfl

theorem rstRes_keep {s : State} {st : Nat} (h : Keep m l k s0 s) : Keep m l k s0 (rstRes s st) := by
  unfold rstRes
  repeat' with_reducible first
    | assumption
    | refine logNow_keep ?_
    | refine safSet_keep ?_ ?_
    | refine keep_ite ?_ (fun _ => ?_)
    | rfl

theorem demandEdge_keep {s0_0 : State} {s : State} (h : Keep m l k s0 s) : Keep m l k s0 (demandEdge s0_0 s) := by
  unfold demandEdge
  repeat' with_reducible first
    | assumption
    | refine safeStop_keep ?_
    | refine keep_ite ?_ (fun _ => ?_)

theorem discEval_keep {s : State} (h : Keep m l k s0 s) : Keep m l k s0 (discEval s) := by
  refine safSet_keep ?_ h
  dsimp only
  split <;> rfl

theorem execSbInput_keep {ch : SafeCh} {demand : Bool} {s : State} : KeepO m l k s (execSbInput ch demand s) := by
  have h := Keep.refl m l k s
  unfold execSbInput
  repeat' with_reducible first
    | assumption
    | refine begin_keep ?_
    | refine demandEdge_keep ?_
    | refine discEval_keep ?_
    | refine safSet_keep ?_ ?_
    | refine keep_ite ?_ (fun _ => ?_)
    | refine keepO_next ?_
    | refine keepO_ite ?_ ?_
    | rfl
    | refine keep_of_snd (by assumption) ?_
    | refine keep_of_snd3 (by assumption) ?_
    | refine keep_of_fst (by assumption) ?_
    | intro _
    | split

theorem execSbDiscrepancy_keep {s : State} : KeepO m l k s (execSbDiscrepancy s) := by
  have h := Keep.refl m l k s
  unfold execSbDiscrepancy
  repeat' with_reducible first
    | assumption
    | refine begin_keep ?_
    | refine safeStop_keep ?_
    | refine raise_keep ?_
    | refine safSet_keep ?_ ?_
    | refine keep_ite ?_ (fun _ => ?_)
    | refine keepO_next ?_
    | refine keepO_ite ?_ ?_
    | rfl

theorem execCouplerTest_keep {passA : Bool} {passB : Bool} {s : State} : KeepO m l k s (execCouplerTest passA passB s) := by
  have h := Keep.refl m l k s
  unfold execCouplerTest
  repeat' with_reducible first
    | assumption
    | refine begin_keep ?_
    | refine safSet_keep ?_ ?_
    | refine raise_keep ?_
    | refine discEval_keep ?_
    | refine safeStop_keep ?_
    | refine keep_ite ?_ (fun _ => ?_)
    | refine keepO_next ?_
    | refine keepO_ite ?_ ?_
    | rfl

theorem rstStuck_keep {s : State} (h : Keep m l k s0 s) : Keep m l k s0 (rstStuck s) := by
  unfold rstStuck
  repeat' with_reducible first
    | assumption
    | refine raise_keep ?_
    | refine safSet_keep ?_ ?_
    | refine keep_ite ?_ (fun _ => ?_)
    | rfl

theorem execRstSafePress_keep {s : State} : KeepO m l k s (execRstSafePress s) := by
  have h := Keep.refl m l k s
  unfold execRstSafePress
  repeat' with_reducible first
    | assumption
    | refine begin_keep ?_
    | refine safSet_keep ?_ ?_
    | refine rstRes_keep ?_
    | refine keep_ite ?_ (fun _ => ?_)
    | refine keepO_next ?_
    | refine keepO_ite ?_ ?_
    | rfl
    | refine keep_of_snd (by assumption) ?_
    | refine keep_of_snd3 (by assumption) ?_
    | refine keep_of_fst (by assumption) ?_
    | intro _
    | split

theorem execRstStuck_keep {s : State} : KeepO m l k s (execRstStuck s) := by
  have h := Keep.refl m l k s
  unfold execRstStuck
  repeat' with_reducible first
    | assumption
    | refine begin_keep ?_
    | refine rstStuck_keep ?_
    | refine keep_ite ?_ (fun _ => ?_)
    | refine keepO_next ?_

theorem execRstStuckClear_keep {s : State} : KeepO m l k s (execRstStuckClear s) := by
  have h := Keep.refl m l k s
  unfold execRstStuckClear
  repeat' with_reducible first
    | assumption
    | refine begin_keep ?_
    | refine safSet_keep ?_ ?_
    | refine keep_ite ?_ (fun _ => ?_)
    | refine keepO_next ?_
    | refine keepO_ite ?_ ?_
    | rfl

theorem pressJudge_keep {s : State} (h : Keep m false k s0 s) : Keep m false k s0 (pressJudge s) := by
  unfold pressJudge
  dsimp only
  split
  · exact rstRes_keep (by refine peatWrite_keep ?_ (safSet_keep ?_ h) <;> rfl)
  · split
    · exact rstRes_keep h
    · exact fioEval_keep (addCause_keep (rstRes_keep (raise_keep (regInc_keep (safUnlock_keep h)))))

theorem execRstSafeRelease_keep {ms : Nat} {s : State} : KeepO m false k s (execRstSafeRelease ms s) := by
  have h := Keep.refl m false k s
  unfold execRstSafeRelease
  repeat' with_reducible first
    | assumption
    | refine safSet_keep ?_ ?_
    | refine begin_keep ?_
    | refine rstStuck_keep ?_
    | refine rstRes_keep ?_
    | refine pressJudge_keep ?_
    | refine keep_ite ?_ (fun _ => ?_)
    | refine keepO_next ?_
    | refine keepO_ite ?_ ?_
    | rfl

theorem rstCtl_keep {s : State} {pf : Pf} {key : BitVec 16} {f : State → State} (hf : ∀ s, Keep m l k s0 s → Keep m l k s0 (f s)) (h : Keep m l k s0 s) : Keep m l k s0 (rstCtl s pf key f) := by
  unfold rstCtl
  repeat' with_reducible first
    | assumption
    | refine hf _ ?_
    | refine hostPf0_keep ?_ ?_
    | refine rstRes_keep ?_
    | refine keep_ite ?_ (fun _ => ?_)
    | intro _

theorem execSafAck_keep {pf : Pf} {key : BitVec 16} {s : State} : KeepO m l k s (execSafAck pf key s) := by
  have h := Keep.refl m l k s
  unfold execSafAck
  repeat' with_reducible first
    | assumption
    | refine rstCtl_keep ?_ ?_
    | refine begin_keep ?_
    | refine rstRes_keep ?_
    | refine safSet_keep ?_ ?_
    | refine keep_ite ?_ (fun _ => ?_)
    | refine keepO_next ?_
    | refine keepO_ite ?_ ?_
    | rfl
    | intro _

theorem execSafCancel_keep {pf : Pf} {key : BitVec 16} {s : State} : KeepO m l k s (execSafCancel pf key s) := by
  have h := Keep.refl m l k s
  unfold execSafCancel
  repeat' with_reducible first
    | assumption
    | refine rstCtl_keep ?_ ?_
    | refine begin_keep ?_
    | refine safSet_keep ?_ ?_
    | refine keep_ite ?_ (fun _ => ?_)
    | refine keepO_next ?_
    | refine keepO_ite ?_ ?_
    | rfl
    | intro _

theorem execAckExpire_keep {s : State} : KeepO m l k s (execAckExpire s) := by
  have h := Keep.refl m l k s
  unfold execAckExpire
  repeat' with_reducible first
    | assumption
    | refine begin_keep ?_
    | refine rstRes_keep ?_
    | refine safSet_keep ?_ ?_
    | refine keep_ite ?_ (fun _ => ?_)
    | refine keepO_next ?_
    | refine keepO_ite ?_ ?_
    | rfl

theorem execCvConfirm_keep {pf : Pf} {key : BitVec 16} {s : State} : KeepO m l k s (execCvConfirm pf key s) := by
  have h := Keep.refl m l k s
  unfold execCvConfirm
  repeat' with_reducible first
    | assumption
    | refine hostPf0_keep ?_ ?_
    | refine begin_keep ?_
    | refine rstRes_keep ?_
    | refine safSet_keep ?_ ?_
    | refine keep_ite ?_ (fun _ => ?_)
    | refine keepO_next ?_
    | refine keepO_ite ?_ ?_
    | rfl
    | refine keep_of_snd (by assumption) ?_
    | refine keep_of_snd3 (by assumption) ?_
    | refine keep_of_fst (by assumption) ?_
    | intro _
    | split

theorem execCvConfirmExpire_keep {s : State} : KeepO m l k s (execCvConfirmExpire s) := by
  have h := Keep.refl m l k s
  unfold execCvConfirmExpire
  repeat' with_reducible first
    | assumption
    | refine begin_keep ?_
    | refine rstRes_keep ?_
    | refine safSet_keep ?_ ?_
    | refine keep_ite ?_ (fun _ => ?_)
    | refine keepO_next ?_
    | refine keepO_ite ?_ ?_
    | rfl

theorem proofJudge_keep {s : State} (h : Keep m l k s0 s) : Keep m l k s0 (proofJudge s) := by
  unfold proofJudge
  repeat' with_reducible first
    | assumption
    | refine raise_keep ?_
    | refine safSet_keep ?_ ?_
    | refine keep_ite ?_ (fun _ => ?_)
    | rfl

theorem proofTime_keep {s : State} {ns : Nat} (h : Keep m l k s0 s) : Keep m l k s0 (proofTime s ns) := by
  unfold proofTime
  repeat' with_reducible first
    | assumption
    | refine safSet_keep ?_ ?_
    | refine proofJudge_keep ?_
    | refine peatWrite_keep ?_ ?_
    | refine keep_ite ?_ (fun _ => ?_)
    | rfl

theorem execProofDue_keep {s : State} : KeepO m l k s (execProofDue s) := by
  have h := Keep.refl m l k s
  unfold execProofDue
  repeat' with_reducible first
    | assumption
    | refine begin_keep ?_
    | refine proofJudge_keep ?_
    | refine keep_ite ?_ (fun _ => ?_)
    | refine keepO_next ?_

theorem safKindle_keep {s : State} (h : Keep m l k s0 s) : Keep m l k s0 (safKindle s).2 := by
  unfold safKindle
  dsimp only
  have h1 : Keep m l k s0 (if s.saf.rstate = .pressed then rstStuck s else s) := keep_ite h fun _ => rstStuck_keep h
  generalize (if s.saf.rstate = RstState.pressed then rstStuck s else s) = s1 at h1 ⊢
  exact keep_ite_snd (keep_locked (regPut_keep (regInc_keep (raise_keep (safSet_keep rfl h1)))) rfl) fun _ => safSet_keep (f := fun f => { f with due := 0 }) rfl h1

end Sys2Proof.Machine
end

