-- ==== Sys2Proof/Laws/KeepSecurity.lean ====
section
/-!
SUPPORT. What every operation of Machine/Security.lean keeps.
-/
namespace Sys2Proof.Machine
set_option Elab.async false

variable {m l k : Bool} {s0 : State}

theorem execPeatLineWriteDone_keep {kind : PeatKind} {ok : Bool} {s : State} : KeepO m l k s (execPeatLineWriteDone kind ok s) := by
  have h := Keep.refl m l k s
  unfold execPeatLineWriteDone
  repeat' with_reducible first
    | assumption
    | refine begin_keep ?_
    | refine lineWorn_keep ?_
    | refine redEval_keep ?_
    | refine lineDone_keep ?_
    | refine lineLost_keep ?_
    | refine keep_ite ?_ (fun _ => ?_)
    | refine keepO_next ?_
    | refine keepO_ite ?_ ?_
    | refine keep_of_snd (by assumption) ?_
    | refine keep_of_snd3 (by assumption) ?_
    | refine keep_of_fst (by assumption) ?_
    | split

theorem execArcAdvance_keep {pf : Pf} {key : BitVec 16} {idx : Fin 64} {s : State} : KeepO m l k s (execArcAdvance pf key idx s) := by
  have h := Keep.refl m l k s
  unfold execArcAdvance
  repeat' with_reducible first
    | assumption
    | refine hostPf0_keep ?_ ?_
    | refine begin_keep ?_
    | refine secSet_keep ?_
    | refine peatWrite_keep ?_ ?_
    | refine keep_ite ?_ (fun _ => ?_)
    | refine keepO_next ?_
    | refine keepO_ite ?_ ?_
    | rfl
    | intro _

theorem keyChange_keep {s : State} {bs : List Byte} {open_ : Bool} (h : Keep m l k s0 s) : Keep m l k s0 (keyChange s bs open_).2 := by
  unfold keyChange
  dsimp only
  split
  · exact h
  split
  · exact h
  split
  · exact h
  · dsimp only
    refine raise_keep (recNow_keep (peatSet_arc_keep h fun j => ?_))
    exact arcPut_le (p := { s.peat with keys := keyTableAfter s.peat.keys bs }) (n := 2) (v := tabGet 0 s.peat.arc 2 + 1)
      (Nat.lt_succ_self _) j

theorem keyCommand_keep {s : State} {dmaOk : Bool} {bs : List Byte} {open_ : Bool} (h : Keep m l k s0 s) : Keep m l k s0 (keyCommand s dmaOk bs open_).2 := by
  unfold keyCommand
  repeat' with_reducible first
    | assumption
    | refine dmaLost_keep ?_
    | refine devAsk_keep ?_
    | refine keyChange_keep ?_
    | refine sec13Clear_keep ?_
    | refine keep_ite_snd ?_ (fun _ => ?_)

theorem execKeyApply_keep {pf : Pf} {key : BitVec 16} {dmaOk : Bool} {bytes : List Byte} {s : State} : KeepO m l k s (execKeyApply pf key dmaOk bytes s) := by
  have h := Keep.refl m l k s
  unfold execKeyApply
  repeat' with_reducible first
    | assumption
    | refine hostPf0_keep ?_ ?_
    | refine begin_keep ?_
    | refine keyCommand_keep ?_
    | refine secSet_keep ?_
    | refine keep_ite ?_ (fun _ => ?_)
    | refine keepO_next ?_
    | refine keepO_ite ?_ ?_
    | refine keep_of_snd (by assumption) ?_
    | refine keep_of_snd3 (by assumption) ?_
    | refine keep_of_fst (by assumption) ?_
    | intro _
    | split

theorem ucSlotPut_keep {s : State} {k_1 : Nat} {x : ImgSlot} (h : Keep m l k s0 s) : Keep m l k s0 (ucSlotPut s k_1 x) := by
  unfold ucSlotPut
  repeat' with_reducible first
    | assumption
    | refine peatWrite_keep ?_ ?_
    | refine keep_ite ?_ (fun _ => ?_)
    | rfl

theorem ucStatus_keep {s : State} {st : Nat} (h : Keep m l k s0 s) : Keep m l k s0 (ucStatus s st) := by
  unfold ucStatus
  repeat' with_reducible first
    | assumption
    | refine secSet_keep ?_

theorem ucCtl_keep {s : State} {pf : Pf} {key : BitVec 16} {f : State → State} (hf : ∀ s, Keep m l k s0 s → Keep m l k s0 (f s)) (h : Keep m l k s0 s) : Keep m l k s0 (ucCtl s pf key f) := by
  unfold ucCtl
  repeat' with_reducible first
    | assumption
    | refine hf _ ?_
    | refine hostPf0_keep ?_ ?_
    | refine ucStatus_keep ?_
    | refine keep_ite ?_ (fun _ => ?_)
    | intro _

theorem secFree_keep {s : State} (h : Keep m l k s0 s) : Keep m l k s0 (secFree s) := by
  unfold secFree
  repeat' with_reducible first
    | assumption
    | refine stamp_keep ?_
    | refine settle_keep ?_

theorem execUcLoad_keep {pf : Pf} {key : BitVec 16} {slot : Fin 2} {s : State} : KeepO m l k s (execUcLoad pf key slot s) := by
  have h := Keep.refl m l k s
  unfold execUcLoad
  repeat' with_reducible first
    | assumption
    | refine ucCtl_keep ?_ ?_
    | refine begin_keep ?_
    | refine ucStatus_keep ?_
    | refine secSet_keep ?_
    | refine loadLines_keep ?_
    | refine ucSlotPut_keep ?_
    | refine keep_ite ?_ (fun _ => ?_)
    | refine keepO_next ?_
    | refine keepO_ite ?_ ?_
    | intro _

theorem ucEnd_keep {s : State} {st : Nat} (h : Keep m l k s0 s) : Keep m l k s0 (ucEnd s st) := by
  unfold ucEnd
  repeat' with_reducible first
    | assumption
    | refine secFree_keep ?_
    | refine secSet_keep ?_
    | refine loadOver_keep ?_

theorem execUcLoadDone_keep {dmaOk : Bool} {bytes : List Byte} {s : State} : KeepO m l k s (execUcLoadDone dmaOk bytes s) := by
  have h := Keep.refl m l k s
  unfold execUcLoadDone
  repeat' with_reducible first
    | assumption
    | refine begin_keep ?_
    | refine dmaLost_keep ?_
    | refine ucEnd_keep ?_
    | refine secUse_keep ?_ ?_ ?_
    | refine ucSlotPut_keep ?_
    | refine keep_ite ?_ (fun _ => ?_)
    | refine keepO_next ?_
    | refine keepO_ite ?_ ?_
    | refine keep_of_snd (by assumption) ?_
    | refine keep_of_snd3 (by assumption) ?_
    | refine keep_of_fst (by assumption) ?_
    | intro _
    | split

theorem execUcBootNext_keep {pf : Pf} {key : BitVec 16} {slot : Fin 2} {s : State} : KeepO m l k s (execUcBootNext pf key slot s) := by
  have h := Keep.refl m l k s
  unfold execUcBootNext
  repeat' with_reducible first
    | assumption
    | refine ucCtl_keep ?_ ?_
    | refine begin_keep ?_
    | refine ucStatus_keep ?_
    | refine peatWrite_keep ?_ ?_
    | refine keep_ite ?_ (fun _ => ?_)
    | refine keepO_next ?_
    | refine keepO_ite ?_ ?_
    | rfl
    | intro _

theorem execUcConfirm_keep {pf : Pf} {key : BitVec 16} {s : State} : KeepO m l k s (execUcConfirm pf key s) := by
  have h := Keep.refl m l k s
  unfold execUcConfirm
  repeat' with_reducible first
    | assumption
    | refine ucCtl_keep ?_ ?_
    | refine begin_keep ?_
    | refine ucStatus_keep ?_
    | refine peatWrite_keep ?_ ?_
    | refine arcRaise_keep ?_
    | refine keep_ite ?_ (fun _ => ?_)
    | refine keepO_next ?_
    | refine keepO_ite ?_ ?_
    | rfl
    | intro _

theorem rcvStatus_keep {s : State} {st : Nat} (h : Keep m l k s0 s) : Keep m l k s0 (rcvStatus s st) := by
  unfold rcvStatus
  repeat' with_reducible first
    | assumption
    | refine secSet_keep ?_

theorem rcvCtl_keep {s : State} {pf : Pf} {key : BitVec 16} {f : State → State} (hf : ∀ s, Keep m l k s0 s → Keep m l k s0 (f s)) (h : Keep m l k s0 s) : Keep m l k s0 (rcvCtl s pf key f) := by
  unfold rcvCtl
  repeat' with_reducible first
    | assumption
    | refine hf _ ?_
    | refine hostPf0_keep ?_ ?_
    | refine rcvStatus_keep ?_
    | refine keep_ite ?_ (fun _ => ?_)
    | intro _

theorem execLoadImage_keep {pf : Pf} {key : BitVec 16} {slot : Fin 2} {s : State} : KeepO m l k s (execLoadImage pf key slot s) := by
  have h := Keep.refl m l k s
  unfold execLoadImage
  repeat' with_reducible first
    | assumption
    | refine rcvCtl_keep ?_ ?_
    | refine begin_keep ?_
    | refine secSet_keep ?_
    | refine loadLines_keep ?_
    | refine imgSlotPut_keep ?_
    | refine keep_ite ?_ (fun _ => ?_)
    | refine keepO_next ?_
    | refine keepO_ite ?_ ?_
    | intro _

theorem execLoadUcode_keep {pf : Pf} {key : BitVec 16} {slot : Fin 2} {s : State} : KeepO m l k s (execLoadUcode pf key slot s) := by
  have h := Keep.refl m l k s
  unfold execLoadUcode
  repeat' with_reducible first
    | assumption
    | refine rcvCtl_keep ?_ ?_
    | refine begin_keep ?_
    | refine secSet_keep ?_
    | refine loadLines_keep ?_
    | refine ucSlotPut_keep ?_
    | refine keep_ite ?_ (fun _ => ?_)
    | refine keepO_next ?_
    | refine keepO_ite ?_ ?_
    | intro _

theorem rcvEnd_keep {s : State} {st : Nat} (h : Keep m l k s0 s) : Keep m l k s0 (rcvEnd s st) := by
  unfold rcvEnd
  repeat' with_reducible first
    | assumption
    | refine secFree_keep ?_
    | refine secSet_keep ?_
    | refine loadOver_keep ?_

theorem execRecoveryLoadDone_keep {dmaOk : Bool} {bytes : List Byte} {s : State} : KeepO m l k s (execRecoveryLoadDone dmaOk bytes s) := by
  have h := Keep.refl m l k s
  unfold execRecoveryLoadDone
  repeat' with_reducible first
    | assumption
    | refine begin_keep ?_
    | refine dmaLost_keep ?_
    | refine rcvEnd_keep ?_
    | refine secUse_keep ?_ ?_ ?_
    | refine peatWrite_keep ?_ ?_
    | refine imgSlotPut_keep ?_
    | refine ucSlotPut_keep ?_
    | refine keep_ite ?_ (fun _ => ?_)
    | refine keepO_next ?_
    | refine keepO_ite ?_ ?_
    | rfl
    | refine keep_of_snd (by assumption) ?_
    | refine keep_of_snd3 (by assumption) ?_
    | refine keep_of_fst (by assumption) ?_
    | intro _
    | split

theorem execEnroll_keep {pf : Pf} {key : BitVec 16} {dmaOk : Bool} {bytes : List Byte} {s : State} : KeepO m l k s (execEnroll pf key dmaOk bytes s) := by
  have h := Keep.refl m l k s
  unfold execEnroll
  repeat' with_reducible first
    | assumption
    | refine rcvCtl_keep ?_ ?_
    | refine begin_keep ?_
    | refine keyCommand_keep ?_
    | refine rcvStatus_keep ?_
    | refine keep_ite ?_ (fun _ => ?_)
    | refine keepO_next ?_
    | refine keepO_ite ?_ ?_
    | refine keep_of_snd (by assumption) ?_
    | refine keep_of_snd3 (by assumption) ?_
    | refine keep_of_fst (by assumption) ?_
    | intro _

theorem kindleStart_keep {s : State} (h : Keep m l k s0 s) : Keep m l k s0 (kindleStart s) := by
  unfold kindleStart
  repeat' with_reducible first
    | assumption
    | refine sysSet_keep ?_ ?_
    | refine secSet_keep ?_
    | refine keep_ite ?_ (fun _ => ?_)
    | exact ⟨rfl, rfl, rfl⟩

theorem execRestart_keep {pf : Pf} {key : BitVec 16} {s : State} : KeepO m l k s (execRestart pf key s) := by
  have h := Keep.refl m l k s
  unfold execRestart
  repeat' with_reducible first
    | assumption
    | refine rcvCtl_keep ?_ ?_
    | refine begin_keep ?_
    | refine rcvStatus_keep ?_
    | refine kindleStart_keep ?_
    | refine keep_ite ?_ (fun _ => ?_)
    | refine keepO_next ?_
    | refine keepO_ite ?_ ?_
    | intro _

theorem kindleHalt_keep {s : State} {res : Nat} (h : Keep false l k s0 s) : Keep false l k s0 (kindleHalt s res) := by
  unfold kindleHalt
  repeat' with_reducible first
    | assumption
    | refine secSet_keep ?_
    | refine sysSet_keep ?_ ?_
    | refine keep_ite ?_ (fun _ => ?_)
    | exact ⟨rfl, rfl, rfl⟩

theorem kindleRead_keep {s : State} (h : Keep m l k s0 s) : Keep m l k s0 (kindleRead s) := by
  unfold kindleRead
  repeat' with_reducible first
    | assumption
    | refine recsTake_keep ?_
    | refine keep_regSet ?_
    | refine secSet_keep ?_
    | refine calLoad_keep ?_
    | refine keep_ite ?_ (fun _ => ?_)
    | refine keep_mk ?_ rfl rfl rfl rfl rfl rfl rfl rfl

theorem kindleLoad_keep {s : State} {slot : Nat} (h : Keep m l k s0 s) : Keep m l k s0 (kindleLoad s slot) := by
  unfold kindleLoad
  repeat' with_reducible first
    | assumption
    | refine imgSet_keep ?_
    | refine secSet_keep ?_
    | refine mapArms_keep ?_
    | refine chSrcImage_keep ?_
    | refine timLoad_keep ?_
    | refine fltLoad_keep ?_
    | refine keep_ite ?_ (fun _ => ?_)
    | refine keep_mk ?_ rfl rfl rfl rfl rfl rfl rfl rfl

theorem kindleLeave_keep {s : State} (h : Keep false l k s0 s) : Keep false l k s0 (kindleLeave s) := by
  unfold kindleLeave
  repeat' with_reducible first
    | assumption
    | refine safKindle_keep ?_
    | refine modeEnter_keep ?_
    | refine transLog_keep ?_
    | refine redStart_keep ?_
    | refine saCancelAll_keep ?_
    | refine keep_ite ?_ (fun _ => ?_)

theorem kindleBoot_keep {s : State} (h : Keep false l k s0 s) : Keep false l k s0 (kindleBoot s) := by
  unfold kindleBoot
  repeat' with_reducible first
    | assumption
    | refine secSet_keep ?_
    | refine kindleLeave_keep ?_
    | refine kindleLoad_keep ?_
    | refine kindleHalt_keep ?_
    | refine raise_keep ?_
    | refine keep_ite ?_ (fun _ => ?_)

theorem execKindleDone_keep {selfTestOk : Bool} {s : State} : KeepO false l k s (execKindleDone selfTestOk s) := by
  have h := Keep.refl false l k s
  unfold execKindleDone
  repeat' with_reducible first
    | assumption
    | refine begin_keep ?_
    | refine kindleRead_keep ?_
    | refine devAsk_keep ?_
    | refine sec13Clear_keep ?_
    | refine kindleHalt_keep ?_
    | refine secSet_keep ?_
    | refine kindleBoot_keep ?_
    | refine peatWrite_keep ?_ ?_
    | refine safSet_keep ?_ ?_
    | refine keep_ite ?_ (fun _ => ?_)
    | refine keepO_next ?_
    | refine keepO_ite ?_ ?_
    | rfl

end Sys2Proof.Machine
end

