-- ==== Sys2Proof/Laws/KeepMemory.lean ====
section
/-!
SUPPORT. What every operation of Machine/Memory.lean keeps.
-/
namespace Sys2Proof.Machine
set_option Elab.async false

variable {m l k : Bool} {s0 : State}

theorem ricks_set {p : List Nat} {i v : Nat} (w : Ricks.wf p = true) (h : (i ≠ 12 ∧ i ≠ 14 ∧ i ≠ 15) ∨ v = 2) :
    Ricks.wf (setNth p i v) = true := by
  simp only [Ricks.wf, List.all_cons, List.all_nil, Bool.and_eq_true, decide_eq_true_eq, nth, setNth, List.getD_eq_getElem?_getD,
    List.getElem?_set, List.length_set] at w ⊢
  have go : ∀ j, p[j]?.getD 2 = 2 → i ≠ j ∨ v = 2 → (if i = j then if i < p.length then some v else none else p[j]?).getD 2 = 2 := by
    intro j hj hij
    split
    · next e =>
      rcases hij with hij | hv
      · exact absurd e hij
      · subst hv; split <;> rfl
    · exact hj
  refine ⟨w.1, go 12 w.2.1 ?_, go 14 w.2.2.1 ?_, go 15 w.2.2.2.1 ?_, trivial⟩ <;> omega

/-- The state of one rick changes. -/
theorem keep_rick {s : State} {i v : Nat} (h : Keep m l k s0 s) (hi : (i ≠ 12 ∧ i ≠ 14 ∧ i ≠ 15) ∨ v = 2) :
    Keep m l k s0 (memSet s (fun c => { c with pwr := setNth c.pwr i v })) :=
  ⟨h.queue, fun q => ⟨(h.inv q).1, (h.inv q).2.1, (h.inv q).2.2.1, ricks_set (h.inv q).2.2.2.1 hi, (h.inv q).2.2.2.2⟩, h.arc, h.mode, h.lock, h.tick⟩

/-- A fold over the first n numbers. -/
theorem keep_foldl_lt {n : Nat} {f : State → Nat → State} (hf : ∀ s i, i < n → Keep m l k s0 s → Keep m l k s0 (f s i)) {s : State}
    (h : Keep m l k s0 s) : Keep m l k s0 ((List.range n).foldl f s) := by
  have go : ∀ (xs : List Nat), (∀ x ∈ xs, x < n) → ∀ s, Keep m l k s0 s → Keep m l k s0 (xs.foldl f s) := by
    intro xs
    induction xs with
    | nil => exact fun _ _ h => h
    | cons x xs ih => exact fun hx s h => ih (fun y hy => hx y (.tail _ hy)) _ (hf s x (hx x (.head _)) h)
  exact go _ (fun x hx => List.mem_range.1 hx) s h

theorem memSet_keep {s : State} {f : Mem → Mem} (hf : (f s.mem).dev = s.mem.dev ∧ (f s.mem).pwr = s.mem.pwr) (h : Keep m l k s0 s) : Keep m l k s0 (memSet s f) := by
  unfold memSet
  exact keep_mk h rfl rfl rfl rfl rfl hf.1 hf.2 rfl

theorem devForget_keep {s : State} {lo : Nat} {hi : Nat} (h : Keep m l k s0 s) : Keep m l k s0 (devForget s lo hi) := by
  unfold devForget memSet
  exact ⟨h.queue, fun i => ⟨tabWf_filter _ (h.inv i).1, (h.inv i).2⟩, h.arc, h.mode, h.lock, h.tick⟩

theorem rickTo_keep {s : State} {i v : Nat} (hi : i < 12) (h : Keep m l k s0 s) : Keep m l k s0 (rickTo s i v) := by
  have hr : ∀ {w}, Keep m l k s0 (memSet s (fun c => { c with pwr := setNth c.pwr i w })) := keep_rick h (.inl (by omega))
  unfold rickTo
  dsimp only
  split
  · exact devForget_keep hr
  · exact hr
  · exact keep_ite hr fun _ => h
  · exact h

theorem rickWrite_keep {s : State} {v : Word} (h : Keep m l k s0 s) : Keep m l k s0 (rickWrite s v) := by
  refine keep_foldl_lt (fun s i hi h => ?_) h
  dsimp only
  exact keep_ite (keep_ite (rickTo_keep hi (regPut_keep h)) fun _ => regPut_keep h) fun _ => h

theorem execRickPower_keep {pf : Pf} {v : Word} {s : State} : KeepO m l k s (execRickPower pf v s) := by
  have h := Keep.refl m l k s
  unfold execRickPower
  repeat' with_reducible first
    | assumption
    | refine hostPf0_keep ?_ ?_
    | refine begin_keep ?_
    | refine rickWrite_keep ?_
    | refine keep_ite ?_ (fun _ => ?_)
    | refine keepO_next ?_
    | refine keepO_ite ?_ ?_
    | intro _

theorem execRickPowerDone_keep {rick : Fin 16} {s : State} : KeepO m l k s (execRickPowerDone rick s) := by
  exact keepO_next (keep_ite (begin_keep (Keep.refl m l k s)) fun h => keep_rick h (.inr rfl))

theorem execRgnWrite_keep {pf : Pf} {m_1 : Fin 7} {k_2 : Fin 16} {w : Fin 3} {v : Word} {s : State} : KeepO m l k s (execRgnWrite pf m_1 k_2 w v s) := by
  have h := Keep.refl m l k s
  unfold execRgnWrite
  repeat' with_reducible first
    | assumption
    | refine hostPf0_keep ?_ ?_
    | refine begin_keep ?_
    | refine memSet_keep ?_ ?_
    | refine keep_regSet ?_
    | refine raise_keep ?_
    | refine logNow_keep ?_
    | refine keep_ite ?_ (fun _ => ?_)
    | refine keepO_next ?_
    | refine keepO_ite ?_ ?_
    | exact ⟨rfl, rfl⟩
    | intro _

theorem execBlkReady_keep {s : State} : KeepO m l k s (execBlkReady s) := by
  have h := Keep.refl m l k s
  unfold execBlkReady
  repeat' with_reducible first
    | assumption
    | refine begin_keep ?_
    | refine memSet_keep ?_ ?_
    | refine devForget_keep ?_
    | refine stamp_keep ?_
    | refine settle_keep ?_
    | refine keep_ite ?_ (fun _ => ?_)
    | refine keepO_next ?_
    | refine keepO_ite ?_ ?_
    | exact ⟨rfl, rfl⟩

theorem execScrubNow_keep {pf : Pf} {v : Word} {s : State} : KeepO m l k s (execScrubNow pf v s) := by
  have h := Keep.refl m l k s
  unfold execScrubNow
  repeat' with_reducible first
    | assumption
    | refine hostPf0_keep ?_ ?_
    | refine begin_keep ?_
    | refine regPut_keep ?_
    | refine memSet_keep ?_ ?_
    | refine keep_ite ?_ (fun _ => ?_)
    | refine keepO_next ?_
    | refine keepO_ite ?_ ?_
    | exact ⟨rfl, rfl⟩
    | intro _

theorem execScrubPeriod_keep {s : State} : KeepO m l k s (execScrubPeriod s) := by
  have h := Keep.refl m l k s
  unfold execScrubPeriod
  repeat' with_reducible first
    | assumption
    | refine begin_keep ?_
    | refine memSet_keep ?_ ?_
    | refine keep_ite ?_ (fun _ => ?_)
    | refine keepO_next ?_
    | refine keepO_ite ?_ ?_
    | exact ⟨rfl, rfl⟩

theorem scrubMeet_keep {s : State} (h : Keep m l k s0 s) : Keep m l k s0 (scrubMeet s) := by
  unfold scrubMeet
  repeat' with_reducible first
    | assumption
    | refine freshBelow_keep ?_
    | refine blkErrs_keep ?_

theorem execScrubDone_keep {s : State} : KeepO m l k s (execScrubDone s) := by
  have h := Keep.refl m l k s
  unfold execScrubDone
  repeat' with_reducible first
    | assumption
    | refine begin_keep ?_
    | refine raise_keep ?_
    | refine scrubMeet_keep ?_
    | refine memSet_keep ?_ ?_
    | refine keep_ite ?_ (fun _ => ?_)
    | refine keepO_next ?_
    | refine keepO_ite ?_ ?_
    | exact ⟨rfl, rfl⟩

end Sys2Proof.Machine
end

