-- ==== Sys2Proof/Laws/KeepClock.lean ====
section
/-!
SUPPORT. What every operation of Machine/Clock.lean keeps.
-/
namespace Sys2Proof.Machine
set_option Elab.async false

variable {m l k : Bool} {s0 : State}

theorem clkSet_keep {s : State} {f : Clk → Clk} (h : Keep m l k s0 s) : Keep m l k s0 (clkSet s f) := by
  unfold clkSet
  repeat' with_reducible first
    | assumption
    | refine keep_ite ?_ (fun _ => ?_)
    | refine keep_mk ?_ rfl rfl rfl rfl rfl rfl rfl rfl

theorem adcIdle_keep {s : State} (h : Keep m l k s0 s) : Keep m l k s0 (adcIdle s) := by
  unfold adcIdle
  repeat' with_reducible first
    | assumption
    | refine keep_ite ?_ (fun _ => ?_)
    | refine keep_mk ?_ rfl rfl rfl rfl rfl rfl rfl rfl

theorem clkGate_keep {s : State} (h : Keep m l k s0 s) : Keep m l k s0 (clkGate s) := by
  unfold clkGate
  repeat' with_reducible first
    | assumption
    | refine clkSet_keep ?_
    | refine ethDrop_keep ?_
    | refine laneOff_keep ?_
    | refine svcEnd_keep ?_
    | refine crdDark_keep ?_
    | refine tpcFollow_keep ?_
    | refine adcIdle_keep ?_
    | refine portOff_keep ?_
    | refine releaseNow_keep ?_
    | refine keep_ite ?_ (fun _ => ?_)
    | refine keep_foldl ?_ _ ?_
    | refine keep_foldl_snd ?_ _ ?_
    | intro _

theorem clkRestart_keep {s : State} (h : Keep m l k s0 s) : Keep m l k s0 (clkRestart s) := by
  unfold clkRestart
  repeat' with_reducible first
    | assumption
    | refine clkSet_keep ?_
    | refine clkGate_keep ?_
    | refine regInc_keep ?_

theorem execSynthLock_keep {us : Nat} {s : State} : KeepO false l k s (execSynthLock us s) := by
  have h := Keep.refl false l k s
  unfold execSynthLock
  repeat' with_reducible first
    | assumption
    | refine begin_keep ?_
    | refine raise_keep ?_
    | refine clkSet_keep ?_
    | refine leaveMd0_keep ?_
    | refine stamp_keep ?_
    | refine tpcFollow_keep ?_
    | refine adcRestart_keep ?_
    | refine domsEval_keep ?_
    | refine crdStart_keep ?_
    | refine settleAll_keep ?_
    | refine keep_ite ?_ (fun _ => ?_)
    | refine keepO_next ?_
    | refine keepO_ite ?_ ?_

theorem execSynthAcqTimeout_keep {s : State} : KeepO m l k s (execSynthAcqTimeout s) := by
  have h := Keep.refl m l k s
  unfold execSynthAcqTimeout
  repeat' with_reducible first
    | assumption
    | refine begin_keep ?_
    | refine raise_keep ?_
    | refine keep_ite ?_ (fun _ => ?_)
    | refine keepO_next ?_

theorem lossLog_keep {s : State} (h : Keep m l k s0 s) : Keep m l k s0 (lossLog s) := by
  unfold lossLog
  repeat' with_reducible first
    | assumption
    | refine logAt_keep ?_
    | refine clkSet_keep ?_
    | refine keep_ite ?_ (fun _ => ?_)

theorem clkLose_keep {s : State} {b : Nat} (h : Keep m l k s0 s) : Keep m l k s0 (clkLose s b) := by
  unfold clkLose
  repeat' with_reducible first
    | assumption
    | refine lossLog_keep ?_
    | refine stamp_keep ?_
    | refine regInc_keep ?_
    | refine setFlag_keep ?_
    | refine clkSet_keep ?_
    | refine clkGate_keep ?_
    | refine kindleStart_keep ?_
    | refine secSet_keep ?_
    | refine blockRelease_keep ?_
    | refine keep_ite ?_ (fun _ => ?_)

theorem execClockLoss_keep {ref : Bool} {s : State} : KeepO m l k s (execClockLoss ref s) := by
  have h := Keep.refl m l k s
  unfold execClockLoss
  repeat' with_reducible first
    | assumption
    | refine begin_keep ?_
    | refine setTrace_keep ?_
    | refine clkSet_keep ?_
    | refine redEval_keep ?_
    | refine clkLose_keep ?_
    | refine keep_ite ?_ (fun _ => ?_)
    | refine keepO_next ?_
    | refine keepO_ite ?_ ?_
    | refine keep_foldl ?_ _ ?_
    | refine keep_foldl_snd ?_ _ ?_
    | intro _

theorem execRefclkReturn_keep {s : State} : KeepO m l k s (execRefclkReturn s) := by
  have h := Keep.refl m l k s
  unfold execRefclkReturn
  repeat' with_reducible first
    | assumption
    | refine clkSet_keep ?_
    | refine begin_keep ?_
    | refine clkTry_keep ?_
    | refine keep_ite ?_ (fun _ => ?_)
    | refine keepO_next ?_

theorem clkWrite_keep {s : State} {pf : Pf} {a : Nat} {f : State → State} (hf : ∀ s, Keep m l k s0 s → Keep m l k s0 (f s)) (h : Keep m l k s0 s) : Keep m l k s0 (clkWrite s pf a f) := by
  unfold clkWrite
  repeat' with_reducible first
    | assumption
    | refine hf _ ?_
    | refine hostPf0_keep ?_ ?_
    | refine accessErr_keep ?_
    | refine raise_keep ?_
    | refine keep_ite ?_ (fun _ => ?_)
    | intro _

theorem execClkCfgWrite_keep {pf : Pf} {v : Word} {s : State} : KeepO m l k s (execClkCfgWrite pf v s) := by
  have h := Keep.refl m l k s
  unfold execClkCfgWrite
  repeat' with_reducible first
    | assumption
    | refine clkWrite_keep ?_ ?_
    | refine begin_keep ?_
    | refine redEval_keep ?_
    | refine clkRestart_keep ?_
    | refine regPut_keep ?_
    | refine keep_ite ?_ (fun _ => ?_)
    | refine keepO_next ?_
    | refine keepO_ite ?_ ?_
    | intro _

theorem execClkOutWrite_keep {pf : Pf} {k_1 : Fin 7} {v : Word} {s : State} : KeepO m l k s (execClkOutWrite pf k_1 v s) := by
  have h := Keep.refl m l k s
  unfold execClkOutWrite
  repeat' with_reducible first
    | assumption
    | refine clkWrite_keep ?_ ?_
    | refine begin_keep ?_
    | refine regPut_keep ?_
    | refine redEval_keep ?_
    | refine clkRestart_keep ?_
    | refine adcRestart_keep ?_
    | refine adcIdle_keep ?_
    | refine keep_ite ?_ (fun _ => ?_)
    | refine keepO_next ?_
    | refine keepO_ite ?_ ?_
    | intro _

theorem coreFault_keep {s : State} (h : Keep false false false s0 s) : Keep false false false s0 (coreFault s) := by
  unfold coreFault
  exact keep_ite (enterMd0_keep (freshBelow_keep (n := 2) h)) fun h1 => fioSet_keep h1

theorem execSupplyFault_keep {rail : Fin 12} {s : State} : KeepO false false false s (execSupplyFault rail s) := by
  have h := Keep.refl false false false s
  unfold execSupplyFault
  repeat' with_reducible first
    | assumption
    | refine begin_keep ?_
    | refine coreFault_keep ?_
    | refine enterMd0_keep ?_
    | refine keep_ite ?_ (fun _ => ?_)
    | refine keepO_next ?_
    | refine keepO_ite ?_ ?_
    | refine keep_mk ?_ rfl rfl rfl rfl rfl rfl rfl rfl

theorem execSupplyValid_keep {s : State} : KeepO m l k s (execSupplyValid s) := by
  have h := Keep.refl m l k s
  unfold execSupplyValid
  repeat' with_reducible first
    | assumption
    | refine begin_keep ?_
    | refine clkTry_keep ?_
    | refine keep_ite ?_ (fun _ => ?_)
    | refine keepO_next ?_
    | refine keepO_ite ?_ ?_
    | refine keep_mk ?_ rfl rfl rfl rfl rfl rfl rfl rfl

theorem execResetNLow_keep {s : State} : KeepO false false false s (execResetNLow s) := by
  have h := Keep.refl false false false s
  unfold execResetNLow
  repeat' with_reducible first
    | assumption
    | refine begin_keep ?_
    | refine enterMd0_keep ?_
    | refine keep_ite ?_ (fun _ => ?_)
    | refine keepO_next ?_
    | refine keepO_ite ?_ ?_
    | refine keep_mk ?_ rfl rfl rfl rfl rfl rfl rfl rfl

theorem execResetNRelease_keep {s : State} : KeepO m l k s (execResetNRelease s) := by
  have h := Keep.refl m l k s
  unfold execResetNRelease
  repeat' with_reducible first
    | assumption
    | refine begin_keep ?_
    | refine clkTry_keep ?_
    | refine keep_ite ?_ (fun _ => ?_)
    | refine keepO_next ?_
    | refine keepO_ite ?_ ?_
    | refine keep_mk ?_ rfl rfl rfl rfl rfl rfl rfl rfl

end Sys2Proof.Machine
end

