-- ==== Sys2Proof/Laws/KeepFrst.lean ====
section
/-!
SUPPORT. What every operation of Machine/Frst.lean keeps.
-/
namespace Sys2Proof.Machine
set_option Elab.async false

variable {m l k : Bool} {s0 : State}

/-- The registers of a function take their reset values. -/
theorem keep_regsFrst {s : State} (fn : Nat) (p : Nat → Bool) (h : Keep m l k s0 s) :
    Keep m l k s0 { s with regs := regsFrst fn p s.regs } :=
  ⟨h.queue, fun i => ⟨(h.inv i).1, tabWf_regsFrst _ _ (h.inv i).2.1, (h.inv i).2.2⟩, h.arc, h.mode, h.lock, h.tick⟩

theorem workFail_keep {s : State} {w : Nat} {op : Nat} {status : Nat} (h : Keep m l k s0 s) : Keep m l k s0 (workFail s w op status) := by
  unfold workFail
  repeat' with_reducible first
    | assumption
    | refine working_keep ?_ ?_
    | refine workerResult_keep ?_
    | refine keep_ite ?_ (fun _ => ?_)
    | intro _

theorem frstSys_keep {s : State} (h : Keep m l k s0 s) : Keep m l k s0 (frstSys s) := by
  unfold frstSys
  repeat' with_reducible first
    | assumption
    | refine saCancelAll_keep ?_
    | refine keep_ite ?_ (fun _ => ?_)
    | refine keep_mk ?_ rfl rfl rfl rfl rfl rfl rfl rfl

theorem frstClk_keep {s : State} (h : Keep m l k s0 s) : Keep m l k s0 (frstClk s) := by
  unfold frstClk
  repeat' with_reducible first
    | assumption
    | refine clkRestart_keep ?_
    | refine regPut_keep ?_

theorem frstRks_keep {s : State} (h : Keep m l k s0 s) : Keep m l k s0 (frstRks s) := by
  unfold frstRks
  dsimp only
  exact workFail_keep (keep_ite (keep_foldl_lt (fun s i hi h => rickTo_keep hi h) (memSet_keep ⟨rfl, rfl⟩ h))
    fun h1 => workFail_keep (workFail_keep h1))

theorem frstBlk_keep {s : State} (h : Keep m l k s0 s) : Keep m l k s0 (frstBlk s) := by
  unfold frstBlk
  repeat' with_reducible first
    | assumption
    | refine recBlkReset_keep ?_
    | refine memSet_keep ?_ ?_
    | refine devForget_keep ?_
    | refine keep_ite ?_ (fun _ => ?_)
    | exact ⟨rfl, rfl⟩

theorem frstSec_keep {s : State} (h : Keep m l k s0 s) : Keep m l k s0 (frstSec s) := by
  unfold frstSec
  repeat' with_reducible first
    | assumption
    | refine imgAbort_keep ?_
    | refine secSet_keep ?_
    | refine secFree_keep ?_
    | refine workFail_keep ?_

theorem frstFab_keep {s : State} (h : Keep m l k s0 s) : Keep m l k s0 (frstFab s) := by
  unfold frstFab
  repeat' with_reducible first
    | assumption
    | refine stageDrop_keep ?_
    | refine imgSet_keep ?_
    | refine imageFollow_keep ?_
    | refine keep_ite ?_ (fun _ => ?_)
    | refine keep_mk ?_ rfl rfl rfl rfl rfl rfl rfl rfl

theorem frstSwg_keep {s : State} (h : Keep m l k s0 s) : Keep m l k s0 (frstSwg s) := by
  unfold frstSwg
  repeat' with_reducible first
    | assumption
    | refine swgWait_keep ?_
    | refine keep_ite ?_ (fun _ => ?_)
    | refine keep_mk ?_ rfl rfl rfl rfl rfl rfl rfl rfl

theorem frstRdl_keep {s : State} (h : Keep m l k s0 s) : Keep m l k s0 (frstRdl s) := by
  unfold frstRdl
  repeat' with_reducible first
    | assumption
    | refine rdlGo_keep ?_
    | refine rdlClose_keep ?_
    | refine keep_ite ?_ (fun _ => ?_)
    | refine keep_mk ?_ rfl rfl rfl rfl rfl rfl rfl rfl

theorem frstEffect_keep {s : State} {fn : Nat} (h : Keep m l k s0 s) : Keep m l k s0 (frstEffect s fn) := by
  unfold frstEffect
  repeat' with_reducible first
    | assumption
    | refine frstSys_keep ?_
    | refine frstClk_keep ?_
    | refine timReset_keep ?_
    | refine ethReset_keep ?_
    | refine stkReset_keep ?_
    | refine frstRks_keep ?_
    | refine frstBlk_keep ?_
    | refine frstSec_keep ?_
    | refine frstFab_keep ?_
    | refine frstSwg_keep ?_
    | refine frstRdl_keep ?_
    | refine crdReset_keep ?_
    | refine redReset_keep ?_
    | refine ggdReset_keep ?_
    | refine pwmReset_keep ?_
    | refine adcReset_keep ?_
    | refine fltReset_keep ?_
    | refine recReset_keep ?_
    | refine fioReset_keep ?_
    | refine monReset_keep ?_
    | refine keep_ite ?_ (fun _ => ?_)
    | refine keep_of_snd (by assumption) ?_
    | refine keep_of_snd3 (by assumption) ?_
    | refine keep_of_fst (by assumption) ?_
    | split

theorem frstReact_keep {s : State} {fn : Nat} (h : Keep m l k s0 s) : Keep m l k s0 (frstReact s fn) := by
  unfold frstReact
  repeat' with_reducible first
    | assumption
    | refine blockRelease_keep ?_
    | refine keep_ite ?_ (fun _ => ?_)

theorem frstLog_keep {s : State} {fn : Nat} {outcome : Nat} (h : Keep m l k s0 s) : Keep m l k s0 (frstLog s fn outcome) := by
  unfold frstLog
  repeat' with_reducible first
    | assumption
    | refine logNow_keep ?_

theorem frstOne_keep {ok : Bool} {s : State} {fn : Nat} (h : Keep m l k s0 s) : Keep m l k s0 (frstOne ok s fn) := by
  unfold frstOne
  repeat' with_reducible first
    | assumption
    | refine frstLog_keep ?_
    | refine keep_regSet ?_
    | refine frstReact_keep ?_
    | refine frstEffect_keep ?_
    | refine regInc_keep ?_
    | refine tpcFollow_keep ?_
    | refine fioEval_keep ?_
    | refine keep_regsFrst _ _ ?_
    | refine keep_ite ?_ (fun _ => ?_)
    | refine keep_mk ?_ rfl rfl rfl rfl rfl rfl rfl rfl

theorem frstMask_keep {s : State} {mask : Nat} (h : Keep m l k s0 s) : Keep m l k s0 (frstMask s mask) := by
  unfold frstMask
  repeat' with_reducible first
    | assumption
    | refine frstOne_keep ?_
    | refine keep_ite ?_ (fun _ => ?_)
    | refine keep_foldl ?_ _ ?_
    | refine keep_foldl_snd ?_ _ ?_
    | intro _

theorem execFunctionReset_keep {pf : Pf} {v : Word} {s : State} : KeepO m l k s (execFunctionReset pf v s) := by
  have h := Keep.refl m l k s
  unfold execFunctionReset
  repeat' with_reducible first
    | assumption
    | refine hostPf0_keep ?_ ?_
    | refine begin_keep ?_
    | refine redEval_keep ?_
    | refine frstMask_keep ?_
    | refine keep_ite ?_ (fun _ => ?_)
    | refine keepO_next ?_
    | refine keepO_ite ?_ ?_
    | intro _
    | refine keep_mk ?_ rfl rfl rfl rfl rfl rfl rfl rfl

theorem frstHeld_keep {s : State} (h : Keep m l k s0 s) : Keep m l k s0 (frstHeld s) := by
  unfold frstHeld
  repeat' with_reducible first
    | assumption
    | refine redEval_keep ?_
    | refine frstMask_keep ?_
    | refine keep_ite ?_ (fun _ => ?_)
    | refine keep_mk ?_ rfl rfl rfl rfl rfl rfl rfl rfl

theorem frstReady_keep {s : State} {fn : Nat} (h : Keep m l k s0 s) : Keep m l k s0 (frstReady s fn) := by
  unfold frstReady
  repeat' with_reducible first
    | assumption
    | refine crdStart_keep ?_
    | refine redStart_keep ?_
    | refine stamp_keep ?_
    | refine settleAll_keep ?_
    | refine keep_ite ?_ (fun _ => ?_)

theorem execFunctionResetDone_keep {fn : Fin 23} {s : State} : KeepO m l k s (execFunctionResetDone fn s) := by
  have h := Keep.refl m l k s
  unfold execFunctionResetDone
  repeat' with_reducible first
    | assumption
    | refine begin_keep ?_
    | refine regPut_keep ?_
    | refine tpcFollow_keep ?_
    | refine fioEval_keep ?_
    | refine frstReady_keep ?_
    | refine keep_ite ?_ (fun _ => ?_)
    | refine keepO_next ?_
    | refine keepO_ite ?_ ?_
    | refine keep_mk ?_ rfl rfl rfl rfl rfl rfl rfl rfl

theorem execModeTransitionDone_keep {s : State} : KeepO m l k s (execModeTransitionDone s) := by
  have h := Keep.refl m l k s
  unfold execModeTransitionDone
  repeat' with_reducible first
    | assumption
    | refine begin_keep ?_
    | refine frstHeld_keep ?_
    | refine transDone_keep ?_
    | refine keep_ite ?_ (fun _ => ?_)
    | refine keepO_next ?_

end Sys2Proof.Machine
end

