-- ==== Sys2Proof/Laws/KeepFabRows.lean ====
section
/-!
SUPPORT. What every operation of Machine/FabRows.lean keeps.
-/
namespace Sys2Proof.Machine
set_option Elab.async false

variable {m l k : Bool} {s0 : State}

theorem fabFlag_keep {r : NodeRec} {s : State} {n : Nat} (h : Keep m l k s0 s) : Keep m l k s0 (fabFlag r s n) := by
  unfold fabFlag
  repeat' with_reducible first
    | assumption
    | refine setFlag_keep ?_
    | refine regInc_keep ?_
    | refine keep_ite ?_ (fun _ => ?_)
    | refine keep_of_snd (by assumption) ?_
    | refine keep_of_snd3 (by assumption) ?_
    | refine keep_of_fst (by assumption) ?_
    | split
    | dsimp only
    | refine keep_mk ?_ rfl rfl rfl rfl rfl rfl rfl rfl

theorem nodeReact_keep {r : NodeRec} {s : State} (h : Keep m l k s0 s) : Keep m l k s0 (nodeReact r s) := by
  unfold nodeReact
  repeat' with_reducible first
    | assumption
    | refine safeStop_keep ?_
    | refine blockRelease_keep ?_
    | refine keep_ite ?_ (fun _ => ?_)

theorem logNodeAct_keep {r : NodeRec} {s : State} {x : Nat × Nat} (h : Keep m l k s0 s) : Keep m l k s0 (logNodeAct r s x) := by
  unfold logNodeAct
  repeat' with_reducible first
    | assumption
    | refine logNow_keep ?_

theorem logSink_keep {r : NodeRec} {s : State} {w : SigW} (h : Keep m l k s0 s) : Keep m l k s0 (logSink r s w) := by
  unfold logSink
  repeat' with_reducible first
    | assumption
    | refine logNow_keep ?_

theorem fabApply_keep {s : State} {x : FabEvt} (h : Keep m l k s0 s) : Keep m l k s0 (fabApply s x) := by
  unfold fabApply
  repeat' with_reducible first
    | assumption
    | refine fabFlag_keep ?_
    | refine logNodeAct_keep ?_
    | refine logSink_keep ?_
    | refine nodeReact_keep ?_
    | refine keep_ite ?_ (fun _ => ?_)
    | refine keep_foldl ?_ _ ?_
    | refine keep_foldl_snd ?_ _ ?_
    | refine keep_of_snd (by assumption) ?_
    | refine keep_of_snd3 (by assumption) ?_
    | refine keep_of_fst (by assumption) ?_
    | intro _
    | split

theorem cellSet_keep {s : State} {id : Nat} {c : Cell} (h : Keep m l k s0 s) : Keep m l k s0 (cellSet s id c) := by
  unfold cellSet
  repeat' with_reducible first
    | assumption
    | refine keep_ite ?_ (fun _ => ?_)
    | refine keep_mk ?_ rfl rfl rfl rfl rfl rfl rfl rfl

theorem nodeLoses_keep {s : State} {r : NodeRec} {cause : Nat} (h : Keep m l k s0 s) : Keep m l k s0 (nodeLoses s r cause) := by
  unfold nodeLoses
  repeat' with_reducible first
    | assumption
    | refine fabApply_keep ?_
    | refine cellSet_keep ?_

theorem execNodeFeedbackLoss_keep {node : Fin 8192} {s : State} : KeepO m l k s (execNodeFeedbackLoss node s) := by
  have h := Keep.refl m l k s
  unfold execNodeFeedbackLoss
  repeat' with_reducible first
    | assumption
    | refine begin_keep ?_
    | refine nodeLoses_keep ?_
    | refine keep_ite ?_ (fun _ => ?_)
    | refine keepO_next ?_
    | refine keepO_ite ?_ ?_
    | refine keep_of_snd (by assumption) ?_
    | refine keep_of_snd3 (by assumption) ?_
    | refine keep_of_fst (by assumption) ?_
    | split

theorem execNodeFreeze_keep {node : Fin 8192} {s : State} : KeepO m l k s (execNodeFreeze node s) := by
  have h := Keep.refl m l k s
  unfold execNodeFreeze
  repeat' with_reducible first
    | assumption
    | refine begin_keep ?_
    | refine nodeLoses_keep ?_
    | refine keep_ite ?_ (fun _ => ?_)
    | refine keepO_next ?_
    | refine keepO_ite ?_ ?_
    | refine keep_of_snd (by assumption) ?_
    | refine keep_of_snd3 (by assumption) ?_
    | refine keep_of_fst (by assumption) ?_
    | split

theorem execNodeDownshift_keep {node : Fin 8192} {s : State} : KeepO m l k s (execNodeDownshift node s) := by
  have h := Keep.refl m l k s
  unfold execNodeDownshift
  repeat' with_reducible first
    | assumption
    | refine begin_keep ?_
    | refine cellSet_keep ?_
    | refine keep_ite ?_ (fun _ => ?_)
    | refine keepO_next ?_
    | refine keepO_ite ?_ ?_
    | refine keep_of_snd (by assumption) ?_
    | refine keep_of_snd3 (by assumption) ?_
    | refine keep_of_fst (by assumption) ?_
    | split

theorem execXformFillEnd_keep {node : Fin 8192} {s : State} : KeepO m l k s (execXformFillEnd node s) := by
  have h := Keep.refl m l k s
  unfold execXformFillEnd
  repeat' with_reducible first
    | assumption
    | refine begin_keep ?_
    | refine cellSet_keep ?_
    | refine keep_ite ?_ (fun _ => ?_)
    | refine keepO_next ?_
    | refine keepO_ite ?_ ?_
    | refine keep_of_snd (by assumption) ?_
    | refine keep_of_snd3 (by assumption) ?_
    | refine keep_of_fst (by assumption) ?_
    | split

theorem rdlHold_keep {s : State} (h : Keep m l k s0 s) : Keep m l k s0 (rdlHold s) := by
  unfold rdlHold
  repeat' with_reducible first
    | assumption
    | refine keep_ite ?_ (fun _ => ?_)
    | refine keep_mk ?_ rfl rfl rfl rfl rfl rfl rfl rfl

theorem overrunHold_keep {s : State} (h : Keep m l k s0 s) : Keep m l k s0 (overrunHold s) := by
  unfold overrunHold
  repeat' with_reducible first
    | assumption
    | refine rdlHold_keep ?_
    | refine keep_ite ?_ (fun _ => ?_)
    | refine keep_mk ?_ rfl rfl rfl rfl rfl rfl rfl rfl

theorem supplyWords_keep {s : State} {g : Swg} {r : Rdl} (h : Keep m l k s0 s) : Keep m l k s0 (supplyWords s g r) := by
  unfold supplyWords
  repeat' with_reducible first
    | assumption
    | refine keep_ite ?_ (fun _ => ?_)
    | refine keep_mk ?_ rfl rfl rfl rfl rfl rfl rfl rfl

theorem lsStat_keep {s : State} {r : NodeRec} (h : Keep m l k s0 s) : Keep m l k s0 (lsStat s r) := by
  unfold lsStat
  repeat' with_reducible first
    | assumption
    | refine regInc_keep ?_
    | refine regPut_keep ?_

theorem fabMismatch_keep {s : State} {r : NodeRec} (h : Keep m l k s0 s) : Keep m l k s0 (fabMismatch s r) := by
  unfold fabMismatch
  repeat' with_reducible first
    | assumption
    | refine freshBelow_keep ?_
    | refine supplyWords_keep ?_
    | refine overrunHold_keep ?_
    | refine nodeReact_keep ?_
    | refine lsStat_keep ?_
    | refine fabFlag_keep ?_
    | refine keep_ite ?_ (fun _ => ?_)
    | refine keep_of_snd (by assumption) ?_
    | refine keep_of_snd3 (by assumption) ?_
    | refine keep_of_fst (by assumption) ?_
    | split
    | dsimp only
    | refine keep_mk ?_ rfl rfl rfl rfl rfl rfl rfl rfl

theorem execFabLockstepMismatch_keep {node : Fin 8192} {s : State} : KeepO m l k s (execFabLockstepMismatch node s) := by
  have h := Keep.refl m l k s
  unfold execFabLockstepMismatch
  repeat' with_reducible first
    | assumption
    | refine begin_keep ?_
    | refine fabMismatch_keep ?_
    | refine keep_ite ?_ (fun _ => ?_)
    | refine keepO_next ?_
    | refine keepO_ite ?_ ?_
    | refine keep_of_snd (by assumption) ?_
    | refine keep_of_snd3 (by assumption) ?_
    | refine keep_of_fst (by assumption) ?_
    | split

theorem peekArmWrite_keep {s : State} {v : Word} (h : Keep m l k s0 s) : Keep m l k s0 (peekArmWrite s v) := by
  unfold peekArmWrite
  repeat' with_reducible first
    | assumption
    | refine regPut_keep ?_
    | refine keep_ite ?_ (fun _ => ?_)
    | refine keep_mk ?_ rfl rfl rfl rfl rfl rfl rfl rfl

theorem execPeekArm_keep {pf : Pf} {v : Word} {s : State} : KeepO m l k s (execPeekArm pf v s) := by
  have h := Keep.refl m l k s
  unfold execPeekArm
  repeat' with_reducible first
    | assumption
    | refine hostAccess_keep ?_ ?_
    | refine begin_keep ?_
    | refine peekArmWrite_keep ?_
    | refine keep_ite ?_ (fun _ => ?_)
    | refine keepO_next ?_
    | refine keepO_ite ?_ ?_
    | intro _

theorem peekLatch_keep {s : State} (h : Keep m l k s0 s) : Keep m l k s0 (peekLatch s) := by
  unfold peekLatch
  repeat' with_reducible first
    | assumption
    | refine keep_ite ?_ (fun _ => ?_)
    | refine keep_of_snd (by assumption) ?_
    | refine keep_of_snd3 (by assumption) ?_
    | refine keep_of_fst (by assumption) ?_
    | split
    | dsimp only
    | refine keep_mk ?_ rfl rfl rfl rfl rfl rfl rfl rfl

theorem execPeekStatRead_keep {pf : Pf} {s : State} : KeepO m l k s (execPeekStatRead pf s) := by
  have h := Keep.refl m l k s
  unfold execPeekStatRead
  repeat' with_reducible first
    | assumption
    | refine hostRead_keep ?_ ?_
    | refine begin_keep ?_
    | refine peekLatch_keep ?_
    | refine keep_ite ?_ (fun _ => ?_)
    | refine keepO_next ?_
    | refine keepO_ite ?_ ?_
    | intro _
    | refine keep_mk ?_ rfl rfl rfl rfl rfl rfl rfl rfl

end Sys2Proof.Machine
end

