-- ==== Sys2Proof/Laws/KeepSwgRows.lean ====
section
/-!
SUPPORT. What every operation of Machine/SwgRows.lean keeps.
-/
namespace Sys2Proof.Machine
set_option Elab.async false

variable {m l k : Bool} {s0 : State}

theorem swgBoth_keep {f : Swg → Swg} {s : State} (h : Keep m l k s0 s) : Keep m l k s0 (swgBoth f s) := by
  unfold swgBoth
  repeat' with_reducible first
    | assumption
    | refine keep_ite ?_ (fun _ => ?_)
    | refine keep_mk ?_ rfl rfl rfl rfl rfl rfl rfl rfl

theorem execTrackerLock_keep {grid : Bool} {s : State} : KeepO m l k s (execTrackerLock grid s) := by
  have h := Keep.refl m l k s
  unfold execTrackerLock
  repeat' with_reducible first
    | assumption
    | refine begin_keep ?_
    | refine swgBoth_keep ?_
    | refine keep_ite ?_ (fun _ => ?_)
    | refine keepO_next ?_

theorem execEnergyHoldEnd_keep {s : State} : KeepO m l k s (execEnergyHoldEnd s) := by
  have h := Keep.refl m l k s
  unfold execEnergyHoldEnd
  repeat' with_reducible first
    | assumption
    | refine begin_keep ?_
    | refine raise_keep ?_
    | refine swgBoth_keep ?_
    | refine keep_ite ?_ (fun _ => ?_)
    | refine keepO_next ?_

theorem execSyncHoldDone_keep {s : State} : KeepO m l k s (execSyncHoldDone s) := by
  have h := Keep.refl m l k s
  unfold execSyncHoldDone
  repeat' with_reducible first
    | assumption
    | refine begin_keep ?_
    | refine saBreaker_keep ?_
    | refine swgBoth_keep ?_
    | refine keep_ite ?_ (fun _ => ?_)
    | refine keepO_next ?_
    | refine keepO_ite ?_ ?_
    | refine keep_of_snd (by assumption) ?_
    | refine keep_of_snd3 (by assumption) ?_
    | refine keep_of_fst (by assumption) ?_
    | split

theorem execCloseWindowExpire_keep {s : State} : KeepO m l k s (execCloseWindowExpire s) := by
  have h := Keep.refl m l k s
  unfold execCloseWindowExpire
  repeat' with_reducible first
    | assumption
    | refine begin_keep ?_
    | refine swgBoth_keep ?_
    | refine swgEffect_keep ?_
    | refine keep_ite ?_ (fun _ => ?_)
    | refine keepO_next ?_
    | refine keepO_ite ?_ ?_
    | refine keep_foldl ?_ _ ?_
    | refine keep_foldl_snd ?_ _ ?_
    | intro _

theorem execIslandDetected_keep {s : State} : KeepO m l k s (execIslandDetected s) := by
  have h := Keep.refl m l k s
  unfold execIslandDetected
  repeat' with_reducible first
    | assumption
    | refine begin_keep ?_
    | refine swgEffect_keep ?_
    | refine swgBoth_keep ?_
    | refine keep_ite ?_ (fun _ => ?_)
    | refine keepO_next ?_

theorem execSwgInputHoldEnd_keep {ep : Fin 16} {s : State} : KeepO m l k s (execSwgInputHoldEnd ep s) := by
  have h := Keep.refl m l k s
  unfold execSwgInputHoldEnd
  repeat' with_reducible first
    | assumption
    | refine begin_keep ?_
    | refine swgBoth_keep ?_
    | refine swgEffect_keep ?_
    | refine keep_ite ?_ (fun _ => ?_)
    | refine keepO_next ?_

theorem execSwgInputLossLimit_keep {ep : Fin 16} {s : State} : KeepO m l k s (execSwgInputLossLimit ep s) := by
  have h := Keep.refl m l k s
  unfold execSwgInputLossLimit
  repeat' with_reducible first
    | assumption
    | refine begin_keep ?_
    | refine swgEffect_keep ?_
    | refine keep_ite ?_ (fun _ => ?_)
    | refine keepO_next ?_

theorem execSwgLockstepMismatch_keep {s : State} : KeepO m l k s (execSwgLockstepMismatch s) := by
  have h := Keep.refl m l k s
  unfold execSwgLockstepMismatch
  repeat' with_reducible first
    | assumption
    | refine begin_keep ?_
    | refine supplyWords_keep ?_
    | refine overrunHold_keep ?_
    | refine swgWait_keep ?_
    | refine raise_keep ?_
    | refine swgEffect_keep ?_
    | refine keep_ite ?_ (fun _ => ?_)
    | refine keepO_next ?_
    | refine keepO_ite ?_ ?_
    | refine keep_mk ?_ rfl rfl rfl rfl rfl rfl rfl rfl

theorem snapArmWrite_keep {s : State} {v : Word} (h : Keep m l k s0 s) : Keep m l k s0 (snapArmWrite s v) := by
  unfold snapArmWrite
  repeat' with_reducible first
    | assumption
    | refine swgBoth_keep ?_
    | refine keep_ite ?_ (fun _ => ?_)

theorem execSwgSnapArm_keep {pf : Pf} {v : Word} {s : State} : KeepO m l k s (execSwgSnapArm pf v s) := by
  have h := Keep.refl m l k s
  unfold execSwgSnapArm
  repeat' with_reducible first
    | assumption
    | refine hostAccess_keep ?_ ?_
    | refine begin_keep ?_
    | refine snapArmWrite_keep ?_
    | refine keep_ite ?_ (fun _ => ?_)
    | refine keepO_next ?_
    | refine keepO_ite ?_ ?_
    | intro _

theorem snapLatch_keep {s : State} (h : Keep m l k s0 s) : Keep m l k s0 (snapLatch s) := by
  unfold snapLatch
  repeat' with_reducible first
    | assumption
    | refine swgBoth_keep ?_
    | refine keep_ite ?_ (fun _ => ?_)
    | refine keep_of_snd (by assumption) ?_
    | refine keep_of_snd3 (by assumption) ?_
    | refine keep_of_fst (by assumption) ?_
    | split

theorem execSwgSnapStatRead_keep {pf : Pf} {s : State} : KeepO m l k s (execSwgSnapStatRead pf s) := by
  have h := Keep.refl m l k s
  unfold execSwgSnapStatRead
  repeat' with_reducible first
    | assumption
    | refine hostRead_keep ?_ ?_
    | refine begin_keep ?_
    | refine snapLatch_keep ?_
    | refine keep_ite ?_ (fun _ => ?_)
    | refine keepO_next ?_
    | refine keepO_ite ?_ ?_
    | intro _
    | refine keep_mk ?_ rfl rfl rfl rfl rfl rfl rfl rfl

end Sys2Proof.Machine
end

