-- ==== Sys2Proof/Laws/KeepRdlRows.lean ====
section
/-!
SUPPORT. What every operation of Machine/RdlRows.lean keeps.
-/
namespace Sys2Proof.Machine
set_option Elab.async false

variable {m l k : Bool} {s0 : State}

theorem execSmMeasLoss_keep {arm : Fin 6} {sm : Fin 512} {s : State} : KeepO m l k s (execSmMeasLoss arm sm s) := by
  have h := Keep.refl m l k s
  unfold execSmMeasLoss
  repeat' with_reducible first
    | assumption
    | refine begin_keep ?_
    | refine rdlGo_keep ?_
    | refine keep_ite ?_ (fun _ => ?_)
    | refine keepO_next ?_

theorem failRes_keep {s : State} {st : Nat} (h : Keep m l k s0 s) : Keep m l k s0 (failRes s st) := by
  unfold failRes
  repeat' with_reducible first
    | assumption
    | refine rdlBoth_keep ?_

theorem failWrite_keep {s : State} {key : Nat} {cmd : Nat} {arm : Nat} {sm : Nat} (h : Keep m l k s0 s) : Keep m l k s0 (failWrite s key cmd arm sm) := by
  unfold failWrite
  repeat' with_reducible first
    | assumption
    | refine failRes_keep ?_
    | refine rdlBoth_keep ?_
    | refine keep_ite ?_ (fun _ => ?_)

theorem execSmSet_keep {pf : Pf} {key : BitVec 16} {arm : Fin 8} {sm : Fin 512} {s : State} : KeepO m l k s (execSmSet pf key arm sm s) := by
  have h := Keep.refl m l k s
  unfold execSmSet
  repeat' with_reducible first
    | assumption
    | refine hostPf0_keep ?_ ?_
    | refine begin_keep ?_
    | refine failWrite_keep ?_
    | refine keep_ite ?_ (fun _ => ?_)
    | refine keepO_next ?_
    | refine keepO_ite ?_ ?_
    | intro _

theorem execSmClear_keep {pf : Pf} {key : BitVec 16} {arm : Fin 8} {sm : Fin 512} {s : State} : KeepO m l k s (execSmClear pf key arm sm s) := by
  have h := Keep.refl m l k s
  unfold execSmClear
  repeat' with_reducible first
    | assumption
    | refine hostPf0_keep ?_ ?_
    | refine begin_keep ?_
    | refine failWrite_keep ?_
    | refine keep_ite ?_ (fun _ => ?_)
    | refine keepO_next ?_
    | refine keepO_ite ?_ ?_
    | intro _

theorem execSmClearArm_keep {pf : Pf} {key : BitVec 16} {arm : Fin 8} {s : State} : KeepO m l k s (execSmClearArm pf key arm s) := by
  have h := Keep.refl m l k s
  unfold execSmClearArm
  repeat' with_reducible first
    | assumption
    | refine hostPf0_keep ?_ ?_
    | refine begin_keep ?_
    | refine failWrite_keep ?_
    | refine keep_ite ?_ (fun _ => ?_)
    | refine keepO_next ?_
    | refine keepO_ite ?_ ?_
    | intro _

theorem limitEnd_keep {s : State} {n : Nat} {a : Nat} (h : Keep m l k s0 s) : Keep m l k s0 (limitEnd s n a) := by
  unfold limitEnd
  repeat' with_reducible first
    | assumption
    | refine raise_keep ?_
    | refine blockRelease_keep ?_
    | refine keep_ite ?_ (fun _ => ?_)

theorem armBoth_keep {a : Nat} {f : Arm → Arm} {s : State} (h : Keep m l k s0 s) : Keep m l k s0 (armBoth a f s) := by
  unfold armBoth
  repeat' with_reducible first
    | assumption
    | refine rdlBoth_keep ?_

theorem execDemLossLimit_keep {arm : Fin 6} {s : State} : KeepO m l k s (execDemLossLimit arm s) := by
  have h := Keep.refl m l k s
  unfold execDemLossLimit
  repeat' with_reducible first
    | assumption
    | refine begin_keep ?_
    | refine armBoth_keep ?_
    | refine limitEnd_keep ?_
    | refine keep_ite ?_ (fun _ => ?_)
    | refine keepO_next ?_

theorem execArmCurrentLossLimit_keep {arm : Fin 6} {s : State} : KeepO m l k s (execArmCurrentLossLimit arm s) := by
  have h := Keep.refl m l k s
  unfold execArmCurrentLossLimit
  repeat' with_reducible first
    | assumption
    | refine begin_keep ?_
    | refine armBoth_keep ?_
    | refine limitEnd_keep ?_
    | refine keep_ite ?_ (fun _ => ?_)
    | refine keepO_next ?_

theorem execUplinkHoldEnd_keep {arm : Fin 6} {s : State} : KeepO m l k s (execUplinkHoldEnd arm s) := by
  have h := Keep.refl m l k s
  unfold execUplinkHoldEnd
  repeat' with_reducible first
    | assumption
    | refine begin_keep ?_
    | refine armBoth_keep ?_
    | refine rdlGo_keep ?_
    | refine keep_ite ?_ (fun _ => ?_)
    | refine keepO_next ?_
    | refine keepO_ite ?_ ?_
    | refine keep_mk ?_ rfl rfl rfl rfl rfl rfl rfl rfl

theorem execUplinkLossLimit_keep {arm : Fin 6} {s : State} : KeepO m l k s (execUplinkLossLimit arm s) := by
  have h := Keep.refl m l k s
  unfold execUplinkLossLimit
  repeat' with_reducible first
    | assumption
    | refine begin_keep ?_
    | refine armBoth_keep ?_
    | refine limitEnd_keep ?_
    | refine keep_ite ?_ (fun _ => ?_)
    | refine keepO_next ?_

theorem execRdlLockstepMismatch_keep {s : State} : KeepO m l k s (execRdlLockstepMismatch s) := by
  have h := Keep.refl m l k s
  unfold execRdlLockstepMismatch
  repeat' with_reducible first
    | assumption
    | refine begin_keep ?_
    | refine rdlBoth_keep ?_
    | refine rdlHold_keep ?_
    | refine limitEnd_keep ?_
    | refine keep_ite ?_ (fun _ => ?_)
    | refine keepO_next ?_
    | refine keepO_ite ?_ ?_
    | refine keep_mk ?_ rfl rfl rfl rfl rfl rfl rfl rfl

theorem idStatus_keep {s : State} {st : Nat} (h : Keep m l k s0 s) : Keep m l k s0 (idStatus s st) := by
  unfold idStatus
  repeat' with_reducible first
    | assumption
    | refine rdlBoth_keep ?_

theorem idWrite_keep {s : State} {key : Nat} {cmd : Nat} {leg : Nat} (h : Keep m l k s0 s) : Keep m l k s0 (idWrite s key cmd leg) := by
  unfold idWrite
  repeat' with_reducible first
    | assumption
    | refine idStatus_keep ?_
    | refine rdlGo_keep ?_
    | refine rdlBoth_keep ?_
    | refine keep_ite ?_ (fun _ => ?_)

theorem execCapRunStart_keep {pf : Pf} {key : BitVec 16} {s : State} : KeepO m l k s (execCapRunStart pf key s) := by
  have h := Keep.refl m l k s
  unfold execCapRunStart
  repeat' with_reducible first
    | assumption
    | refine hostPf0_keep ?_ ?_
    | refine begin_keep ?_
    | refine idWrite_keep ?_
    | refine keep_ite ?_ (fun _ => ?_)
    | refine keepO_next ?_
    | refine keepO_ite ?_ ?_
    | intro _

theorem execIndRunStart_keep {pf : Pf} {key : BitVec 16} {leg : Fin 4} {s : State} : KeepO m l k s (execIndRunStart pf key leg s) := by
  have h := Keep.refl m l k s
  unfold execIndRunStart
  repeat' with_reducible first
    | assumption
    | refine hostPf0_keep ?_ ?_
    | refine begin_keep ?_
    | refine idWrite_keep ?_
    | refine keep_ite ?_ (fun _ => ?_)
    | refine keepO_next ?_
    | refine keepO_ite ?_ ?_
    | intro _

theorem execIdRunAbort_keep {pf : Pf} {key : BitVec 16} {s : State} : KeepO m l k s (execIdRunAbort pf key s) := by
  have h := Keep.refl m l k s
  unfold execIdRunAbort
  repeat' with_reducible first
    | assumption
    | refine hostPf0_keep ?_ ?_
    | refine begin_keep ?_
    | refine idWrite_keep ?_
    | refine keep_ite ?_ (fun _ => ?_)
    | refine keepO_next ?_
    | refine keepO_ite ?_ ?_
    | intro _

theorem execIdStatRead_keep {pf : Pf} {s : State} : KeepO m l k s (execIdStatRead pf s) := by
  have h := Keep.refl m l k s
  unfold execIdStatRead
  repeat' with_reducible first
    | assumption
    | refine hostRead_keep ?_ ?_
    | refine begin_keep ?_
    | refine rdlBoth_keep ?_
    | refine keep_ite ?_ (fun _ => ?_)
    | refine keepO_next ?_
    | refine keepO_ite ?_ ?_
    | intro _
    | refine keep_mk ?_ rfl rfl rfl rfl rfl rfl rfl rfl

theorem smSelWrite_keep {s : State} {v : Word} (h : Keep m l k s0 s) : Keep m l k s0 (smSelWrite s v) := by
  unfold smSelWrite
  repeat' with_reducible first
    | assumption
    | refine rdlBoth_keep ?_
    | refine regPut_keep ?_

theorem execSmCaptureArm_keep {pf : Pf} {v : Word} {s : State} : KeepO m l k s (execSmCaptureArm pf v s) := by
  have h := Keep.refl m l k s
  unfold execSmCaptureArm
  repeat' with_reducible first
    | assumption
    | refine hostAccess_keep ?_ ?_
    | refine begin_keep ?_
    | refine smSelWrite_keep ?_
    | refine keep_ite ?_ (fun _ => ?_)
    | refine keepO_next ?_
    | refine keepO_ite ?_ ?_
    | intro _

theorem smLatch_keep {s : State} (h : Keep m l k s0 s) : Keep m l k s0 (smLatch s) := by
  unfold smLatch
  repeat' with_reducible first
    | assumption
    | refine rdlBoth_keep ?_
    | refine keep_ite ?_ (fun _ => ?_)
    | refine keep_of_snd (by assumption) ?_
    | refine keep_of_snd3 (by assumption) ?_
    | refine keep_of_fst (by assumption) ?_
    | split

theorem execSmStatRead_keep {pf : Pf} {s : State} : KeepO m l k s (execSmStatRead pf s) := by
  have h := Keep.refl m l k s
  unfold execSmStatRead
  repeat' with_reducible first
    | assumption
    | refine hostRead_keep ?_ ?_
    | refine begin_keep ?_
    | refine smLatch_keep ?_
    | refine keep_ite ?_ (fun _ => ?_)
    | refine keepO_next ?_
    | refine keepO_ite ?_ ?_
    | intro _
    | refine keep_mk ?_ rfl rfl rfl rfl rfl rfl rfl rfl

theorem execPreBypConfExpire_keep {s : State} : KeepO m l k s (execPreBypConfExpire s) := by
  have h := Keep.refl m l k s
  unfold execPreBypConfExpire
  repeat' with_reducible first
    | assumption
    | refine begin_keep ?_
    | refine preGoes_keep ?_
    | refine keep_ite ?_ (fun _ => ?_)
    | refine keepO_next ?_

theorem execPreSettleDone_keep {s : State} : KeepO m l k s (execPreSettleDone s) := by
  have h := Keep.refl m l k s
  unfold execPreSettleDone
  repeat' with_reducible first
    | assumption
    | refine begin_keep ?_
    | refine preGoes_keep ?_
    | refine keep_ite ?_ (fun _ => ?_)
    | refine keepO_next ?_

theorem execPreOutputRelease_keep {s : State} : KeepO m l k s (execPreOutputRelease s) := by
  have h := Keep.refl m l k s
  unfold execPreOutputRelease
  repeat' with_reducible first
    | assumption
    | refine begin_keep ?_
    | refine preGoes_keep ?_
    | refine keep_ite ?_ (fun _ => ?_)
    | refine keepO_next ?_

end Sys2Proof.Machine
end

