-- ==== Sys2Proof/Laws/KeepHostIf.lean ====
section
/-!
SUPPORT. What every operation of Machine/HostIf.lean keeps.
-/
namespace Sys2Proof.Machine
set_option Elab.async false

variable {m l k : Bool} {s0 : State}

theorem hifSet_keep {s : State} {f : Hif → Hif} (h : Keep m l k s0 s) : Keep m l k s0 (hifSet s f) := by
  unfold hifSet
  repeat' with_reducible first
    | assumption
    | refine keep_ite ?_ (fun _ => ?_)
    | refine keep_mk ?_ rfl rfl rfl rfl rfl rfl rfl rfl

theorem dmaGone_keep {s : State} {pf : Pf} (h : Keep m l k s0 s) : Keep m l k s0 (dmaGone s pf) := by
  unfold dmaGone
  repeat' with_reducible first
    | assumption
    | refine loadFail_keep ?_
    | refine ucEnd_keep ?_
    | refine rcvEnd_keep ?_
    | refine readDone_keep ?_
    | refine keep_ite ?_ (fun _ => ?_)

theorem dmaEnd_keep {s : State} {u : DmaUser} (h : Keep m l k s0 s) : Keep m l k s0 (dmaEnd s u) := by
  unfold dmaEnd
  repeat' with_reducible first
    | assumption
    | refine loadFail_keep ?_
    | refine ucEnd_keep ?_
    | refine rcvEnd_keep ?_
    | refine readDone_keep ?_
    | refine ringHalt_keep ?_
    | refine workerResult_keep ?_
    | refine keep_ite ?_ (fun _ => ?_)
    | refine keep_of_snd (by assumption) ?_
    | refine keep_of_snd3 (by assumption) ?_
    | refine keep_of_fst (by assumption) ?_
    | split

theorem execDmaError_keep {u : DmaUser} {s : State} : KeepO m l k s (execDmaError u s) := by
  have h := Keep.refl m l k s
  unfold execDmaError
  repeat' with_reducible first
    | assumption
    | refine begin_keep ?_
    | refine raise_keep ?_
    | refine dmaEnd_keep ?_
    | refine keep_ite ?_ (fun _ => ?_)
    | refine keepO_next ?_

theorem pfReset_keep {s : State} {pf : Pf} (h : Keep m l k s0 s) : Keep m l k s0 (pfReset s pf) := by
  unfold pfReset
  repeat' with_reducible first
    | assumption
    | refine setPf_keep ?_
    | refine stamp_keep ?_
    | refine ringsDrop_keep ?_
    | refine dmaGone_keep ?_

theorem execPcieFlr_keep {pf : Pf} {s : State} : KeepO m l k s (execPcieFlr pf s) := by
  have h := Keep.refl m l k s
  unfold execPcieFlr
  repeat' with_reducible first
    | assumption
    | refine begin_keep ?_
    | refine regInc_keep ?_
    | refine pfReset_keep ?_
    | refine raise_keep ?_
    | refine keep_ite ?_ (fun _ => ?_)
    | refine keepO_next ?_

theorem execPcieLinkDown_keep {s : State} : KeepO m l k s (execPcieLinkDown s) := by
  have h := Keep.refl m l k s
  unfold execPcieLinkDown
  repeat' with_reducible first
    | assumption
    | refine begin_keep ?_
    | refine hifSet_keep ?_
    | refine regInc_keep ?_
    | refine pfReset_keep ?_
    | refine keep_ite ?_ (fun _ => ?_)
    | refine keepO_next ?_

theorem execPcieLinkUp_keep {gen : Fin 4} {width : Fin 3} {s : State} : KeepO m l k s (execPcieLinkUp gen width s) := by
  have h := Keep.refl m l k s
  unfold execPcieLinkUp
  repeat' with_reducible first
    | assumption
    | refine begin_keep ?_
    | refine raise_keep ?_
    | refine hifSet_keep ?_
    | refine keep_ite ?_ (fun _ => ?_)
    | refine keepO_next ?_

theorem linkCtlWrite_keep {s : State} {v : Word} (h : Keep m l k s0 s) : Keep m l k s0 (linkCtlWrite s v) := by
  unfold linkCtlWrite
  repeat' with_reducible first
    | assumption
    | refine regPut_keep ?_
    | refine freshBelow_keep ?_
    | refine hifSet_keep ?_
    | refine keep_ite ?_ (fun _ => ?_)

theorem execLinkRetrain_keep {pf : Pf} {v : Word} {s : State} : KeepO m l k s (execLinkRetrain pf v s) := by
  have h := Keep.refl m l k s
  unfold execLinkRetrain
  repeat' with_reducible first
    | assumption
    | refine hostPf0_keep ?_ ?_
    | refine begin_keep ?_
    | refine linkCtlWrite_keep ?_
    | refine keep_ite ?_ (fun _ => ?_)
    | refine keepO_next ?_
    | refine keepO_ite ?_ ?_
    | intro _

theorem execConfigSpaceWrite_keep {pf : Pf} {f : CfgField} {s : State} : KeepO m l k s (execConfigSpaceWrite pf f s) := by
  have h := Keep.refl m l k s
  unfold execConfigSpaceWrite
  repeat' with_reducible first
    | assumption
    | refine begin_keep ?_
    | refine setPf_keep ?_
    | refine unsupported_keep ?_
    | refine keep_ite ?_ (fun _ => ?_)
    | refine keepO_next ?_

theorem execMsixUnmask_keep {pf : Pf} {vec : Fin 64} {s : State} : KeepO m l k s (execMsixUnmask pf vec s) := by
  have h := Keep.refl m l k s
  unfold execMsixUnmask
  repeat' with_reducible first
    | assumption
    | refine begin_keep ?_
    | refine setPf_keep ?_
    | refine send_keep ?_
    | refine unsupported_keep ?_
    | refine keep_ite ?_ (fun _ => ?_)
    | refine keepO_next ?_

end Sys2Proof.Machine
end

