-- ==== Sys2Proof/Laws/KeepTick.lean ====
section
/-!
SUPPORT. What every operation of Machine/Tick.lean keeps.
-/
namespace Sys2Proof.Machine
set_option Elab.async false

variable {m l k : Bool} {s0 : State}

theorem aonTime_keep {s : State} {ns : Nat} (h : Keep m l k s0 s) : Keep m l k s0 (aonTime s ns) := by
  unfold aonTime
  dsimp only
  refine proofTime_keep (redSet_keep ?_)
  split
  · exact h
  · exact secSet_keep h

theorem timeTo_keep {s : State} {b : Nat} (h : Keep m l false s0 s) : Keep m l false s0 (timeTo s b) := by
  have h1 : ∀ {t : State} {f : Sys → Sys}, Keep m l false s0 t → (f t.sys).mode = t.sys.mode → Keep m l false s0 (sysSet t f) :=
    fun h e => ⟨h.queue, h.inv, h.arc, fun i => by rcases h.mode i with g | g
                                                   · exact .inl (e.trans g)
                                                   · exact .inr (e.trans g), h.lock, nofun⟩
  unfold timeTo
  dsimp only
  exact aonTime_keep (h1 (timAdvance_keep h) rfl)

theorem takeTime_keep {s : State} (h : Keep m l k s0 s) : Keep m l k s0 (takeTime s) := by
  unfold takeTime
  repeat' with_reducible first
    | assumption
    | refine redSet_keep ?_
    | refine keep_regSet ?_
    | refine keep_ite ?_ (fun _ => ?_)

theorem firstOut_keep {s : State} (h : Keep m l k s0 s) : Keep m l k s0 (firstOut s) := by
  unfold firstOut
  repeat' with_reducible first
    | assumption
    | refine transDone_keep ?_
    | refine keep_ite ?_ (fun _ => ?_)

theorem afterBlock_keep {s : State} (h : Keep m l k s0 s) : Keep m l k s0 (afterBlock s) := by
  unfold afterBlock
  repeat' with_reducible first
    | assumption
    | refine releaseNow_keep ?_
    | refine sysSet_keep ?_ ?_
    | refine bankDown_keep ?_
    | refine keep_ite ?_ (fun _ => ?_)
    | exact ⟨rfl, rfl, rfl⟩

theorem framesLeave_keep {s : State} {idx : Nat} {build : List (Fin 48)} {offs : List (Fin 48)} (h : Keep m l k s0 s) : Keep m l k s0 (framesLeave s idx build offs) := by
  unfold framesLeave
  repeat' with_reducible first
    | assumption
    | refine snapCapture_keep ?_
    | refine crdFrames_keep ?_
    | refine sysSet_keep ?_ ?_
    | refine firstOut_keep ?_
    | refine takeTime_keep ?_
    | refine afterBlock_keep ?_
    | refine keep_ite ?_ (fun _ => ?_)
    | exact ⟨rfl, rfl, rfl⟩

theorem restoreVoted_keep {s : State} {r : Option Row} (h : Keep m l k s0 s) : Keep m l k s0 (restoreVoted s r) := by
  unfold restoreVoted
  repeat' with_reducible first
    | assumption
    | refine restoreApply_keep ?_
    | refine keep_ite ?_ (fun _ => ?_)
    | refine keep_of_snd (by assumption) ?_
    | refine keep_of_snd3 (by assumption) ?_
    | refine keep_of_fst (by assumption) ?_
    | split

theorem takeToken_keep {s : State} (h : Keep m l k s0 s) : Keep m l k s0 (takeToken s) := by
  unfold takeToken
  repeat' with_reducible first
    | assumption
    | refine singleTake_keep ?_
    | refine redSet_keep ?_
    | refine keep_ite ?_ (fun _ => ?_)

theorem skewFollow_keep {old : Image} {s : State} (h : Keep m l k s0 s) : Keep m l k s0 (skewFollow old s) := by
  unfold skewFollow
  repeat' with_reducible first
    | assumption
    | refine keep_ite ?_ (fun _ => ?_)
    | refine keep_mk ?_ rfl rfl rfl rfl rfl rfl rfl rfl

theorem swgLimits_keep {s : State} {tPrev : Nat} (h : Keep m l k s0 s) : Keep m l k s0 (swgLimits s tPrev) := by
  unfold swgLimits
  repeat' with_reducible first
    | assumption
    | refine blockRelease_keep ?_
    | refine keep_ite ?_ (fun _ => ?_)

theorem claimPrevails_keep {s : State} (h : Keep m l k s0 s) : Keep m l k s0 (claimPrevails s) := by
  unfold claimPrevails
  dsimp only
  split
  · exact h
  have h0 : Keep m l k s0 (sysSet s (fun y => { y with requests := [], held := none })) := sysSet_keep ⟨rfl, rfl, rfl⟩ h
  have h1 := keep_foldl_fst (f := requestCand) (fun _ _ => requestCand_keep) (voteRequests s)
    (p := (sysSet s (fun y => { y with requests := [], held := none }), ([] : List Cand))) h0
  revert h1
  generalize List.foldl requestCand _ _ = p
  intro h1
  obtain ⟨t, cs⟩ := p
  refine keep_foldl (fun s c h => ?_) cs h1
  split
  · exact reqStatus_keep h
  · exact h

theorem boundaryVote_keep {s : State} {tPrev : Nat} {partner : Bool} (h : Keep false l k s0 s) : Keep false l k s0 (boundaryVote s tPrev partner) := by
  unfold boundaryVote
  dsimp only
  refine takeToken_keep (tmrResync_keep (frstHeld_keep (saModes_keep (saParams_keep (skewFollow_keep ?_)))))
  have h1 := saCommits_keep (l_1 := (saRun s tPrev s.sys.bound).commit) (abandon := abandons (vote (saRun s tPrev s.sys.bound).st).2)
    (restoreVoted_keep (r := (vote (saRun s tPrev s.sys.bound).st).2) (vote_keep (saRun_keep (tPrev := tPrev) (t := s.sys.bound) h)))
  exact keep_ite h1 fun h2 => partnerCommit_keep h2

theorem skewTick_keep {s : State} (h : Keep m l k s0 s) : Keep m l k s0 (skewTick s) := by
  unfold skewTick
  repeat' with_reducible first
    | assumption
    | refine setFlag_keep ?_
    | refine keep_ite ?_ (fun _ => ?_)
    | refine keep_foldl ?_ _ ?_
    | refine keep_foldl_snd ?_ _ ?_
    | refine keep_of_snd (by assumption) ?_
    | refine keep_of_snd3 (by assumption) ?_
    | refine keep_of_fst (by assumption) ?_
    | intro _
    | split
    | dsimp only
    | refine keep_mk ?_ rfl rfl rfl rfl rfl rfl rfl rfl

theorem peekTake_keep {env : FabEnv} {ph : Nat} {s : State} (h : Keep m l k s0 s) : Keep m l k s0 (peekTake env ph s) := by
  unfold peekTake
  repeat' with_reducible first
    | assumption
    | refine keep_ite ?_ (fun _ => ?_)
    | refine keep_of_snd (by assumption) ?_
    | refine keep_of_snd3 (by assumption) ?_
    | refine keep_of_fst (by assumption) ?_
    | split
    | dsimp only
    | refine keep_mk ?_ rfl rfl rfl rfl rfl rfl rfl rfl

theorem fabPhase_keep {s : State} {ph : Nat} (h : Keep m l k s0 s) : Keep m l k s0 (fabPhase s ph) := by
  unfold fabPhase
  repeat' with_reducible first
    | assumption
    | refine fabApply_keep ?_
    | refine peekBatch_keep ?_
    | refine peekTake_keep ?_
    | refine keep_ite ?_ (fun _ => ?_)
    | refine keep_foldl ?_ _ ?_
    | refine keep_foldl_snd ?_ _ ?_
    | intro _
    | refine keep_mk ?_ rfl rfl rfl rfl rfl rfl rfl rfl

theorem latchPhase_keep {s : State} (h : Keep m l k s0 s) : Keep m l k s0 (latchPhase s) := by
  unfold latchPhase
  repeat' with_reducible first
    | assumption
    | refine fioSet_keep ?_
    | refine keep_ite ?_ (fun _ => ?_)
    | refine keep_mk ?_ rfl rfl rfl rfl rfl rfl rfl rfl

theorem swgTake_keep {s : State} (h : Keep m l k s0 s) : Keep m l k s0 (swgTake s) := by
  unfold swgTake
  repeat' with_reducible first
    | assumption
    | refine keep_ite ?_ (fun _ => ?_)
    | refine keep_mk ?_ rfl rfl rfl rfl rfl rfl rfl rfl

theorem snapshots_keep {s : State} (h : Keep m l k s0 s) : Keep m l k s0 (snapshots s) := by
  unfold snapshots
  repeat' with_reducible first
    | assumption
    | refine snapCapture_keep ?_
    | refine ringWrite_keep ?_
    | refine keep_ite ?_ (fun _ => ?_)
    | refine keep_of_snd (by assumption) ?_
    | refine keep_of_snd3 (by assumption) ?_
    | refine keep_of_fst (by assumption) ?_
    | split

theorem phaseS_keep {s : State} (h : Keep m l k s0 s) : Keep m l k s0 (phaseS s) := by
  unfold phaseS
  repeat' with_reducible first
    | assumption
    | refine swgSeed_keep ?_
    | refine swgTake_keep ?_
    | refine swgApply_keep ?_
    | refine snapshots_keep ?_
    | refine keep_ite ?_ (fun _ => ?_)
    | refine keep_mk ?_ rfl rfl rfl rfl rfl rfl rfl rfl

theorem phaseD_keep {s : State} (h : Keep m l k s0 s) : Keep m l k s0 (phaseD s) := by
  unfold phaseD
  repeat' with_reducible first
    | assumption
    | refine svcTick_keep ?_
    | refine keep_ite ?_ (fun _ => ?_)
    | refine keep_mk ?_ rfl rfl rfl rfl rfl rfl rfl rfl

theorem phaseF_keep {s : State} (h : Keep m l k s0 s) : Keep m l k s0 (phaseF s) := by
  unfold phaseF
  repeat' with_reducible first
    | assumption
    | refine gatePhaseF_keep ?_
    | refine keep_ite ?_ (fun _ => ?_)
    | refine keep_foldl ?_ _ ?_
    | refine keep_foldl_snd ?_ _ ?_
    | intro _

theorem tickPhases_keep {s : State} (h : Keep m l k s0 s) : Keep m l k s0 (tickPhases s) := by
  unfold tickPhases
  repeat' with_reducible first
    | assumption
    | refine snapshots_keep ?_
    | refine phaseF_keep ?_
    | refine phaseD_keep ?_
    | refine fabPhase_keep ?_
    | refine phaseS_keep ?_
    | refine latchPhase_keep ?_
    | refine skewTick_keep ?_
    | refine keep_ite ?_ (fun _ => ?_)

theorem restoredUp_keep {s : State} (h : Keep m l k s0 s) : Keep m l k s0 (restoredUp s) := by
  unfold restoredUp
  repeat' with_reducible first
    | assumption
    | refine redSet_keep ?_
    | refine keep_ite ?_ (fun _ => ?_)

theorem boundary_keep {s : State} {tPrev : Nat} {us : List Uplink} {build : List (Fin 48)} {offs : List (Fin 48)} {partner : Bool} (h : Keep false l k s0 s) : Keep false l k s0 (boundary s tPrev us build offs partner) := by
  unfold boundary
  repeat' with_reducible first
    | assumption
    | refine framesLeave_keep ?_
    | refine streamTick_keep ?_
    | refine redCommand_keep ?_
    | refine claimPrevails_keep ?_
    | refine boundaryVote_keep ?_
    | refine swgLimits_keep ?_
    | refine gateBoundary_keep ?_
    | refine restoredUp_keep ?_
    | refine crdLatch_keep ?_
    | refine tickPhases_keep ?_
    | refine recSet_keep ?_
    | refine crdAfter_keep ?_
    | refine redBoundary_keep ?_
    | refine keep_ite ?_ (fun _ => ?_)
    | refine keep_mk ?_ rfl rfl rfl rfl rfl rfl rfl rfl

theorem stepEpoch_keep {s : State} (h : Keep m l k s0 s) : Keep m l k s0 (stepEpoch s) := by
  unfold stepEpoch
  repeat' with_reducible first
    | assumption
    | refine epochAdvance_keep ?_
    | refine keep_ite ?_ (fun _ => ?_)

theorem execTickBoundary_keep {uplinks : List Uplink} {build : List (Fin 48)} {offs : List (Fin 48)} {note : TickNote} {s : State} : KeepO false l false s (execTickBoundary uplinks build offs note s) := by
  have h := Keep.refl false l false s
  unfold execTickBoundary
  repeat' with_reducible first
    | assumption
    | refine begin_keep ?_
    | refine timeTo_keep ?_
    | refine rdlClose_keep ?_
    | refine adcRestart_keep ?_
    | refine clkSet_keep ?_
    | refine lossLog_keep ?_
    | refine mapPost_keep ?_
    | refine loadTick_keep ?_
    | refine boundaryVote_keep ?_
    | refine boundary_keep ?_
    | refine redEval_keep ?_
    | refine fioEval_keep ?_
    | refine domsEval_keep ?_
    | refine stepEpoch_keep ?_
    | refine timBoundary_keep ?_
    | refine keep_ite ?_ (fun _ => ?_)
    | refine keepO_next ?_

theorem execTickOverrun_keep {ph : Fin 5} {s : State} : KeepO m l k s (execTickOverrun ph s) := by
  have h := Keep.refl m l k s
  unfold execTickOverrun
  repeat' with_reducible first
    | assumption
    | refine begin_keep ?_
    | refine overrunHold_keep ?_
    | refine regPut_keep ?_
    | refine regInc_keep ?_
    | refine logNow_keep ?_
    | refine sysSet_keep ?_ ?_
    | refine redEval_keep ?_
    | refine portOff_keep ?_
    | refine blockRelease_keep ?_
    | refine keep_ite ?_ (fun _ => ?_)
    | refine keepO_next ?_
    | refine keepO_ite ?_ ?_
    | exact ⟨rfl, rfl, rfl⟩
    | intro _
    | refine keep_mk ?_ rfl rfl rfl rfl rfl rfl rfl rfl

theorem execSysTbMismatch_keep {s : State} : KeepO m l k s (execSysTbMismatch s) := by
  have h := Keep.refl m l k s
  unfold execSysTbMismatch
  repeat' with_reducible first
    | assumption
    | refine blockRelease_keep ?_
    | refine begin_keep ?_
    | refine keep_ite ?_ (fun _ => ?_)
    | refine keepO_next ?_

end Sys2Proof.Machine
end

