-- ==== Sys2Proof/Laws/KeepHostBus.lean ====
section
/-!
SUPPORT. What every operation of Machine/HostBus.lean keeps.
-/
namespace Sys2Proof.Machine
set_option Elab.async false

variable {m l k : Bool} {s0 : State}

theorem noCommand_keep {pf : Pf} {a : Nat} {s : State} : KeepO m l k s (noCommand pf a s) :=
  keepO_next (hostPf0_keep (fun _ h => h) (begin_keep (Keep.refl m l k s)))

theorem imgCtlRow_keep {pf : Pf} {v : Word} {s : State} : KeepO m l k s (imgCtlRow pf v s) := by
  generalize e : imgCtlRow pf v = f
  unfold imgCtlRow at e
  split at e <;> subst e <;> with_reducible first | exact noCommand_keep | apply execImgLoad_keep | apply execImgErase_keep | apply execImgAbort_keep | apply execImgBootNext_keep

theorem fabCtlRow_keep {pf : Pf} {v : Word} {s : State} : KeepO m l k s (fabCtlRow pf v s) := by
  generalize e : fabCtlRow pf v = f
  unfold fabCtlRow at e
  split at e <;> subst e <;> with_reducible first | exact noCommand_keep | apply execImgStage_keep | apply execImgCommit_keep | apply execImgUnstage_keep | apply execImgConfirm_keep

theorem rcvCtlRow_keep {pf : Pf} {v : Word} {s : State} : KeepO m l k s (rcvCtlRow pf v s) := by
  generalize e : rcvCtlRow pf v = f
  unfold rcvCtlRow at e
  split at e <;> subst e <;> with_reducible first | exact noCommand_keep | apply execLoadImage_keep | apply execLoadUcode_keep | apply execRestart_keep

theorem ucCtlRow_keep {pf : Pf} {v : Word} {s : State} : KeepO m l k s (ucCtlRow pf v s) := by
  generalize e : ucCtlRow pf v = f
  unfold ucCtlRow at e
  split at e <;> subst e <;> with_reducible first | exact noCommand_keep | apply execUcLoad_keep | apply execUcBootNext_keep | apply execUcConfirm_keep

theorem failRow_keep {pf : Pf} {v : Word} {s : State} : KeepO m l k s (failRow pf v s) := by
  generalize e : failRow pf v = f
  unfold failRow at e
  split at e <;> subst e <;> with_reducible first | exact noCommand_keep | apply execSmSet_keep | apply execSmClear_keep | apply execSmClearArm_keep

theorem idRow_keep {pf : Pf} {v : Word} {s : State} : KeepO m l k s (idRow pf v s) := by
  generalize e : idRow pf v = f
  unfold idRow at e
  split at e <;> subst e <;> with_reducible first | exact noCommand_keep | apply execCapRunStart_keep | apply execIndRunStart_keep | apply execIdRunAbort_keep

theorem crdCmdRow_keep {pf : Pf} {v : Word} {s : State} : KeepO m l k s (crdCmdRow pf v s) := by
  generalize e : crdCmdRow pf v = f
  unfold crdCmdRow at e
  split at e <;> subst e <;> with_reducible first | exact noCommand_keep | apply execRetrainLane_keep | apply execRetrainPort_keep | apply execRemap_keep

theorem svcRow_keep {pf : Pf} {v : Word} {s : State} : KeepO m l k s (svcRow pf v s) := by
  generalize e : svcRow pf v = f
  unfold svcRow at e
  split at e <;> subst e <;> with_reducible first | exact noCommand_keep | apply execSvcPulse_keep | apply execSvcStop_keep

theorem redRow_keep {pf : Pf} {v : Word} {s : State} : KeepO m l k s (redRow pf v s) := by
  generalize e : redRow pf v = f
  unfold redRow at e
  split at e <;> subst e <;> with_reducible first | exact noCommand_keep | apply execRedClaim_keep | apply execRedRelease_keep | apply execHbkInhibit_keep | apply execHbkAllow_keep

theorem clrRow_keep {pf : Pf} {v : Word} {s : State} : KeepO m l k s (clrRow pf v s) := by
  generalize e : clrRow pf v = f
  unfold clrRow at e
  split at e <;> subst e <;> with_reducible first | exact noCommand_keep | apply execClearCh_keep | apply execClearGroup_keep | apply execClearPort_keep

theorem calRow_keep {pf : Pf} {v : Word} {s : State} : KeepO m l k s (calRow pf v s) := by
  generalize e : calRow pf v = f
  unfold calRow at e
  split at e <;> subst e <;> with_reducible first | exact noCommand_keep | apply execCalZero_keep | apply execCalFull_keep | apply execCalCommit_keep | apply execCalEnd_keep | apply execCalDefault_keep

theorem recRow_keep {pf : Pf} {v : Word} {s : State} : KeepO m l k s (recRow pf v s) := by
  generalize e : recRow pf v = f
  unfold recRow at e
  split at e <;> subst e <;> with_reducible first | exact noCommand_keep | apply execRecArm_keep | apply execRecStop_keep | apply execRecSwtrig_keep

theorem recRdRow_keep {pf : Pf} {v : Word} {s : State} : KeepO m l k s (recRdRow pf v s) := by
  generalize e : recRdRow pf v = f
  unfold recRdRow at e
  split at e <;> subst e <;> with_reducible first | exact keepO_next (begin_keep (Keep.refl m l k s)) | apply execRecRead_keep | apply execRecErase_keep | apply execRecEraseAll_keep

theorem stepRow_keep {pf : Pf} {v : Word} {s : State} : KeepO m l k s (stepRow pf v s) := by
  generalize e : stepRow pf v = f
  unfold stepRow at e
  split at e <;> subst e <;> with_reducible first | exact noCommand_keep | apply execStepRel_keep | apply execAlign_keep

theorem safRow_keep {pf : Pf} {v : Word} {s : State} : KeepO m l k s (safRow pf v s) := by
  generalize e : safRow pf v = f
  unfold safRow at e
  split at e <;> subst e <;> with_reducible first | exact noCommand_keep | apply execSafAck_keep | apply execSafCancel_keep

/-- A write of SYS_MRST apart, the row of a register keeps everything. -/
theorem singleRow_keep {pf : Pf} {a : Nat} {v : Word} {f : Meaning} {s : State} (ha : a ≠ 0x30) (e : singleRow pf a v = some f) :
    KeepO m l k s (f s) := by
  unfold singleRow at e
  split at e <;> first
    | (cases e; done)
    | exact absurd rfl ha
    | (injection e with e; subst e; with_reducible first
       | apply execModeRequest_keep
       | apply execModuleReset_keep
       | apply execFunctionReset_keep
       | apply execClkCfgWrite_keep
       | apply stepRow_keep
       | apply execDomselWrite_keep
       | apply execLinkRetrain_keep
       | apply execTraceClear_keep
       | apply execRickPower_keep
       | apply execScrubNow_keep
       | apply execArcAdvance_keep
       | apply rcvCtlRow_keep
       | apply ucCtlRow_keep
       | apply imgCtlRow_keep
       | apply fabCtlRow_keep
       | apply execPeekArm_keep
       | apply execSwgSnapArm_keep
       | apply execSmCaptureArm_keep
       | apply failRow_keep
       | apply idRow_keep
       | apply crdCmdRow_keep
       | apply svcRow_keep
       | apply execMgtRequest_keep
       | apply redRow_keep
       | apply clrRow_keep
       | apply execLoadallArm_keep
       | apply execRefBufferWrite_keep
       | apply calRow_keep
       | apply recRow_keep
       | apply recRdRow_keep
       | apply execRecMeasFetch_keep
       | apply safRow_keep
       | apply execFioOutWr_keep
       | (split <;> first | apply execCvConfirm_keep | apply noCommand_keep))

theorem arrayRow_keep {pf : Pf} {a : Nat} {v : Word} {f : Meaning} {s : State} (e : arrayRow pf a v = some f) :
    KeepO m l k s (f s) := by
  unfold arrayRow at e
  repeat' split at e
  all_goals first
    | (cases e; done)
    | (injection e with e; subst e; with_reducible first
       | apply execSaArm_keep
       | apply execClkOutWrite_keep
       | apply execRingEnable_keep
       | apply execRingPiWrite_keep
       | apply execRgnWrite_keep
       | apply execLaneDisable_keep
       | apply execChCfgWrite_keep
       | apply execShSwapRequest_keep
       | apply execShBankWrite_keep
       | exact keepO_next (hostAccess_keep (fun _ h => saWordWrite_keep h) (begin_keep (Keep.refl m l k s))))

theorem rowOf_keep {pf : Pf} {a : Nat} {v : Word} {f : Meaning} {s : State} (ha : a ≠ 0x30) (e : rowOf pf a v = some f) :
    KeepO m l k s (f s) := by
  unfold rowOf at e
  split at e
  · next g hg => injection e with e; subst e; exact singleRow_keep ha hg
  · exact arrayRow_keep e

theorem evtWrite_keep {s : State} {fn : Nat} {en : Bool} {v : Word} (h : Keep m l k s0 s) : Keep m l k s0 (evtWrite s fn en v) := by
  unfold evtWrite
  repeat' with_reducible first
    | assumption
    | refine keep_regSet ?_
    | refine msixBoth_keep ?_
    | refine keep_ite ?_ (fun _ => ?_)

theorem storeWord_keep {s : State} {a : Nat} {d : RegDef} {h_3 : Bool} {v : Word} (h : Keep m l k s0 s) : Keep m l k s0 (storeWord s a d h_3 v) := by
  unfold storeWord
  repeat' with_reducible first
    | assumption
    | refine keep_regSet ?_

theorem chCtlWrite_keep {s : State} {n : Nat} {v : Word} (h : Keep m l k s0 s) : Keep m l k s0 (chCtlWrite s n v) := by
  unfold chCtlWrite
  repeat' with_reducible first
    | assumption
    | refine regPut_keep ?_
    | refine portSettle_keep ?_
    | refine keep_ite ?_ (fun _ => ?_)

theorem fltSetWrite_keep {s : State} {a : Nat} {i : Nat} {v : Word} {m_4 : Word} (h : Keep m l k s0 s) : Keep m l k s0 (fltSetWrite s a i v m_4) := by
  unfold fltSetWrite
  repeat' with_reducible first
    | assumption
    | refine wrRes_keep ?_
    | refine keep_regSet ?_
    | refine wrRefuse_keep ?_
    | refine keep_ite ?_ (fun _ => ?_)

theorem plainWrite_keep {s : State} {a : Nat} {d : RegDef} {h_3 : Bool} {v : Word} (h : Keep m l k s0 s) : Keep m l k s0 (plainWrite s a d h_3 v) := by
  unfold plainWrite
  repeat' with_reducible first
    | assumption
    | refine storeWord_keep ?_
    | refine chCtlWrite_keep ?_
    | refine fltSetWrite_keep ?_
    | refine evtWrite_keep ?_
    | refine keep_ite ?_ (fun _ => ?_)
    | refine keep_of_snd (by assumption) ?_
    | refine keep_of_snd3 (by assumption) ?_
    | refine keep_of_fst (by assumption) ?_
    | split

theorem holdLower_keep {s : State} {pf : Pf} {a : Nat} {v : Word} (h : Keep m l k s0 s) : Keep m l k s0 (holdLower s pf a v) := by
  unfold holdLower
  repeat' with_reducible first
    | assumption
    | refine accessErr_keep ?_
    | refine keep_ite ?_ (fun _ => ?_)
    | refine keep_of_snd (by assumption) ?_
    | refine keep_of_snd3 (by assumption) ?_
    | refine keep_of_fst (by assumption) ?_
    | split
    | dsimp only
    | refine keep_mk ?_ rfl rfl rfl rfl rfl rfl rfl rfl

theorem commitUpper_keep {s : State} {pf : Pf} {a : Nat} {d : RegDef} {v : Word} (h : Keep m l k s0 s) :
    KeepO m l k s0 (commitUpper s pf a d v) := by
  have h1 : ∀ {x}, Keep m l k s0 { s with hold64 := x } := keep_mk h rfl rfl rfl rfl rfl rfl rfl rfl
  unfold commitUpper
  dsimp only
  split
  · exact KeepO.from (keep_ite h1 fun _ => h) execShadowWrite_keep
  · exact keepO_next (keep_ite (storeWord_keep (storeWord_keep h1)) fun _ => h1)
  · exact keepO_next (storeWord_keep (storeWord_keep h1))

/-- A write of the bus; one of SYS_MRST resets the module. -/
theorem busWrite_keep {s : State} {pf : Pf} {a : Nat} {v : Word} (ha : a ≠ 0x30) : KeepO m l k s (busWrite s pf a v) := by
  have h := begin_keep (Keep.refl m l k s)
  unfold busWrite
  dsimp only
  split
  · exact keepO_next (unsupported_keep h)
  split
  · exact keepO_next h
  split
  · exact keepO_next (accessErr_keep h)
  split
  · exact keepO_next (accessErr_keep h)
  split
  · exact keepO_next (accessErr_keep h)
  split
  · next f e => exact KeepO.from h (rowOf_keep ha e)
  · exact keepO_ite (keepO_ite (commitUpper_keep h) (keepO_next (holdLower_keep h))) (keepO_next (plainWrite_keep h))

/-- The same for any address, as far as a module reset keeps things. -/
theorem busWrite_weak {s : State} {pf : Pf} {a : Nat} {v : Word} : KeepO false false false s (busWrite s pf a v) := by
  by_cases ha : a = 0x30
  · subst ha
    have h := begin_keep (Keep.refl false false false s)
    have e : regDefOf 0x30 = some (⟨"SYS_MRST", 0x30, 1, 0, false, true, 0, 0, 0, 0xffff0001, 0, 0⟩, 0, false) := by decide
    unfold busWrite
    rw [e]
    dsimp only
    split
    · exact keepO_next (unsupported_keep h)
    split
    · exact keepO_next h
    split
    · exact keepO_next (accessErr_keep h)
    split
    · exact keepO_next (accessErr_keep h)
    · exact KeepO.from h execModuleReset_keep
  · exact busWrite_keep ha

theorem execRegWrite_keep {pf : Pf} {addr : BitVec 23} {v : Word} {s : State} : KeepO false false false s (execRegWrite pf addr v s) :=
  busWrite_weak

theorem execReg64LowerWrite_keep {pf : Pf} {addr : BitVec 23} {v : Word} {s : State} : KeepO false false false s (execReg64LowerWrite pf addr v s) :=
  busWrite_weak

theorem execReg64UpperWrite_keep {pf : Pf} {addr : BitVec 23} {v : Word} {s : State} : KeepO false false false s (execReg64UpperWrite pf addr v s) :=
  busWrite_weak

theorem execEvtRegWrite_keep {pf : Pf} {fn : Fin 23} {en : Bool} {v : Word} {s : State} : KeepO m l k s (execEvtRegWrite pf fn en v s) := by
  unfold execEvtRegWrite
  refine keepO_ite (keepO_next (hostAccess_keep (fun _ h => evtWrite_keep h) (begin_keep (Keep.refl m l k s)))) (busWrite_keep ?_)
  unfold regA
  split <;> omega

theorem busRead_keep {s : State} {pf : Pf} {a : Nat} : KeepO m l k s (busRead s pf a) := by
  have h := begin_keep (Keep.refl m l k s)
  have h1 : ∀ {t x y}, Keep m l k s t → Keep m l k s { t with rdata := x, latch64 := y } :=
    fun h => keep_mk h rfl rfl rfl rfl rfl rfl rfl rfl
  unfold busRead
  dsimp only
  split
  · exact keepO_next (unsupported_keep h)
  split
  · exact keepO_next (h1 h)
  split
  · exact keepO_next (h1 (accessErr_keep h))
  split
  · exact keepO_next (h1 (accessErr_keep h))
  split
  · next f e =>
    refine KeepO.from h ?_
    unfold readRowOf at e
    repeat' split at e
    all_goals first
      | (cases e; done)
      | (injection e with e; subst e; with_reducible first
         | apply execPeekStatRead_keep | apply execSwgSnapStatRead_keep | apply execSmStatRead_keep | apply execIdStatRead_keep
         | apply execMgtResRead_keep | apply execCalStatRead_keep | apply execRecMeasStatRead_keep | apply execTbFracRead_keep
         | apply execFltResStatRead_keep | apply execMonLiveRead_keep)
  · exact keepO_ite (keepO_next (h1 h)) (keepO_ite (keepO_next (h1 h)) (keepO_next (h1 h)))

theorem execReg64LowerRead_keep {pf : Pf} {addr : BitVec 23} {s : State} : KeepO m l k s (execReg64LowerRead pf addr s) := busRead_keep

theorem execRegBadAccess_keep {pf : Pf} {addr : BitVec 23} {acc : BadAccess} {s : State} : KeepO m l k s (execRegBadAccess pf addr acc s) := by
  have h := begin_keep (Keep.refl m l k s)
  have r {t : State} {x : Word} (h : Keep m l k s t) : Keep m l k s { t with rdata := x } := keep_mk h rfl rfl rfl rfl rfl rfl rfl rfl
  unfold execRegBadAccess
  refine keepO_next (keep_ite ?_ (fun _ => unsupported_keep h))
  cases acc
  · exact keep_ite (r (accessErr_keep h)) (fun _ => r h)
  · exact keep_ite (accessErr_keep h) (fun _ => h)
  · exact keep_ite (r (accessErr_keep h)) (fun _ => r h)
  · exact keep_ite (accessErr_keep h) (fun _ => h)

end Sys2Proof.Machine
end

