-- ==== Sys2Proof/Laws/Ops.lean ====
section
/-!
SUPPORT. What the operations that every command shares do: each is a report, which leaves every part of the state alone but those of
`Reported`; one lemma per operation says so, and one per operation and part gives the part.
-/
namespace Sys2Proof.Machine
set_option Elab.async false

theorem Reported.refl (s : State) : Reported s s := rfl

theorem Reported.trans {s t u : State} (h1 : Reported s t) (h2 : Reported t u) : Reported s u := by
  unfold Reported at *
  calc u = _ := h2
    _ = _ := by rw [h1]

theorem Reported.ite {c : Prop} [Decidable c] {s a b : State} (ha : Reported s a) (hb : Reported s b) : Reported s (if c then a else b) := by
  split <;> assumption

theorem begin_reported (s : State) : Reported s (begin s) := rfl

theorem send_reported (s : State) (o : Out) : Reported s (send s o) := rfl

theorem regSet_reported (s : State) (a : Nat) (v : Word) : Reported s (regSet s a v) := rfl

theorem regPut_reported (s : State) (a hi lo v : Nat) : Reported s (regPut s a hi lo v) := rfl

theorem regInc_reported (s : State) (a hi lo : Nat) : Reported s (regInc s a hi lo) := rfl

theorem fresh_reported (s : State) : Reported s (fresh s).2 := rfl

theorem freshBelow_reported (s : State) (n : Nat) : Reported s (freshBelow s n).2 := rfl

theorem stamp_reported (s : State) : Reported s (stamp s).2 := rfl

theorem msix_reported (s : State) (pf : Pf) (vec : Nat) : Reported s (msix s pf vec) := by
  unfold msix
  dsimp only
  refine .ite rfl (.ite ?_ (.ite rfl rfl))
  unfold setPf pfOf
  by_cases h : pf = .pf0
  · simp only [h, ite_true]; rfl
  · simp only [h, ite_false]; rfl

theorem msixBoth_reported (s : State) (vec : Nat) : Reported s (msixBoth s vec) :=
  (msix_reported s _ _).trans (msix_reported _ _ _)

theorem setFlag_reported (s : State) (fn b : Nat) : Reported s (setFlag s fn b) := by
  unfold setFlag
  exact .ite ((regSet_reported s _ _).trans (msixBoth_reported _ _)) (regSet_reported s _ _)

theorem countDeny_reported (s : State) : Reported s (countDeny s) :=
  Reported.trans (t := { s with mem := { s.mem with deny := satInc 16 s.mem.deny } }) rfl (setFlag_reported _ _ _)

theorem logAt_reported (s : State) (u fn code arg : Nat) : Reported s (logAt s u fn code arg) := by
  unfold logAt
  exact .ite rfl (.ite rfl (countDeny_reported s))

theorem logBound_reported (s : State) (fn code arg : Nat) : Reported s (logBound s fn code arg) := logAt_reported _ _ _ _ _

theorem logNow_reported (s : State) (fn code arg : Nat) : Reported s (logNow s fn code arg) :=
  (stamp_reported s).trans (logAt_reported _ _ _ _ _)

theorem raise_reported (s : State) (fn b i j : Nat) : Reported s (raise s fn b i j) := by
  unfold raise
  exact .ite ((setFlag_reported s _ _).trans (logNow_reported _ _ _ _)) (setFlag_reported s _ _)

theorem accessErr_reported (s : State) (pf : Pf) (a kind : Nat) : Reported s (accessErr s pf a kind) := logNow_reported _ _ _ _

theorem denyAccess_reported (s : State) : Reported s (denyAccess s) :=
  Reported.trans (t := { s with mem := { s.mem with deny := satInc 16 s.mem.deny } }) rfl (raise_reported _ _ _ _ _)

/-! ### begin -/

section
variable (s : State)

@[simp] theorem begin_pending : (begin s).pending = s.pending := rfl
@[simp] theorem begin_free : (begin s).free = s.free := rfl
@[simp] theorem begin_rdata : (begin s).rdata = s.rdata := rfl
@[simp] theorem begin_regs : (begin s).regs = s.regs := rfl
@[simp] theorem begin_hold64 : (begin s).hold64 = s.hold64 := rfl
@[simp] theorem begin_latch64 : (begin s).latch64 = s.latch64 := rfl
@[simp] theorem begin_sys : (begin s).sys = s.sys := rfl
@[simp] theorem begin_sa : (begin s).sa = s.sa := rfl
@[simp] theorem begin_frst : (begin s).frst = s.frst := rfl
@[simp] theorem begin_tmr : (begin s).tmr = s.tmr := rfl
@[simp] theorem begin_log : (begin s).log = s.log := rfl
@[simp] theorem begin_img : (begin s).img = s.img := rfl
@[simp] theorem begin_fab : (begin s).fab = s.fab := rfl
@[simp] theorem begin_swg : (begin s).swg = s.swg := rfl
@[simp] theorem begin_swgOld : (begin s).swgOld = s.swgOld := rfl
@[simp] theorem begin_rdl : (begin s).rdl = s.rdl := rfl
@[simp] theorem begin_rdlOld : (begin s).rdlOld = s.rdlOld := rfl
@[simp] theorem begin_crd : (begin s).crd = s.crd := rfl
@[simp] theorem begin_txRd : (begin s).txRd = s.txRd := rfl
@[simp] theorem begin_ggd : (begin s).ggd = s.ggd := rfl
@[simp] theorem begin_adc : (begin s).adc = s.adc := rfl
@[simp] theorem begin_rcd : (begin s).rcd = s.rcd := rfl
@[simp] theorem begin_clk : (begin s).clk = s.clk := rfl
@[simp] theorem begin_tim : (begin s).tim = s.tim := rfl
@[simp] theorem begin_fio : (begin s).fio = s.fio := rfl
@[simp] theorem begin_mon : (begin s).mon = s.mon := rfl
@[simp] theorem begin_hif : (begin s).hif = s.hif := rfl
@[simp] theorem begin_stk : (begin s).stk = s.stk := rfl
@[simp] theorem begin_red : (begin s).red = s.red := rfl
@[simp] theorem begin_saf : (begin s).saf = s.saf := rfl
@[simp] theorem begin_mem : (begin s).mem = s.mem := rfl
@[simp] theorem begin_sec : (begin s).sec = s.sec := rfl
@[simp] theorem begin_peat : (begin s).peat = s.peat := rfl

end

/-! ### send -/

section
variable (s : State) (o : Out)

@[simp] theorem send_pending : (send s o).pending = s.pending := rfl
@[simp] theorem send_free : (send s o).free = s.free := rfl
@[simp] theorem send_rdata : (send s o).rdata = s.rdata := rfl
@[simp] theorem send_regs : (send s o).regs = s.regs := rfl
@[simp] theorem send_hold64 : (send s o).hold64 = s.hold64 := rfl
@[simp] theorem send_latch64 : (send s o).latch64 = s.latch64 := rfl
@[simp] theorem send_sys : (send s o).sys = s.sys := rfl
@[simp] theorem send_sa : (send s o).sa = s.sa := rfl
@[simp] theorem send_frst : (send s o).frst = s.frst := rfl
@[simp] theorem send_tmr : (send s o).tmr = s.tmr := rfl
@[simp] theorem send_log : (send s o).log = s.log := rfl
@[simp] theorem send_img : (send s o).img = s.img := rfl
@[simp] theorem send_fab : (send s o).fab = s.fab := rfl
@[simp] theorem send_swg : (send s o).swg = s.swg := rfl
@[simp] theorem send_swgOld : (send s o).swgOld = s.swgOld := rfl
@[simp] theorem send_rdl : (send s o).rdl = s.rdl := rfl
@[simp] theorem send_rdlOld : (send s o).rdlOld = s.rdlOld := rfl
@[simp] theorem send_crd : (send s o).crd = s.crd := rfl
@[simp] theorem send_txRd : (send s o).txRd = s.txRd := rfl
@[simp] theorem send_ggd : (send s o).ggd = s.ggd := rfl
@[simp] theorem send_adc : (send s o).adc = s.adc := rfl
@[simp] theorem send_rcd : (send s o).rcd = s.rcd := rfl
@[simp] theorem send_clk : (send s o).clk = s.clk := rfl
@[simp] theorem send_tim : (send s o).tim = s.tim := rfl
@[simp] theorem send_fio : (send s o).fio = s.fio := rfl
@[simp] theorem send_mon : (send s o).mon = s.mon := rfl
@[simp] theorem send_hif : (send s o).hif = s.hif := rfl
@[simp] theorem send_stk : (send s o).stk = s.stk := rfl
@[simp] theorem send_red : (send s o).red = s.red := rfl
@[simp] theorem send_saf : (send s o).saf = s.saf := rfl
@[simp] theorem send_mem : (send s o).mem = s.mem := rfl
@[simp] theorem send_sec : (send s o).sec = s.sec := rfl
@[simp] theorem send_peat : (send s o).peat = s.peat := rfl

end

/-! ### msix -/

section
variable (s : State) (pf : Pf) (vec : Nat)

@[simp] theorem msix_pending : (msix s pf vec).pending = s.pending := congrArg (fun t => t.pending) (msix_reported s pf vec)
@[simp] theorem msix_free : (msix s pf vec).free = s.free := by
  unfold msix
  first | rfl | (dsimp only; repeat' split) <;> simp [setPf]
@[simp] theorem msix_rdata : (msix s pf vec).rdata = s.rdata := congrArg (fun t => t.rdata) (msix_reported s pf vec)
@[simp] theorem msix_regs : (msix s pf vec).regs = s.regs := by
  unfold msix
  first | rfl | (dsimp only; repeat' split) <;> simp [setPf]
@[simp] theorem msix_hold64 : (msix s pf vec).hold64 = s.hold64 := congrArg (fun t => t.hold64) (msix_reported s pf vec)
@[simp] theorem msix_latch64 : (msix s pf vec).latch64 = s.latch64 := congrArg (fun t => t.latch64) (msix_reported s pf vec)
@[simp] theorem msix_sys : (msix s pf vec).sys = s.sys := congrArg (fun t => t.sys) (msix_reported s pf vec)
@[simp] theorem msix_sa : (msix s pf vec).sa = s.sa := congrArg (fun t => t.sa) (msix_reported s pf vec)
@[simp] theorem msix_frst : (msix s pf vec).frst = s.frst := congrArg (fun t => t.frst) (msix_reported s pf vec)
@[simp] theorem msix_tmr : (msix s pf vec).tmr = s.tmr := congrArg (fun t => t.tmr) (msix_reported s pf vec)
@[simp] theorem msix_log : (msix s pf vec).log = s.log := by
  unfold msix
  first | rfl | (dsimp only; repeat' split) <;> simp [setPf]
@[simp] theorem msix_img : (msix s pf vec).img = s.img := congrArg (fun t => t.img) (msix_reported s pf vec)
@[simp] theorem msix_fab : (msix s pf vec).fab = s.fab := congrArg (fun t => t.fab) (msix_reported s pf vec)
@[simp] theorem msix_swg : (msix s pf vec).swg = s.swg := congrArg (fun t => t.swg) (msix_reported s pf vec)
@[simp] theorem msix_swgOld : (msix s pf vec).swgOld = s.swgOld := congrArg (fun t => t.swgOld) (msix_reported s pf vec)
@[simp] theorem msix_rdl : (msix s pf vec).rdl = s.rdl := congrArg (fun t => t.rdl) (msix_reported s pf vec)
@[simp] theorem msix_rdlOld : (msix s pf vec).rdlOld = s.rdlOld := congrArg (fun t => t.rdlOld) (msix_reported s pf vec)
@[simp] theorem msix_crd : (msix s pf vec).crd = s.crd := congrArg (fun t => t.crd) (msix_reported s pf vec)
@[simp] theorem msix_txRd : (msix s pf vec).txRd = s.txRd := congrArg (fun t => t.txRd) (msix_reported s pf vec)
@[simp] theorem msix_ggd : (msix s pf vec).ggd = s.ggd := congrArg (fun t => t.ggd) (msix_reported s pf vec)
@[simp] theorem msix_adc : (msix s pf vec).adc = s.adc := congrArg (fun t => t.adc) (msix_reported s pf vec)
@[simp] theorem msix_rcd : (msix s pf vec).rcd = s.rcd := congrArg (fun t => t.rcd) (msix_reported s pf vec)
@[simp] theorem msix_clk : (msix s pf vec).clk = s.clk := congrArg (fun t => t.clk) (msix_reported s pf vec)
@[simp] theorem msix_tim : (msix s pf vec).tim = s.tim := congrArg (fun t => t.tim) (msix_reported s pf vec)
@[simp] theorem msix_fio : (msix s pf vec).fio = s.fio := congrArg (fun t => t.fio) (msix_reported s pf vec)
@[simp] theorem msix_mon : (msix s pf vec).mon = s.mon := congrArg (fun t => t.mon) (msix_reported s pf vec)
@[simp] theorem msix_hif_up : (msix s pf vec).hif.up = s.hif.up := congrArg (fun t => t.hif.up) (msix_reported s pf vec)
@[simp] theorem msix_hif_gen : (msix s pf vec).hif.gen = s.hif.gen := congrArg (fun t => t.hif.gen) (msix_reported s pf vec)
@[simp] theorem msix_hif_width : (msix s pf vec).hif.width = s.hif.width := congrArg (fun t => t.hif.width) (msix_reported s pf vec)
@[simp] theorem msix_stk : (msix s pf vec).stk = s.stk := congrArg (fun t => t.stk) (msix_reported s pf vec)
@[simp] theorem msix_red : (msix s pf vec).red = s.red := congrArg (fun t => t.red) (msix_reported s pf vec)
@[simp] theorem msix_saf : (msix s pf vec).saf = s.saf := congrArg (fun t => t.saf) (msix_reported s pf vec)
@[simp] theorem msix_mem : (msix s pf vec).mem = s.mem := by
  unfold msix
  dsimp only
  repeat' split
  all_goals simp [setPf]
@[simp] theorem msix_sec : (msix s pf vec).sec = s.sec := congrArg (fun t => t.sec) (msix_reported s pf vec)
@[simp] theorem msix_peat : (msix s pf vec).peat = s.peat := congrArg (fun t => t.peat) (msix_reported s pf vec)

end

/-! ### msixBoth -/

section
variable (s : State) (vec : Nat)

@[simp] theorem msixBoth_pending : (msixBoth s vec).pending = s.pending := congrArg (fun t => t.pending) (msixBoth_reported s vec)
@[simp] theorem msixBoth_free : (msixBoth s vec).free = s.free := by simp [msixBoth]
@[simp] theorem msixBoth_rdata : (msixBoth s vec).rdata = s.rdata := congrArg (fun t => t.rdata) (msixBoth_reported s vec)
@[simp] theorem msixBoth_regs : (msixBoth s vec).regs = s.regs := by simp [msixBoth]
@[simp] theorem msixBoth_hold64 : (msixBoth s vec).hold64 = s.hold64 := congrArg (fun t => t.hold64) (msixBoth_reported s vec)
@[simp] theorem msixBoth_latch64 : (msixBoth s vec).latch64 = s.latch64 := congrArg (fun t => t.latch64) (msixBoth_reported s vec)
@[simp] theorem msixBoth_sys : (msixBoth s vec).sys = s.sys := congrArg (fun t => t.sys) (msixBoth_reported s vec)
@[simp] theorem msixBoth_sa : (msixBoth s vec).sa = s.sa := congrArg (fun t => t.sa) (msixBoth_reported s vec)
@[simp] theorem msixBoth_frst : (msixBoth s vec).frst = s.frst := congrArg (fun t => t.frst) (msixBoth_reported s vec)
@[simp] theorem msixBoth_tmr : (msixBoth s vec).tmr = s.tmr := congrArg (fun t => t.tmr) (msixBoth_reported s vec)
@[simp] theorem msixBoth_log : (msixBoth s vec).log = s.log := by simp [msixBoth]
@[simp] theorem msixBoth_img : (msixBoth s vec).img = s.img := congrArg (fun t => t.img) (msixBoth_reported s vec)
@[simp] theorem msixBoth_fab : (msixBoth s vec).fab = s.fab := congrArg (fun t => t.fab) (msixBoth_reported s vec)
@[simp] theorem msixBoth_swg : (msixBoth s vec).swg = s.swg := congrArg (fun t => t.swg) (msixBoth_reported s vec)
@[simp] theorem msixBoth_swgOld : (msixBoth s vec).swgOld = s.swgOld := congrArg (fun t => t.swgOld) (msixBoth_reported s vec)
@[simp] theorem msixBoth_rdl : (msixBoth s vec).rdl = s.rdl := congrArg (fun t => t.rdl) (msixBoth_reported s vec)
@[simp] theorem msixBoth_rdlOld : (msixBoth s vec).rdlOld = s.rdlOld := congrArg (fun t => t.rdlOld) (msixBoth_reported s vec)
@[simp] theorem msixBoth_crd : (msixBoth s vec).crd = s.crd := congrArg (fun t => t.crd) (msixBoth_reported s vec)
@[simp] theorem msixBoth_txRd : (msixBoth s vec).txRd = s.txRd := congrArg (fun t => t.txRd) (msixBoth_reported s vec)
@[simp] theorem msixBoth_ggd : (msixBoth s vec).ggd = s.ggd := congrArg (fun t => t.ggd) (msixBoth_reported s vec)
@[simp] theorem msixBoth_adc : (msixBoth s vec).adc = s.adc := congrArg (fun t => t.adc) (msixBoth_reported s vec)
@[simp] theorem msixBoth_rcd : (msixBoth s vec).rcd = s.rcd := congrArg (fun t => t.rcd) (msixBoth_reported s vec)
@[simp] theorem msixBoth_clk : (msixBoth s vec).clk = s.clk := congrArg (fun t => t.clk) (msixBoth_reported s vec)
@[simp] theorem msixBoth_tim : (msixBoth s vec).tim = s.tim := congrArg (fun t => t.tim) (msixBoth_reported s vec)
@[simp] theorem msixBoth_fio : (msixBoth s vec).fio = s.fio := congrArg (fun t => t.fio) (msixBoth_reported s vec)
@[simp] theorem msixBoth_mon : (msixBoth s vec).mon = s.mon := congrArg (fun t => t.mon) (msixBoth_reported s vec)
@[simp] theorem msixBoth_hif_up : (msixBoth s vec).hif.up = s.hif.up := congrArg (fun t => t.hif.up) (msixBoth_reported s vec)
@[simp] theorem msixBoth_hif_gen : (msixBoth s vec).hif.gen = s.hif.gen := congrArg (fun t => t.hif.gen) (msixBoth_reported s vec)
@[simp] theorem msixBoth_hif_width : (msixBoth s vec).hif.width = s.hif.width := congrArg (fun t => t.hif.width) (msixBoth_reported s vec)
@[simp] theorem msixBoth_stk : (msixBoth s vec).stk = s.stk := congrArg (fun t => t.stk) (msixBoth_reported s vec)
@[simp] theorem msixBoth_red : (msixBoth s vec).red = s.red := congrArg (fun t => t.red) (msixBoth_reported s vec)
@[simp] theorem msixBoth_saf : (msixBoth s vec).saf = s.saf := congrArg (fun t => t.saf) (msixBoth_reported s vec)
@[simp] theorem msixBoth_mem : (msixBoth s vec).mem = s.mem := by simp [msixBoth]
@[simp] theorem msixBoth_sec : (msixBoth s vec).sec = s.sec := congrArg (fun t => t.sec) (msixBoth_reported s vec)
@[simp] theorem msixBoth_peat : (msixBoth s vec).peat = s.peat := congrArg (fun t => t.peat) (msixBoth_reported s vec)

end

/-! ### regSet -/

section
variable (s : State) (a : Nat) (v : Word)

@[simp] theorem regSet_pending : (regSet s a v).pending = s.pending := rfl
@[simp] theorem regSet_free : (regSet s a v).free = s.free := rfl
@[simp] theorem regSet_out : (regSet s a v).out = s.out := rfl
@[simp] theorem regSet_rdata : (regSet s a v).rdata = s.rdata := rfl
@[simp] theorem regSet_hold64 : (regSet s a v).hold64 = s.hold64 := rfl
@[simp] theorem regSet_latch64 : (regSet s a v).latch64 = s.latch64 := rfl
@[simp] theorem regSet_sys : (regSet s a v).sys = s.sys := rfl
@[simp] theorem regSet_sa : (regSet s a v).sa = s.sa := rfl
@[simp] theorem regSet_frst : (regSet s a v).frst = s.frst := rfl
@[simp] theorem regSet_tmr : (regSet s a v).tmr = s.tmr := rfl
@[simp] theorem regSet_log : (regSet s a v).log = s.log := rfl
@[simp] theorem regSet_img : (regSet s a v).img = s.img := rfl
@[simp] theorem regSet_fab : (regSet s a v).fab = s.fab := rfl
@[simp] theorem regSet_swg : (regSet s a v).swg = s.swg := rfl
@[simp] theorem regSet_swgOld : (regSet s a v).swgOld = s.swgOld := rfl
@[simp] theorem regSet_rdl : (regSet s a v).rdl = s.rdl := rfl
@[simp] theorem regSet_rdlOld : (regSet s a v).rdlOld = s.rdlOld := rfl
@[simp] theorem regSet_crd : (regSet s a v).crd = s.crd := rfl
@[simp] theorem regSet_txRd : (regSet s a v).txRd = s.txRd := rfl
@[simp] theorem regSet_ggd : (regSet s a v).ggd = s.ggd := rfl
@[simp] theorem regSet_adc : (regSet s a v).adc = s.adc := rfl
@[simp] theorem regSet_rcd : (regSet s a v).rcd = s.rcd := rfl
@[simp] theorem regSet_clk : (regSet s a v).clk = s.clk := rfl
@[simp] theorem regSet_tim : (regSet s a v).tim = s.tim := rfl
@[simp] theorem regSet_fio : (regSet s a v).fio = s.fio := rfl
@[simp] theorem regSet_mon : (regSet s a v).mon = s.mon := rfl
@[simp] theorem regSet_hif : (regSet s a v).hif = s.hif := rfl
@[simp] theorem regSet_stk : (regSet s a v).stk = s.stk := rfl
@[simp] theorem regSet_red : (regSet s a v).red = s.red := rfl
@[simp] theorem regSet_saf : (regSet s a v).saf = s.saf := rfl
@[simp] theorem regSet_mem : (regSet s a v).mem = s.mem := rfl
@[simp] theorem regSet_sec : (regSet s a v).sec = s.sec := rfl
@[simp] theorem regSet_peat : (regSet s a v).peat = s.peat := rfl

end

/-! ### regPut -/

section
variable (s : State) (a hi lo v : Nat)

@[simp] theorem regPut_pending : (regPut s a hi lo v).pending = s.pending := rfl
@[simp] theorem regPut_free : (regPut s a hi lo v).free = s.free := rfl
@[simp] theorem regPut_out : (regPut s a hi lo v).out = s.out := rfl
@[simp] theorem regPut_rdata : (regPut s a hi lo v).rdata = s.rdata := rfl
@[simp] theorem regPut_hold64 : (regPut s a hi lo v).hold64 = s.hold64 := rfl
@[simp] theorem regPut_latch64 : (regPut s a hi lo v).latch64 = s.latch64 := rfl
@[simp] theorem regPut_sys : (regPut s a hi lo v).sys = s.sys := rfl
@[simp] theorem regPut_sa : (regPut s a hi lo v).sa = s.sa := rfl
@[simp] theorem regPut_frst : (regPut s a hi lo v).frst = s.frst := rfl
@[simp] theorem regPut_tmr : (regPut s a hi lo v).tmr = s.tmr := rfl
@[simp] theorem regPut_log : (regPut s a hi lo v).log = s.log := rfl
@[simp] theorem regPut_img : (regPut s a hi lo v).img = s.img := rfl
@[simp] theorem regPut_fab : (regPut s a hi lo v).fab = s.fab := rfl
@[simp] theorem regPut_swg : (regPut s a hi lo v).swg = s.swg := rfl
@[simp] theorem regPut_swgOld : (regPut s a hi lo v).swgOld = s.swgOld := rfl
@[simp] theorem regPut_rdl : (regPut s a hi lo v).rdl = s.rdl := rfl
@[simp] theorem regPut_rdlOld : (regPut s a hi lo v).rdlOld = s.rdlOld := rfl
@[simp] theorem regPut_crd : (regPut s a hi lo v).crd = s.crd := rfl
@[simp] theorem regPut_txRd : (regPut s a hi lo v).txRd = s.txRd := rfl
@[simp] theorem regPut_ggd : (regPut s a hi lo v).ggd = s.ggd := rfl
@[simp] theorem regPut_adc : (regPut s a hi lo v).adc = s.adc := rfl
@[simp] theorem regPut_rcd : (regPut s a hi lo v).rcd = s.rcd := rfl
@[simp] theorem regPut_clk : (regPut s a hi lo v).clk = s.clk := rfl
@[simp] theorem regPut_tim : (regPut s a hi lo v).tim = s.tim := rfl
@[simp] theorem regPut_fio : (regPut s a hi lo v).fio = s.fio := rfl
@[simp] theorem regPut_mon : (regPut s a hi lo v).mon = s.mon := rfl
@[simp] theorem regPut_hif : (regPut s a hi lo v).hif = s.hif := rfl
@[simp] theorem regPut_stk : (regPut s a hi lo v).stk = s.stk := rfl
@[simp] theorem regPut_red : (regPut s a hi lo v).red = s.red := rfl
@[simp] theorem regPut_saf : (regPut s a hi lo v).saf = s.saf := rfl
@[simp] theorem regPut_mem : (regPut s a hi lo v).mem = s.mem := rfl
@[simp] theorem regPut_sec : (regPut s a hi lo v).sec = s.sec := rfl
@[simp] theorem regPut_peat : (regPut s a hi lo v).peat = s.peat := rfl

end

/-! ### regInc -/

section
variable (s : State) (a hi lo : Nat)

@[simp] theorem regInc_pending : (regInc s a hi lo).pending = s.pending := rfl
@[simp] theorem regInc_free : (regInc s a hi lo).free = s.free := rfl
@[simp] theorem regInc_out : (regInc s a hi lo).out = s.out := rfl
@[simp] theorem regInc_rdata : (regInc s a hi lo).rdata = s.rdata := rfl
@[simp] theorem regInc_hold64 : (regInc s a hi lo).hold64 = s.hold64 := rfl
@[simp] theorem regInc_latch64 : (regInc s a hi lo).latch64 = s.latch64 := rfl
@[simp] theorem regInc_sys : (regInc s a hi lo).sys = s.sys := rfl
@[simp] theorem regInc_sa : (regInc s a hi lo).sa = s.sa := rfl
@[simp] theorem regInc_frst : (regInc s a hi lo).frst = s.frst := rfl
@[simp] theorem regInc_tmr : (regInc s a hi lo).tmr = s.tmr := rfl
@[simp] theorem regInc_log : (regInc s a hi lo).log = s.log := rfl
@[simp] theorem regInc_img : (regInc s a hi lo).img = s.img := rfl
@[simp] theorem regInc_fab : (regInc s a hi lo).fab = s.fab := rfl
@[simp] theorem regInc_swg : (regInc s a hi lo).swg = s.swg := rfl
@[simp] theorem regInc_swgOld : (regInc s a hi lo).swgOld = s.swgOld := rfl
@[simp] theorem regInc_rdl : (regInc s a hi lo).rdl = s.rdl := rfl
@[simp] theorem regInc_rdlOld : (regInc s a hi lo).rdlOld = s.rdlOld := rfl
@[simp] theorem regInc_crd : (regInc s a hi lo).crd = s.crd := rfl
@[simp] theorem regInc_txRd : (regInc s a hi lo).txRd = s.txRd := rfl
@[simp] theorem regInc_ggd : (regInc s a hi lo).ggd = s.ggd := rfl
@[simp] theorem regInc_adc : (regInc s a hi lo).adc = s.adc := rfl
@[simp] theorem regInc_rcd : (regInc s a hi lo).rcd = s.rcd := rfl
@[simp] theorem regInc_clk : (regInc s a hi lo).clk = s.clk := rfl
@[simp] theorem regInc_tim : (regInc s a hi lo).tim = s.tim := rfl
@[simp] theorem regInc_fio : (regInc s a hi lo).fio = s.fio := rfl
@[simp] theorem regInc_mon : (regInc s a hi lo).mon = s.mon := rfl
@[simp] theorem regInc_hif : (regInc s a hi lo).hif = s.hif := rfl
@[simp] theorem regInc_stk : (regInc s a hi lo).stk = s.stk := rfl
@[simp] theorem regInc_red : (regInc s a hi lo).red = s.red := rfl
@[simp] theorem regInc_saf : (regInc s a hi lo).saf = s.saf := rfl
@[simp] theorem regInc_mem : (regInc s a hi lo).mem = s.mem := rfl
@[simp] theorem regInc_sec : (regInc s a hi lo).sec = s.sec := rfl
@[simp] theorem regInc_peat : (regInc s a hi lo).peat = s.peat := rfl

end

/-! ### setFlag -/

section
variable (s : State) (fn b : Nat)

@[simp] theorem setFlag_pending : (setFlag s fn b).pending = s.pending := congrArg (fun t => t.pending) (setFlag_reported s fn b)
@[simp] theorem setFlag_free : (setFlag s fn b).free = s.free := by
  unfold setFlag
  first | rfl | (dsimp only; repeat' split) <;> simp
@[simp] theorem setFlag_rdata : (setFlag s fn b).rdata = s.rdata := congrArg (fun t => t.rdata) (setFlag_reported s fn b)
@[simp] theorem setFlag_hold64 : (setFlag s fn b).hold64 = s.hold64 := congrArg (fun t => t.hold64) (setFlag_reported s fn b)
@[simp] theorem setFlag_latch64 : (setFlag s fn b).latch64 = s.latch64 := congrArg (fun t => t.latch64) (setFlag_reported s fn b)
@[simp] theorem setFlag_sys : (setFlag s fn b).sys = s.sys := congrArg (fun t => t.sys) (setFlag_reported s fn b)
@[simp] theorem setFlag_sa : (setFlag s fn b).sa = s.sa := congrArg (fun t => t.sa) (setFlag_reported s fn b)
@[simp] theorem setFlag_frst : (setFlag s fn b).frst = s.frst := congrArg (fun t => t.frst) (setFlag_reported s fn b)
@[simp] theorem setFlag_tmr : (setFlag s fn b).tmr = s.tmr := congrArg (fun t => t.tmr) (setFlag_reported s fn b)
@[simp] theorem setFlag_log : (setFlag s fn b).log = s.log := by
  unfold setFlag
  first | rfl | (dsimp only; repeat' split) <;> simp
@[simp] theorem setFlag_img : (setFlag s fn b).img = s.img := congrArg (fun t => t.img) (setFlag_reported s fn b)
@[simp] theorem setFlag_fab : (setFlag s fn b).fab = s.fab := congrArg (fun t => t.fab) (setFlag_reported s fn b)
@[simp] theorem setFlag_swg : (setFlag s fn b).swg = s.swg := congrArg (fun t => t.swg) (setFlag_reported s fn b)
@[simp] theorem setFlag_swgOld : (setFlag s fn b).swgOld = s.swgOld := congrArg (fun t => t.swgOld) (setFlag_reported s fn b)
@[simp] theorem setFlag_rdl : (setFlag s fn b).rdl = s.rdl := congrArg (fun t => t.rdl) (setFlag_reported s fn b)
@[simp] theorem setFlag_rdlOld : (setFlag s fn b).rdlOld = s.rdlOld := congrArg (fun t => t.rdlOld) (setFlag_reported s fn b)
@[simp] theorem setFlag_crd : (setFlag s fn b).crd = s.crd := congrArg (fun t => t.crd) (setFlag_reported s fn b)
@[simp] theorem setFlag_txRd : (setFlag s fn b).txRd = s.txRd := congrArg (fun t => t.txRd) (setFlag_reported s fn b)
@[simp] theorem setFlag_ggd : (setFlag s fn b).ggd = s.ggd := congrArg (fun t => t.ggd) (setFlag_reported s fn b)
@[simp] theorem setFlag_adc : (setFlag s fn b).adc = s.adc := congrArg (fun t => t.adc) (setFlag_reported s fn b)
@[simp] theorem setFlag_rcd : (setFlag s fn b).rcd = s.rcd := congrArg (fun t => t.rcd) (setFlag_reported s fn b)
@[simp] theorem setFlag_clk : (setFlag s fn b).clk = s.clk := congrArg (fun t => t.clk) (setFlag_reported s fn b)
@[simp] theorem setFlag_tim : (setFlag s fn b).tim = s.tim := congrArg (fun t => t.tim) (setFlag_reported s fn b)
@[simp] theorem setFlag_fio : (setFlag s fn b).fio = s.fio := congrArg (fun t => t.fio) (setFlag_reported s fn b)
@[simp] theorem setFlag_mon : (setFlag s fn b).mon = s.mon := congrArg (fun t => t.mon) (setFlag_reported s fn b)
@[simp] theorem setFlag_hif_up : (setFlag s fn b).hif.up = s.hif.up := congrArg (fun t => t.hif.up) (setFlag_reported s fn b)
@[simp] theorem setFlag_hif_gen : (setFlag s fn b).hif.gen = s.hif.gen := congrArg (fun t => t.hif.gen) (setFlag_reported s fn b)
@[simp] theorem setFlag_hif_width : (setFlag s fn b).hif.width = s.hif.width := congrArg (fun t => t.hif.width) (setFlag_reported s fn b)
@[simp] theorem setFlag_stk : (setFlag s fn b).stk = s.stk := congrArg (fun t => t.stk) (setFlag_reported s fn b)
@[simp] theorem setFlag_red : (setFlag s fn b).red = s.red := congrArg (fun t => t.red) (setFlag_reported s fn b)
@[simp] theorem setFlag_saf : (setFlag s fn b).saf = s.saf := congrArg (fun t => t.saf) (setFlag_reported s fn b)
@[simp] theorem setFlag_mem : (setFlag s fn b).mem = s.mem := by
  unfold setFlag
  dsimp only
  repeat' split
  all_goals simp
@[simp] theorem setFlag_sec : (setFlag s fn b).sec = s.sec := congrArg (fun t => t.sec) (setFlag_reported s fn b)
@[simp] theorem setFlag_peat : (setFlag s fn b).peat = s.peat := congrArg (fun t => t.peat) (setFlag_reported s fn b)

end

/-! ### fresh -/

section
variable (s : State)

@[simp] theorem fresh_pending : ((fresh s).2).pending = s.pending := rfl
@[simp] theorem fresh_out : ((fresh s).2).out = s.out := rfl
@[simp] theorem fresh_rdata : ((fresh s).2).rdata = s.rdata := rfl
@[simp] theorem fresh_regs : ((fresh s).2).regs = s.regs := rfl
@[simp] theorem fresh_hold64 : ((fresh s).2).hold64 = s.hold64 := rfl
@[simp] theorem fresh_latch64 : ((fresh s).2).latch64 = s.latch64 := rfl
@[simp] theorem fresh_sys : ((fresh s).2).sys = s.sys := rfl
@[simp] theorem fresh_sa : ((fresh s).2).sa = s.sa := rfl
@[simp] theorem fresh_frst : ((fresh s).2).frst = s.frst := rfl
@[simp] theorem fresh_tmr : ((fresh s).2).tmr = s.tmr := rfl
@[simp] theorem fresh_log : ((fresh s).2).log = s.log := rfl
@[simp] theorem fresh_img : ((fresh s).2).img = s.img := rfl
@[simp] theorem fresh_fab : ((fresh s).2).fab = s.fab := rfl
@[simp] theorem fresh_swg : ((fresh s).2).swg = s.swg := rfl
@[simp] theorem fresh_swgOld : ((fresh s).2).swgOld = s.swgOld := rfl
@[simp] theorem fresh_rdl : ((fresh s).2).rdl = s.rdl := rfl
@[simp] theorem fresh_rdlOld : ((fresh s).2).rdlOld = s.rdlOld := rfl
@[simp] theorem fresh_crd : ((fresh s).2).crd = s.crd := rfl
@[simp] theorem fresh_txRd : ((fresh s).2).txRd = s.txRd := rfl
@[simp] theorem fresh_ggd : ((fresh s).2).ggd = s.ggd := rfl
@[simp] theorem fresh_adc : ((fresh s).2).adc = s.adc := rfl
@[simp] theorem fresh_rcd : ((fresh s).2).rcd = s.rcd := rfl
@[simp] theorem fresh_clk : ((fresh s).2).clk = s.clk := rfl
@[simp] theorem fresh_tim : ((fresh s).2).tim = s.tim := rfl
@[simp] theorem fresh_fio : ((fresh s).2).fio = s.fio := rfl
@[simp] theorem fresh_mon : ((fresh s).2).mon = s.mon := rfl
@[simp] theorem fresh_hif : ((fresh s).2).hif = s.hif := rfl
@[simp] theorem fresh_stk : ((fresh s).2).stk = s.stk := rfl
@[simp] theorem fresh_red : ((fresh s).2).red = s.red := rfl
@[simp] theorem fresh_saf : ((fresh s).2).saf = s.saf := rfl
@[simp] theorem fresh_mem : ((fresh s).2).mem = s.mem := rfl
@[simp] theorem fresh_sec : ((fresh s).2).sec = s.sec := rfl
@[simp] theorem fresh_peat : ((fresh s).2).peat = s.peat := rfl

end

/-! ### freshBelow -/

section
variable (s : State) (n : Nat)

@[simp] theorem freshBelow_pending : ((freshBelow s n).2).pending = s.pending := rfl
@[simp] theorem freshBelow_out : ((freshBelow s n).2).out = s.out := rfl
@[simp] theorem freshBelow_rdata : ((freshBelow s n).2).rdata = s.rdata := rfl
@[simp] theorem freshBelow_regs : ((freshBelow s n).2).regs = s.regs := rfl
@[simp] theorem freshBelow_hold64 : ((freshBelow s n).2).hold64 = s.hold64 := rfl
@[simp] theorem freshBelow_latch64 : ((freshBelow s n).2).latch64 = s.latch64 := rfl
@[simp] theorem freshBelow_sys : ((freshBelow s n).2).sys = s.sys := rfl
@[simp] theorem freshBelow_sa : ((freshBelow s n).2).sa = s.sa := rfl
@[simp] theorem freshBelow_frst : ((freshBelow s n).2).frst = s.frst := rfl
@[simp] theorem freshBelow_tmr : ((freshBelow s n).2).tmr = s.tmr := rfl
@[simp] theorem freshBelow_log : ((freshBelow s n).2).log = s.log := rfl
@[simp] theorem freshBelow_img : ((freshBelow s n).2).img = s.img := rfl
@[simp] theorem freshBelow_fab : ((freshBelow s n).2).fab = s.fab := rfl
@[simp] theorem freshBelow_swg : ((freshBelow s n).2).swg = s.swg := rfl
@[simp] theorem freshBelow_swgOld : ((freshBelow s n).2).swgOld = s.swgOld := rfl
@[simp] theorem freshBelow_rdl : ((freshBelow s n).2).rdl = s.rdl := rfl
@[simp] theorem freshBelow_rdlOld : ((freshBelow s n).2).rdlOld = s.rdlOld := rfl
@[simp] theorem freshBelow_crd : ((freshBelow s n).2).crd = s.crd := rfl
@[simp] theorem freshBelow_txRd : ((freshBelow s n).2).txRd = s.txRd := rfl
@[simp] theorem freshBelow_ggd : ((freshBelow s n).2).ggd = s.ggd := rfl
@[simp] theorem freshBelow_adc : ((freshBelow s n).2).adc = s.adc := rfl
@[simp] theorem freshBelow_rcd : ((freshBelow s n).2).rcd = s.rcd := rfl
@[simp] theorem freshBelow_clk : ((freshBelow s n).2).clk = s.clk := rfl
@[simp] theorem freshBelow_tim : ((freshBelow s n).2).tim = s.tim := rfl
@[simp] theorem freshBelow_fio : ((freshBelow s n).2).fio = s.fio := rfl
@[simp] theorem freshBelow_mon : ((freshBelow s n).2).mon = s.mon := rfl
@[simp] theorem freshBelow_hif : ((freshBelow s n).2).hif = s.hif := rfl
@[simp] theorem freshBelow_stk : ((freshBelow s n).2).stk = s.stk := rfl
@[simp] theorem freshBelow_red : ((freshBelow s n).2).red = s.red := rfl
@[simp] theorem freshBelow_saf : ((freshBelow s n).2).saf = s.saf := rfl
@[simp] theorem freshBelow_mem : ((freshBelow s n).2).mem = s.mem := rfl
@[simp] theorem freshBelow_sec : ((freshBelow s n).2).sec = s.sec := rfl
@[simp] theorem freshBelow_peat : ((freshBelow s n).2).peat = s.peat := rfl

end

/-! ### stamp -/

section
variable (s : State)

@[simp] theorem stamp_pending : ((stamp s).2).pending = s.pending := rfl
@[simp] theorem stamp_out : ((stamp s).2).out = s.out := rfl
@[simp] theorem stamp_rdata : ((stamp s).2).rdata = s.rdata := rfl
@[simp] theorem stamp_regs : ((stamp s).2).regs = s.regs := rfl
@[simp] theorem stamp_hold64 : ((stamp s).2).hold64 = s.hold64 := rfl
@[simp] theorem stamp_latch64 : ((stamp s).2).latch64 = s.latch64 := rfl
@[simp] theorem stamp_sys : ((stamp s).2).sys = s.sys := rfl
@[simp] theorem stamp_sa : ((stamp s).2).sa = s.sa := rfl
@[simp] theorem stamp_frst : ((stamp s).2).frst = s.frst := rfl
@[simp] theorem stamp_tmr : ((stamp s).2).tmr = s.tmr := rfl
@[simp] theorem stamp_log : ((stamp s).2).log = s.log := rfl
@[simp] theorem stamp_img : ((stamp s).2).img = s.img := rfl
@[simp] theorem stamp_fab : ((stamp s).2).fab = s.fab := rfl
@[simp] theorem stamp_swg : ((stamp s).2).swg = s.swg := rfl
@[simp] theorem stamp_swgOld : ((stamp s).2).swgOld = s.swgOld := rfl
@[simp] theorem stamp_rdl : ((stamp s).2).rdl = s.rdl := rfl
@[simp] theorem stamp_rdlOld : ((stamp s).2).rdlOld = s.rdlOld := rfl
@[simp] theorem stamp_crd : ((stamp s).2).crd = s.crd := rfl
@[simp] theorem stamp_txRd : ((stamp s).2).txRd = s.txRd := rfl
@[simp] theorem stamp_ggd : ((stamp s).2).ggd = s.ggd := rfl
@[simp] theorem stamp_adc : ((stamp s).2).adc = s.adc := rfl
@[simp] theorem stamp_rcd : ((stamp s).2).rcd = s.rcd := rfl
@[simp] theorem stamp_clk : ((stamp s).2).clk = s.clk := rfl
@[simp] theorem stamp_tim : ((stamp s).2).tim = s.tim := rfl
@[simp] theorem stamp_fio : ((stamp s).2).fio = s.fio := rfl
@[simp] theorem stamp_mon : ((stamp s).2).mon = s.mon := rfl
@[simp] theorem stamp_hif : ((stamp s).2).hif = s.hif := rfl
@[simp] theorem stamp_stk : ((stamp s).2).stk = s.stk := rfl
@[simp] theorem stamp_red : ((stamp s).2).red = s.red := rfl
@[simp] theorem stamp_saf : ((stamp s).2).saf = s.saf := rfl
@[simp] theorem stamp_mem : ((stamp s).2).mem = s.mem := rfl
@[simp] theorem stamp_sec : ((stamp s).2).sec = s.sec := rfl
@[simp] theorem stamp_peat : ((stamp s).2).peat = s.peat := rfl

end

/-! ### countDeny -/

section
variable (s : State)

@[simp] theorem countDeny_pending : (countDeny s).pending = s.pending := congrArg (fun t => t.pending) (countDeny_reported s)
@[simp] theorem countDeny_free : (countDeny s).free = s.free := by simp [countDeny]
@[simp] theorem countDeny_rdata : (countDeny s).rdata = s.rdata := congrArg (fun t => t.rdata) (countDeny_reported s)
@[simp] theorem countDeny_hold64 : (countDeny s).hold64 = s.hold64 := congrArg (fun t => t.hold64) (countDeny_reported s)
@[simp] theorem countDeny_latch64 : (countDeny s).latch64 = s.latch64 := congrArg (fun t => t.latch64) (countDeny_reported s)
@[simp] theorem countDeny_sys : (countDeny s).sys = s.sys := congrArg (fun t => t.sys) (countDeny_reported s)
@[simp] theorem countDeny_sa : (countDeny s).sa = s.sa := congrArg (fun t => t.sa) (countDeny_reported s)
@[simp] theorem countDeny_frst : (countDeny s).frst = s.frst := congrArg (fun t => t.frst) (countDeny_reported s)
@[simp] theorem countDeny_tmr : (countDeny s).tmr = s.tmr := congrArg (fun t => t.tmr) (countDeny_reported s)
@[simp] theorem countDeny_log : (countDeny s).log = s.log := by simp [countDeny]
@[simp] theorem countDeny_img : (countDeny s).img = s.img := congrArg (fun t => t.img) (countDeny_reported s)
@[simp] theorem countDeny_fab : (countDeny s).fab = s.fab := congrArg (fun t => t.fab) (countDeny_reported s)
@[simp] theorem countDeny_swg : (countDeny s).swg = s.swg := congrArg (fun t => t.swg) (countDeny_reported s)
@[simp] theorem countDeny_swgOld : (countDeny s).swgOld = s.swgOld := congrArg (fun t => t.swgOld) (countDeny_reported s)
@[simp] theorem countDeny_rdl : (countDeny s).rdl = s.rdl := congrArg (fun t => t.rdl) (countDeny_reported s)
@[simp] theorem countDeny_rdlOld : (countDeny s).rdlOld = s.rdlOld := congrArg (fun t => t.rdlOld) (countDeny_reported s)
@[simp] theorem countDeny_crd : (countDeny s).crd = s.crd := congrArg (fun t => t.crd) (countDeny_reported s)
@[simp] theorem countDeny_txRd : (countDeny s).txRd = s.txRd := congrArg (fun t => t.txRd) (countDeny_reported s)
@[simp] theorem countDeny_ggd : (countDeny s).ggd = s.ggd := congrArg (fun t => t.ggd) (countDeny_reported s)
@[simp] theorem countDeny_adc : (countDeny s).adc = s.adc := congrArg (fun t => t.adc) (countDeny_reported s)
@[simp] theorem countDeny_rcd : (countDeny s).rcd = s.rcd := congrArg (fun t => t.rcd) (countDeny_reported s)
@[simp] theorem countDeny_clk : (countDeny s).clk = s.clk := congrArg (fun t => t.clk) (countDeny_reported s)
@[simp] theorem countDeny_tim : (countDeny s).tim = s.tim := congrArg (fun t => t.tim) (countDeny_reported s)
@[simp] theorem countDeny_fio : (countDeny s).fio = s.fio := congrArg (fun t => t.fio) (countDeny_reported s)
@[simp] theorem countDeny_mon : (countDeny s).mon = s.mon := congrArg (fun t => t.mon) (countDeny_reported s)
@[simp] theorem countDeny_hif_up : (countDeny s).hif.up = s.hif.up := congrArg (fun t => t.hif.up) (countDeny_reported s)
@[simp] theorem countDeny_hif_gen : (countDeny s).hif.gen = s.hif.gen := congrArg (fun t => t.hif.gen) (countDeny_reported s)
@[simp] theorem countDeny_hif_width : (countDeny s).hif.width = s.hif.width := congrArg (fun t => t.hif.width) (countDeny_reported s)
@[simp] theorem countDeny_stk : (countDeny s).stk = s.stk := congrArg (fun t => t.stk) (countDeny_reported s)
@[simp] theorem countDeny_red : (countDeny s).red = s.red := congrArg (fun t => t.red) (countDeny_reported s)
@[simp] theorem countDeny_saf : (countDeny s).saf = s.saf := congrArg (fun t => t.saf) (countDeny_reported s)
@[simp] theorem countDeny_mem_dev : (countDeny s).mem.dev = s.mem.dev := congrArg (fun t => t.mem.dev) (countDeny_reported s)
@[simp] theorem countDeny_mem_pwr : (countDeny s).mem.pwr = s.mem.pwr := congrArg (fun t => t.mem.pwr) (countDeny_reported s)
@[simp] theorem countDeny_mem_rgnGen : (countDeny s).mem.rgnGen = s.mem.rgnGen := congrArg (fun t => t.mem.rgnGen) (countDeny_reported s)
@[simp] theorem countDeny_mem_parity : (countDeny s).mem.parity = s.mem.parity := congrArg (fun t => t.mem.parity) (countDeny_reported s)
@[simp] theorem countDeny_mem_blkReady : (countDeny s).mem.blkReady = s.mem.blkReady := congrArg (fun t => t.mem.blkReady) (countDeny_reported s)
@[simp] theorem countDeny_mem_scrub : (countDeny s).mem.scrub = s.mem.scrub := congrArg (fun t => t.mem.scrub) (countDeny_reported s)
@[simp] theorem countDeny_mem_ueAddr : (countDeny s).mem.ueAddr = s.mem.ueAddr := congrArg (fun t => t.mem.ueAddr) (countDeny_reported s)
@[simp] theorem countDeny_sec : (countDeny s).sec = s.sec := congrArg (fun t => t.sec) (countDeny_reported s)
@[simp] theorem countDeny_peat : (countDeny s).peat = s.peat := congrArg (fun t => t.peat) (countDeny_reported s)

end

/-! ### logAt -/

section
variable (s : State) (u fn code arg : Nat)

@[simp] theorem logAt_pending : (logAt s u fn code arg).pending = s.pending := congrArg (fun t => t.pending) (logAt_reported s u fn code arg)
@[simp] theorem logAt_free : (logAt s u fn code arg).free = s.free := by
  unfold logAt
  first | rfl | (dsimp only; repeat' split) <;> simp
@[simp] theorem logAt_rdata : (logAt s u fn code arg).rdata = s.rdata := congrArg (fun t => t.rdata) (logAt_reported s u fn code arg)
@[simp] theorem logAt_hold64 : (logAt s u fn code arg).hold64 = s.hold64 := congrArg (fun t => t.hold64) (logAt_reported s u fn code arg)
@[simp] theorem logAt_latch64 : (logAt s u fn code arg).latch64 = s.latch64 := congrArg (fun t => t.latch64) (logAt_reported s u fn code arg)
@[simp] theorem logAt_sys : (logAt s u fn code arg).sys = s.sys := congrArg (fun t => t.sys) (logAt_reported s u fn code arg)
@[simp] theorem logAt_sa : (logAt s u fn code arg).sa = s.sa := congrArg (fun t => t.sa) (logAt_reported s u fn code arg)
@[simp] theorem logAt_frst : (logAt s u fn code arg).frst = s.frst := congrArg (fun t => t.frst) (logAt_reported s u fn code arg)
@[simp] theorem logAt_tmr : (logAt s u fn code arg).tmr = s.tmr := congrArg (fun t => t.tmr) (logAt_reported s u fn code arg)
@[simp] theorem logAt_img : (logAt s u fn code arg).img = s.img := congrArg (fun t => t.img) (logAt_reported s u fn code arg)
@[simp] theorem logAt_fab : (logAt s u fn code arg).fab = s.fab := congrArg (fun t => t.fab) (logAt_reported s u fn code arg)
@[simp] theorem logAt_swg : (logAt s u fn code arg).swg = s.swg := congrArg (fun t => t.swg) (logAt_reported s u fn code arg)
@[simp] theorem logAt_swgOld : (logAt s u fn code arg).swgOld = s.swgOld := congrArg (fun t => t.swgOld) (logAt_reported s u fn code arg)
@[simp] theorem logAt_rdl : (logAt s u fn code arg).rdl = s.rdl := congrArg (fun t => t.rdl) (logAt_reported s u fn code arg)
@[simp] theorem logAt_rdlOld : (logAt s u fn code arg).rdlOld = s.rdlOld := congrArg (fun t => t.rdlOld) (logAt_reported s u fn code arg)
@[simp] theorem logAt_crd : (logAt s u fn code arg).crd = s.crd := congrArg (fun t => t.crd) (logAt_reported s u fn code arg)
@[simp] theorem logAt_txRd : (logAt s u fn code arg).txRd = s.txRd := congrArg (fun t => t.txRd) (logAt_reported s u fn code arg)
@[simp] theorem logAt_ggd : (logAt s u fn code arg).ggd = s.ggd := congrArg (fun t => t.ggd) (logAt_reported s u fn code arg)
@[simp] theorem logAt_adc : (logAt s u fn code arg).adc = s.adc := congrArg (fun t => t.adc) (logAt_reported s u fn code arg)
@[simp] theorem logAt_rcd : (logAt s u fn code arg).rcd = s.rcd := congrArg (fun t => t.rcd) (logAt_reported s u fn code arg)
@[simp] theorem logAt_clk : (logAt s u fn code arg).clk = s.clk := congrArg (fun t => t.clk) (logAt_reported s u fn code arg)
@[simp] theorem logAt_tim : (logAt s u fn code arg).tim = s.tim := congrArg (fun t => t.tim) (logAt_reported s u fn code arg)
@[simp] theorem logAt_fio : (logAt s u fn code arg).fio = s.fio := congrArg (fun t => t.fio) (logAt_reported s u fn code arg)
@[simp] theorem logAt_mon : (logAt s u fn code arg).mon = s.mon := congrArg (fun t => t.mon) (logAt_reported s u fn code arg)
@[simp] theorem logAt_hif_up : (logAt s u fn code arg).hif.up = s.hif.up := congrArg (fun t => t.hif.up) (logAt_reported s u fn code arg)
@[simp] theorem logAt_hif_gen : (logAt s u fn code arg).hif.gen = s.hif.gen := congrArg (fun t => t.hif.gen) (logAt_reported s u fn code arg)
@[simp] theorem logAt_hif_width : (logAt s u fn code arg).hif.width = s.hif.width := congrArg (fun t => t.hif.width) (logAt_reported s u fn code arg)
@[simp] theorem logAt_stk : (logAt s u fn code arg).stk = s.stk := congrArg (fun t => t.stk) (logAt_reported s u fn code arg)
@[simp] theorem logAt_red : (logAt s u fn code arg).red = s.red := congrArg (fun t => t.red) (logAt_reported s u fn code arg)
@[simp] theorem logAt_saf : (logAt s u fn code arg).saf = s.saf := congrArg (fun t => t.saf) (logAt_reported s u fn code arg)
@[simp] theorem logAt_mem_dev : (logAt s u fn code arg).mem.dev = s.mem.dev := congrArg (fun t => t.mem.dev) (logAt_reported s u fn code arg)
@[simp] theorem logAt_mem_pwr : (logAt s u fn code arg).mem.pwr = s.mem.pwr := congrArg (fun t => t.mem.pwr) (logAt_reported s u fn code arg)
@[simp] theorem logAt_mem_rgnGen : (logAt s u fn code arg).mem.rgnGen = s.mem.rgnGen := congrArg (fun t => t.mem.rgnGen) (logAt_reported s u fn code arg)
@[simp] theorem logAt_mem_parity : (logAt s u fn code arg).mem.parity = s.mem.parity := congrArg (fun t => t.mem.parity) (logAt_reported s u fn code arg)
@[simp] theorem logAt_mem_blkReady : (logAt s u fn code arg).mem.blkReady = s.mem.blkReady := congrArg (fun t => t.mem.blkReady) (logAt_reported s u fn code arg)
@[simp] theorem logAt_mem_scrub : (logAt s u fn code arg).mem.scrub = s.mem.scrub := congrArg (fun t => t.mem.scrub) (logAt_reported s u fn code arg)
@[simp] theorem logAt_mem_ueAddr : (logAt s u fn code arg).mem.ueAddr = s.mem.ueAddr := congrArg (fun t => t.mem.ueAddr) (logAt_reported s u fn code arg)
@[simp] theorem logAt_sec : (logAt s u fn code arg).sec = s.sec := congrArg (fun t => t.sec) (logAt_reported s u fn code arg)
@[simp] theorem logAt_peat : (logAt s u fn code arg).peat = s.peat := congrArg (fun t => t.peat) (logAt_reported s u fn code arg)

end

/-! ### logBound -/

section
variable (s : State) (fn code arg : Nat)

@[simp] theorem logBound_pending : (logBound s fn code arg).pending = s.pending := congrArg (fun t => t.pending) (logBound_reported s fn code arg)
@[simp] theorem logBound_free : (logBound s fn code arg).free = s.free := by simp [logBound]
@[simp] theorem logBound_rdata : (logBound s fn code arg).rdata = s.rdata := congrArg (fun t => t.rdata) (logBound_reported s fn code arg)
@[simp] theorem logBound_hold64 : (logBound s fn code arg).hold64 = s.hold64 := congrArg (fun t => t.hold64) (logBound_reported s fn code arg)
@[simp] theorem logBound_latch64 : (logBound s fn code arg).latch64 = s.latch64 := congrArg (fun t => t.latch64) (logBound_reported s fn code arg)
@[simp] theorem logBound_sys : (logBound s fn code arg).sys = s.sys := congrArg (fun t => t.sys) (logBound_reported s fn code arg)
@[simp] theorem logBound_sa : (logBound s fn code arg).sa = s.sa := congrArg (fun t => t.sa) (logBound_reported s fn code arg)
@[simp] theorem logBound_frst : (logBound s fn code arg).frst = s.frst := congrArg (fun t => t.frst) (logBound_reported s fn code arg)
@[simp] theorem logBound_tmr : (logBound s fn code arg).tmr = s.tmr := congrArg (fun t => t.tmr) (logBound_reported s fn code arg)
@[simp] theorem logBound_img : (logBound s fn code arg).img = s.img := congrArg (fun t => t.img) (logBound_reported s fn code arg)
@[simp] theorem logBound_fab : (logBound s fn code arg).fab = s.fab := congrArg (fun t => t.fab) (logBound_reported s fn code arg)
@[simp] theorem logBound_swg : (logBound s fn code arg).swg = s.swg := congrArg (fun t => t.swg) (logBound_reported s fn code arg)
@[simp] theorem logBound_swgOld : (logBound s fn code arg).swgOld = s.swgOld := congrArg (fun t => t.swgOld) (logBound_reported s fn code arg)
@[simp] theorem logBound_rdl : (logBound s fn code arg).rdl = s.rdl := congrArg (fun t => t.rdl) (logBound_reported s fn code arg)
@[simp] theorem logBound_rdlOld : (logBound s fn code arg).rdlOld = s.rdlOld := congrArg (fun t => t.rdlOld) (logBound_reported s fn code arg)
@[simp] theorem logBound_crd : (logBound s fn code arg).crd = s.crd := congrArg (fun t => t.crd) (logBound_reported s fn code arg)
@[simp] theorem logBound_txRd : (logBound s fn code arg).txRd = s.txRd := congrArg (fun t => t.txRd) (logBound_reported s fn code arg)
@[simp] theorem logBound_ggd : (logBound s fn code arg).ggd = s.ggd := congrArg (fun t => t.ggd) (logBound_reported s fn code arg)
@[simp] theorem logBound_adc : (logBound s fn code arg).adc = s.adc := congrArg (fun t => t.adc) (logBound_reported s fn code arg)
@[simp] theorem logBound_rcd : (logBound s fn code arg).rcd = s.rcd := congrArg (fun t => t.rcd) (logBound_reported s fn code arg)
@[simp] theorem logBound_clk : (logBound s fn code arg).clk = s.clk := congrArg (fun t => t.clk) (logBound_reported s fn code arg)
@[simp] theorem logBound_tim : (logBound s fn code arg).tim = s.tim := congrArg (fun t => t.tim) (logBound_reported s fn code arg)
@[simp] theorem logBound_fio : (logBound s fn code arg).fio = s.fio := congrArg (fun t => t.fio) (logBound_reported s fn code arg)
@[simp] theorem logBound_mon : (logBound s fn code arg).mon = s.mon := congrArg (fun t => t.mon) (logBound_reported s fn code arg)
@[simp] theorem logBound_hif_up : (logBound s fn code arg).hif.up = s.hif.up := congrArg (fun t => t.hif.up) (logBound_reported s fn code arg)
@[simp] theorem logBound_hif_gen : (logBound s fn code arg).hif.gen = s.hif.gen := congrArg (fun t => t.hif.gen) (logBound_reported s fn code arg)
@[simp] theorem logBound_hif_width : (logBound s fn code arg).hif.width = s.hif.width := congrArg (fun t => t.hif.width) (logBound_reported s fn code arg)
@[simp] theorem logBound_stk : (logBound s fn code arg).stk = s.stk := congrArg (fun t => t.stk) (logBound_reported s fn code arg)
@[simp] theorem logBound_red : (logBound s fn code arg).red = s.red := congrArg (fun t => t.red) (logBound_reported s fn code arg)
@[simp] theorem logBound_saf : (logBound s fn code arg).saf = s.saf := congrArg (fun t => t.saf) (logBound_reported s fn code arg)
@[simp] theorem logBound_mem_dev : (logBound s fn code arg).mem.dev = s.mem.dev := congrArg (fun t => t.mem.dev) (logBound_reported s fn code arg)
@[simp] theorem logBound_mem_pwr : (logBound s fn code arg).mem.pwr = s.mem.pwr := congrArg (fun t => t.mem.pwr) (logBound_reported s fn code arg)
@[simp] theorem logBound_mem_rgnGen : (logBound s fn code arg).mem.rgnGen = s.mem.rgnGen := congrArg (fun t => t.mem.rgnGen) (logBound_reported s fn code arg)
@[simp] theorem logBound_mem_parity : (logBound s fn code arg).mem.parity = s.mem.parity := congrArg (fun t => t.mem.parity) (logBound_reported s fn code arg)
@[simp] theorem logBound_mem_blkReady : (logBound s fn code arg).mem.blkReady = s.mem.blkReady := congrArg (fun t => t.mem.blkReady) (logBound_reported s fn code arg)
@[simp] theorem logBound_mem_scrub : (logBound s fn code arg).mem.scrub = s.mem.scrub := congrArg (fun t => t.mem.scrub) (logBound_reported s fn code arg)
@[simp] theorem logBound_mem_ueAddr : (logBound s fn code arg).mem.ueAddr = s.mem.ueAddr := congrArg (fun t => t.mem.ueAddr) (logBound_reported s fn code arg)
@[simp] theorem logBound_sec : (logBound s fn code arg).sec = s.sec := congrArg (fun t => t.sec) (logBound_reported s fn code arg)
@[simp] theorem logBound_peat : (logBound s fn code arg).peat = s.peat := congrArg (fun t => t.peat) (logBound_reported s fn code arg)

end

/-! ### logNow -/

section
variable (s : State) (fn code arg : Nat)

@[simp] theorem logNow_pending : (logNow s fn code arg).pending = s.pending := congrArg (fun t => t.pending) (logNow_reported s fn code arg)
@[simp] theorem logNow_rdata : (logNow s fn code arg).rdata = s.rdata := congrArg (fun t => t.rdata) (logNow_reported s fn code arg)
@[simp] theorem logNow_hold64 : (logNow s fn code arg).hold64 = s.hold64 := congrArg (fun t => t.hold64) (logNow_reported s fn code arg)
@[simp] theorem logNow_latch64 : (logNow s fn code arg).latch64 = s.latch64 := congrArg (fun t => t.latch64) (logNow_reported s fn code arg)
@[simp] theorem logNow_sys : (logNow s fn code arg).sys = s.sys := congrArg (fun t => t.sys) (logNow_reported s fn code arg)
@[simp] theorem logNow_sa : (logNow s fn code arg).sa = s.sa := congrArg (fun t => t.sa) (logNow_reported s fn code arg)
@[simp] theorem logNow_frst : (logNow s fn code arg).frst = s.frst := congrArg (fun t => t.frst) (logNow_reported s fn code arg)
@[simp] theorem logNow_tmr : (logNow s fn code arg).tmr = s.tmr := congrArg (fun t => t.tmr) (logNow_reported s fn code arg)
@[simp] theorem logNow_img : (logNow s fn code arg).img = s.img := congrArg (fun t => t.img) (logNow_reported s fn code arg)
@[simp] theorem logNow_fab : (logNow s fn code arg).fab = s.fab := congrArg (fun t => t.fab) (logNow_reported s fn code arg)
@[simp] theorem logNow_swg : (logNow s fn code arg).swg = s.swg := congrArg (fun t => t.swg) (logNow_reported s fn code arg)
@[simp] theorem logNow_swgOld : (logNow s fn code arg).swgOld = s.swgOld := congrArg (fun t => t.swgOld) (logNow_reported s fn code arg)
@[simp] theorem logNow_rdl : (logNow s fn code arg).rdl = s.rdl := congrArg (fun t => t.rdl) (logNow_reported s fn code arg)
@[simp] theorem logNow_rdlOld : (logNow s fn code arg).rdlOld = s.rdlOld := congrArg (fun t => t.rdlOld) (logNow_reported s fn code arg)
@[simp] theorem logNow_crd : (logNow s fn code arg).crd = s.crd := congrArg (fun t => t.crd) (logNow_reported s fn code arg)
@[simp] theorem logNow_txRd : (logNow s fn code arg).txRd = s.txRd := congrArg (fun t => t.txRd) (logNow_reported s fn code arg)
@[simp] theorem logNow_ggd : (logNow s fn code arg).ggd = s.ggd := congrArg (fun t => t.ggd) (logNow_reported s fn code arg)
@[simp] theorem logNow_adc : (logNow s fn code arg).adc = s.adc := congrArg (fun t => t.adc) (logNow_reported s fn code arg)
@[simp] theorem logNow_rcd : (logNow s fn code arg).rcd = s.rcd := congrArg (fun t => t.rcd) (logNow_reported s fn code arg)
@[simp] theorem logNow_clk : (logNow s fn code arg).clk = s.clk := congrArg (fun t => t.clk) (logNow_reported s fn code arg)
@[simp] theorem logNow_tim : (logNow s fn code arg).tim = s.tim := congrArg (fun t => t.tim) (logNow_reported s fn code arg)
@[simp] theorem logNow_fio : (logNow s fn code arg).fio = s.fio := congrArg (fun t => t.fio) (logNow_reported s fn code arg)
@[simp] theorem logNow_mon : (logNow s fn code arg).mon = s.mon := congrArg (fun t => t.mon) (logNow_reported s fn code arg)
@[simp] theorem logNow_hif_up : (logNow s fn code arg).hif.up = s.hif.up := congrArg (fun t => t.hif.up) (logNow_reported s fn code arg)
@[simp] theorem logNow_hif_gen : (logNow s fn code arg).hif.gen = s.hif.gen := congrArg (fun t => t.hif.gen) (logNow_reported s fn code arg)
@[simp] theorem logNow_hif_width : (logNow s fn code arg).hif.width = s.hif.width := congrArg (fun t => t.hif.width) (logNow_reported s fn code arg)
@[simp] theorem logNow_stk : (logNow s fn code arg).stk = s.stk := congrArg (fun t => t.stk) (logNow_reported s fn code arg)
@[simp] theorem logNow_red : (logNow s fn code arg).red = s.red := congrArg (fun t => t.red) (logNow_reported s fn code arg)
@[simp] theorem logNow_saf : (logNow s fn code arg).saf = s.saf := congrArg (fun t => t.saf) (logNow_reported s fn code arg)
@[simp] theorem logNow_mem_dev : (logNow s fn code arg).mem.dev = s.mem.dev := congrArg (fun t => t.mem.dev) (logNow_reported s fn code arg)
@[simp] theorem logNow_mem_pwr : (logNow s fn code arg).mem.pwr = s.mem.pwr := congrArg (fun t => t.mem.pwr) (logNow_reported s fn code arg)
@[simp] theorem logNow_mem_rgnGen : (logNow s fn code arg).mem.rgnGen = s.mem.rgnGen := congrArg (fun t => t.mem.rgnGen) (logNow_reported s fn code arg)
@[simp] theorem logNow_mem_parity : (logNow s fn code arg).mem.parity = s.mem.parity := congrArg (fun t => t.mem.parity) (logNow_reported s fn code arg)
@[simp] theorem logNow_mem_blkReady : (logNow s fn code arg).mem.blkReady = s.mem.blkReady := congrArg (fun t => t.mem.blkReady) (logNow_reported s fn code arg)
@[simp] theorem logNow_mem_scrub : (logNow s fn code arg).mem.scrub = s.mem.scrub := congrArg (fun t => t.mem.scrub) (logNow_reported s fn code arg)
@[simp] theorem logNow_mem_ueAddr : (logNow s fn code arg).mem.ueAddr = s.mem.ueAddr := congrArg (fun t => t.mem.ueAddr) (logNow_reported s fn code arg)
@[simp] theorem logNow_sec : (logNow s fn code arg).sec = s.sec := congrArg (fun t => t.sec) (logNow_reported s fn code arg)
@[simp] theorem logNow_peat : (logNow s fn code arg).peat = s.peat := congrArg (fun t => t.peat) (logNow_reported s fn code arg)

end

/-! ### raise -/

section
variable (s : State) (fn b i j : Nat)

@[simp] theorem raise_pending : (raise s fn b i j).pending = s.pending := congrArg (fun t => t.pending) (raise_reported s fn b i j)
@[simp] theorem raise_rdata : (raise s fn b i j).rdata = s.rdata := congrArg (fun t => t.rdata) (raise_reported s fn b i j)
@[simp] theorem raise_hold64 : (raise s fn b i j).hold64 = s.hold64 := congrArg (fun t => t.hold64) (raise_reported s fn b i j)
@[simp] theorem raise_latch64 : (raise s fn b i j).latch64 = s.latch64 := congrArg (fun t => t.latch64) (raise_reported s fn b i j)
@[simp] theorem raise_sys : (raise s fn b i j).sys = s.sys := congrArg (fun t => t.sys) (raise_reported s fn b i j)
@[simp] theorem raise_sa : (raise s fn b i j).sa = s.sa := congrArg (fun t => t.sa) (raise_reported s fn b i j)
@[simp] theorem raise_frst : (raise s fn b i j).frst = s.frst := congrArg (fun t => t.frst) (raise_reported s fn b i j)
@[simp] theorem raise_tmr : (raise s fn b i j).tmr = s.tmr := congrArg (fun t => t.tmr) (raise_reported s fn b i j)
@[simp] theorem raise_img : (raise s fn b i j).img = s.img := congrArg (fun t => t.img) (raise_reported s fn b i j)
@[simp] theorem raise_fab : (raise s fn b i j).fab = s.fab := congrArg (fun t => t.fab) (raise_reported s fn b i j)
@[simp] theorem raise_swg : (raise s fn b i j).swg = s.swg := congrArg (fun t => t.swg) (raise_reported s fn b i j)
@[simp] theorem raise_swgOld : (raise s fn b i j).swgOld = s.swgOld := congrArg (fun t => t.swgOld) (raise_reported s fn b i j)
@[simp] theorem raise_rdl : (raise s fn b i j).rdl = s.rdl := congrArg (fun t => t.rdl) (raise_reported s fn b i j)
@[simp] theorem raise_rdlOld : (raise s fn b i j).rdlOld = s.rdlOld := congrArg (fun t => t.rdlOld) (raise_reported s fn b i j)
@[simp] theorem raise_crd : (raise s fn b i j).crd = s.crd := congrArg (fun t => t.crd) (raise_reported s fn b i j)
@[simp] theorem raise_txRd : (raise s fn b i j).txRd = s.txRd := congrArg (fun t => t.txRd) (raise_reported s fn b i j)
@[simp] theorem raise_ggd : (raise s fn b i j).ggd = s.ggd := congrArg (fun t => t.ggd) (raise_reported s fn b i j)
@[simp] theorem raise_adc : (raise s fn b i j).adc = s.adc := congrArg (fun t => t.adc) (raise_reported s fn b i j)
@[simp] theorem raise_rcd : (raise s fn b i j).rcd = s.rcd := congrArg (fun t => t.rcd) (raise_reported s fn b i j)
@[simp] theorem raise_clk : (raise s fn b i j).clk = s.clk := congrArg (fun t => t.clk) (raise_reported s fn b i j)
@[simp] theorem raise_tim : (raise s fn b i j).tim = s.tim := congrArg (fun t => t.tim) (raise_reported s fn b i j)
@[simp] theorem raise_fio : (raise s fn b i j).fio = s.fio := congrArg (fun t => t.fio) (raise_reported s fn b i j)
@[simp] theorem raise_mon : (raise s fn b i j).mon = s.mon := congrArg (fun t => t.mon) (raise_reported s fn b i j)
@[simp] theorem raise_hif_up : (raise s fn b i j).hif.up = s.hif.up := congrArg (fun t => t.hif.up) (raise_reported s fn b i j)
@[simp] theorem raise_hif_gen : (raise s fn b i j).hif.gen = s.hif.gen := congrArg (fun t => t.hif.gen) (raise_reported s fn b i j)
@[simp] theorem raise_hif_width : (raise s fn b i j).hif.width = s.hif.width := congrArg (fun t => t.hif.width) (raise_reported s fn b i j)
@[simp] theorem raise_stk : (raise s fn b i j).stk = s.stk := congrArg (fun t => t.stk) (raise_reported s fn b i j)
@[simp] theorem raise_red : (raise s fn b i j).red = s.red := congrArg (fun t => t.red) (raise_reported s fn b i j)
@[simp] theorem raise_saf : (raise s fn b i j).saf = s.saf := congrArg (fun t => t.saf) (raise_reported s fn b i j)
@[simp] theorem raise_mem_dev : (raise s fn b i j).mem.dev = s.mem.dev := congrArg (fun t => t.mem.dev) (raise_reported s fn b i j)
@[simp] theorem raise_mem_pwr : (raise s fn b i j).mem.pwr = s.mem.pwr := congrArg (fun t => t.mem.pwr) (raise_reported s fn b i j)
@[simp] theorem raise_mem_rgnGen : (raise s fn b i j).mem.rgnGen = s.mem.rgnGen := congrArg (fun t => t.mem.rgnGen) (raise_reported s fn b i j)
@[simp] theorem raise_mem_parity : (raise s fn b i j).mem.parity = s.mem.parity := congrArg (fun t => t.mem.parity) (raise_reported s fn b i j)
@[simp] theorem raise_mem_blkReady : (raise s fn b i j).mem.blkReady = s.mem.blkReady := congrArg (fun t => t.mem.blkReady) (raise_reported s fn b i j)
@[simp] theorem raise_mem_scrub : (raise s fn b i j).mem.scrub = s.mem.scrub := congrArg (fun t => t.mem.scrub) (raise_reported s fn b i j)
@[simp] theorem raise_mem_ueAddr : (raise s fn b i j).mem.ueAddr = s.mem.ueAddr := congrArg (fun t => t.mem.ueAddr) (raise_reported s fn b i j)
@[simp] theorem raise_sec : (raise s fn b i j).sec = s.sec := congrArg (fun t => t.sec) (raise_reported s fn b i j)
@[simp] theorem raise_peat : (raise s fn b i j).peat = s.peat := congrArg (fun t => t.peat) (raise_reported s fn b i j)

end

/-! ### accessErr -/

section
variable (s : State) (pf : Pf) (a kind : Nat)

@[simp] theorem accessErr_pending : (accessErr s pf a kind).pending = s.pending := congrArg (fun t => t.pending) (accessErr_reported s pf a kind)
@[simp] theorem accessErr_rdata : (accessErr s pf a kind).rdata = s.rdata := congrArg (fun t => t.rdata) (accessErr_reported s pf a kind)
@[simp] theorem accessErr_hold64 : (accessErr s pf a kind).hold64 = s.hold64 := congrArg (fun t => t.hold64) (accessErr_reported s pf a kind)
@[simp] theorem accessErr_latch64 : (accessErr s pf a kind).latch64 = s.latch64 := congrArg (fun t => t.latch64) (accessErr_reported s pf a kind)
@[simp] theorem accessErr_sys : (accessErr s pf a kind).sys = s.sys := congrArg (fun t => t.sys) (accessErr_reported s pf a kind)
@[simp] theorem accessErr_sa : (accessErr s pf a kind).sa = s.sa := congrArg (fun t => t.sa) (accessErr_reported s pf a kind)
@[simp] theorem accessErr_frst : (accessErr s pf a kind).frst = s.frst := congrArg (fun t => t.frst) (accessErr_reported s pf a kind)
@[simp] theorem accessErr_tmr : (accessErr s pf a kind).tmr = s.tmr := congrArg (fun t => t.tmr) (accessErr_reported s pf a kind)
@[simp] theorem accessErr_img : (accessErr s pf a kind).img = s.img := congrArg (fun t => t.img) (accessErr_reported s pf a kind)
@[simp] theorem accessErr_fab : (accessErr s pf a kind).fab = s.fab := congrArg (fun t => t.fab) (accessErr_reported s pf a kind)
@[simp] theorem accessErr_swg : (accessErr s pf a kind).swg = s.swg := congrArg (fun t => t.swg) (accessErr_reported s pf a kind)
@[simp] theorem accessErr_swgOld : (accessErr s pf a kind).swgOld = s.swgOld := congrArg (fun t => t.swgOld) (accessErr_reported s pf a kind)
@[simp] theorem accessErr_rdl : (accessErr s pf a kind).rdl = s.rdl := congrArg (fun t => t.rdl) (accessErr_reported s pf a kind)
@[simp] theorem accessErr_rdlOld : (accessErr s pf a kind).rdlOld = s.rdlOld := congrArg (fun t => t.rdlOld) (accessErr_reported s pf a kind)
@[simp] theorem accessErr_crd : (accessErr s pf a kind).crd = s.crd := congrArg (fun t => t.crd) (accessErr_reported s pf a kind)
@[simp] theorem accessErr_txRd : (accessErr s pf a kind).txRd = s.txRd := congrArg (fun t => t.txRd) (accessErr_reported s pf a kind)
@[simp] theorem accessErr_ggd : (accessErr s pf a kind).ggd = s.ggd := congrArg (fun t => t.ggd) (accessErr_reported s pf a kind)
@[simp] theorem accessErr_adc : (accessErr s pf a kind).adc = s.adc := congrArg (fun t => t.adc) (accessErr_reported s pf a kind)
@[simp] theorem accessErr_rcd : (accessErr s pf a kind).rcd = s.rcd := congrArg (fun t => t.rcd) (accessErr_reported s pf a kind)
@[simp] theorem accessErr_clk : (accessErr s pf a kind).clk = s.clk := congrArg (fun t => t.clk) (accessErr_reported s pf a kind)
@[simp] theorem accessErr_tim : (accessErr s pf a kind).tim = s.tim := congrArg (fun t => t.tim) (accessErr_reported s pf a kind)
@[simp] theorem accessErr_fio : (accessErr s pf a kind).fio = s.fio := congrArg (fun t => t.fio) (accessErr_reported s pf a kind)
@[simp] theorem accessErr_mon : (accessErr s pf a kind).mon = s.mon := congrArg (fun t => t.mon) (accessErr_reported s pf a kind)
@[simp] theorem accessErr_hif_up : (accessErr s pf a kind).hif.up = s.hif.up := congrArg (fun t => t.hif.up) (accessErr_reported s pf a kind)
@[simp] theorem accessErr_hif_gen : (accessErr s pf a kind).hif.gen = s.hif.gen := congrArg (fun t => t.hif.gen) (accessErr_reported s pf a kind)
@[simp] theorem accessErr_hif_width : (accessErr s pf a kind).hif.width = s.hif.width := congrArg (fun t => t.hif.width) (accessErr_reported s pf a kind)
@[simp] theorem accessErr_stk : (accessErr s pf a kind).stk = s.stk := congrArg (fun t => t.stk) (accessErr_reported s pf a kind)
@[simp] theorem accessErr_red : (accessErr s pf a kind).red = s.red := congrArg (fun t => t.red) (accessErr_reported s pf a kind)
@[simp] theorem accessErr_saf : (accessErr s pf a kind).saf = s.saf := congrArg (fun t => t.saf) (accessErr_reported s pf a kind)
@[simp] theorem accessErr_mem_dev : (accessErr s pf a kind).mem.dev = s.mem.dev := congrArg (fun t => t.mem.dev) (accessErr_reported s pf a kind)
@[simp] theorem accessErr_mem_pwr : (accessErr s pf a kind).mem.pwr = s.mem.pwr := congrArg (fun t => t.mem.pwr) (accessErr_reported s pf a kind)
@[simp] theorem accessErr_mem_rgnGen : (accessErr s pf a kind).mem.rgnGen = s.mem.rgnGen := congrArg (fun t => t.mem.rgnGen) (accessErr_reported s pf a kind)
@[simp] theorem accessErr_mem_parity : (accessErr s pf a kind).mem.parity = s.mem.parity := congrArg (fun t => t.mem.parity) (accessErr_reported s pf a kind)
@[simp] theorem accessErr_mem_blkReady : (accessErr s pf a kind).mem.blkReady = s.mem.blkReady := congrArg (fun t => t.mem.blkReady) (accessErr_reported s pf a kind)
@[simp] theorem accessErr_mem_scrub : (accessErr s pf a kind).mem.scrub = s.mem.scrub := congrArg (fun t => t.mem.scrub) (accessErr_reported s pf a kind)
@[simp] theorem accessErr_mem_ueAddr : (accessErr s pf a kind).mem.ueAddr = s.mem.ueAddr := congrArg (fun t => t.mem.ueAddr) (accessErr_reported s pf a kind)
@[simp] theorem accessErr_sec : (accessErr s pf a kind).sec = s.sec := congrArg (fun t => t.sec) (accessErr_reported s pf a kind)
@[simp] theorem accessErr_peat : (accessErr s pf a kind).peat = s.peat := congrArg (fun t => t.peat) (accessErr_reported s pf a kind)

end

/-! ### denyAccess -/

section
variable (s : State)

@[simp] theorem denyAccess_pending : (denyAccess s).pending = s.pending := congrArg (fun t => t.pending) (denyAccess_reported s)
@[simp] theorem denyAccess_rdata : (denyAccess s).rdata = s.rdata := congrArg (fun t => t.rdata) (denyAccess_reported s)
@[simp] theorem denyAccess_hold64 : (denyAccess s).hold64 = s.hold64 := congrArg (fun t => t.hold64) (denyAccess_reported s)
@[simp] theorem denyAccess_latch64 : (denyAccess s).latch64 = s.latch64 := congrArg (fun t => t.latch64) (denyAccess_reported s)
@[simp] theorem denyAccess_sys : (denyAccess s).sys = s.sys := congrArg (fun t => t.sys) (denyAccess_reported s)
@[simp] theorem denyAccess_sa : (denyAccess s).sa = s.sa := congrArg (fun t => t.sa) (denyAccess_reported s)
@[simp] theorem denyAccess_frst : (denyAccess s).frst = s.frst := congrArg (fun t => t.frst) (denyAccess_reported s)
@[simp] theorem denyAccess_tmr : (denyAccess s).tmr = s.tmr := congrArg (fun t => t.tmr) (denyAccess_reported s)
@[simp] theorem denyAccess_img : (denyAccess s).img = s.img := congrArg (fun t => t.img) (denyAccess_reported s)
@[simp] theorem denyAccess_fab : (denyAccess s).fab = s.fab := congrArg (fun t => t.fab) (denyAccess_reported s)
@[simp] theorem denyAccess_swg : (denyAccess s).swg = s.swg := congrArg (fun t => t.swg) (denyAccess_reported s)
@[simp] theorem denyAccess_swgOld : (denyAccess s).swgOld = s.swgOld := congrArg (fun t => t.swgOld) (denyAccess_reported s)
@[simp] theorem denyAccess_rdl : (denyAccess s).rdl = s.rdl := congrArg (fun t => t.rdl) (denyAccess_reported s)
@[simp] theorem denyAccess_rdlOld : (denyAccess s).rdlOld = s.rdlOld := congrArg (fun t => t.rdlOld) (denyAccess_reported s)
@[simp] theorem denyAccess_crd : (denyAccess s).crd = s.crd := congrArg (fun t => t.crd) (denyAccess_reported s)
@[simp] theorem denyAccess_txRd : (denyAccess s).txRd = s.txRd := congrArg (fun t => t.txRd) (denyAccess_reported s)
@[simp] theorem denyAccess_ggd : (denyAccess s).ggd = s.ggd := congrArg (fun t => t.ggd) (denyAccess_reported s)
@[simp] theorem denyAccess_adc : (denyAccess s).adc = s.adc := congrArg (fun t => t.adc) (denyAccess_reported s)
@[simp] theorem denyAccess_rcd : (denyAccess s).rcd = s.rcd := congrArg (fun t => t.rcd) (denyAccess_reported s)
@[simp] theorem denyAccess_clk : (denyAccess s).clk = s.clk := congrArg (fun t => t.clk) (denyAccess_reported s)
@[simp] theorem denyAccess_tim : (denyAccess s).tim = s.tim := congrArg (fun t => t.tim) (denyAccess_reported s)
@[simp] theorem denyAccess_fio : (denyAccess s).fio = s.fio := congrArg (fun t => t.fio) (denyAccess_reported s)
@[simp] theorem denyAccess_mon : (denyAccess s).mon = s.mon := congrArg (fun t => t.mon) (denyAccess_reported s)
@[simp] theorem denyAccess_hif_up : (denyAccess s).hif.up = s.hif.up := congrArg (fun t => t.hif.up) (denyAccess_reported s)
@[simp] theorem denyAccess_hif_gen : (denyAccess s).hif.gen = s.hif.gen := congrArg (fun t => t.hif.gen) (denyAccess_reported s)
@[simp] theorem denyAccess_hif_width : (denyAccess s).hif.width = s.hif.width := congrArg (fun t => t.hif.width) (denyAccess_reported s)
@[simp] theorem denyAccess_stk : (denyAccess s).stk = s.stk := congrArg (fun t => t.stk) (denyAccess_reported s)
@[simp] theorem denyAccess_red : (denyAccess s).red = s.red := congrArg (fun t => t.red) (denyAccess_reported s)
@[simp] theorem denyAccess_saf : (denyAccess s).saf = s.saf := congrArg (fun t => t.saf) (denyAccess_reported s)
@[simp] theorem denyAccess_mem_dev : (denyAccess s).mem.dev = s.mem.dev := congrArg (fun t => t.mem.dev) (denyAccess_reported s)
@[simp] theorem denyAccess_mem_pwr : (denyAccess s).mem.pwr = s.mem.pwr := congrArg (fun t => t.mem.pwr) (denyAccess_reported s)
@[simp] theorem denyAccess_mem_rgnGen : (denyAccess s).mem.rgnGen = s.mem.rgnGen := congrArg (fun t => t.mem.rgnGen) (denyAccess_reported s)
@[simp] theorem denyAccess_mem_parity : (denyAccess s).mem.parity = s.mem.parity := congrArg (fun t => t.mem.parity) (denyAccess_reported s)
@[simp] theorem denyAccess_mem_blkReady : (denyAccess s).mem.blkReady = s.mem.blkReady := congrArg (fun t => t.mem.blkReady) (denyAccess_reported s)
@[simp] theorem denyAccess_mem_scrub : (denyAccess s).mem.scrub = s.mem.scrub := congrArg (fun t => t.mem.scrub) (denyAccess_reported s)
@[simp] theorem denyAccess_mem_ueAddr : (denyAccess s).mem.ueAddr = s.mem.ueAddr := congrArg (fun t => t.mem.ueAddr) (denyAccess_reported s)
@[simp] theorem denyAccess_sec : (denyAccess s).sec = s.sec := congrArg (fun t => t.sec) (denyAccess_reported s)
@[simp] theorem denyAccess_peat : (denyAccess s).peat = s.peat := congrArg (fun t => t.peat) (denyAccess_reported s)

end

/-! ### Registers and reports -/

theorem regGet_regSet_same {s : State} {a : Nat} {v : Word} (w : Regs.wf s.regs = true) : regGet (regSet s a v) a = v := tabGet_set_same w

theorem regGet_regSet_other {s : State} {a j : Nat} {v : Word} (h : j ≠ a) : regGet (regSet s a v) j = regGet s j :=
  tabGet_set_other _ _ _ _ _ _ h

@[simp] theorem regGet_begin (s : State) (a : Nat) : regGet (begin s) a = regGet s a := rfl

@[simp] theorem regGet_stamp (s : State) (a : Nat) : regGet (stamp s).2 a = regGet s a := rfl

@[simp] theorem regGet_msixBoth (s : State) (v a : Nat) : regGet (msixBoth s v) a = regGet s a := by unfold regGet; rw [msixBoth_regs]

/-- A flag is set in its event register. -/
theorem setFlag_reg {s : State} {fn b : Nat} (w : Regs.wf s.regs = true) :
    regGet (setFlag s fn b) (regA fn 0x40) = regGet s (regA fn 0x40) ||| at_ 1 b := by
  unfold setFlag
  dsimp only
  split
  · rw [regGet_msixBoth, regGet_regSet_same w]
  · rw [regGet_regSet_same w]

theorem setFlag_other {s : State} {fn b a : Nat} (h : a ≠ regA fn 0x40) : regGet (setFlag s fn b) a = regGet s a := by
  unfold setFlag
  dsimp only
  split
  · rw [regGet_msixBoth, regGet_regSet_other h]
  · rw [regGet_regSet_other h]

/-- A log entry changes at most the flag of a denied access. -/
theorem logAt_other {s : State} {u fn code arg a : Nat} (h : a ≠ 0x60040) : regGet (logAt s u fn code arg) a = regGet s a := by
  unfold logAt
  dsimp only
  split
  · rfl
  split
  · rfl
  · exact setFlag_other h

theorem logNow_other {s : State} {fn code arg a : Nat} (h : a ≠ 0x60040) : regGet (logNow s fn code arg) a = regGet s a :=
  logAt_other h

theorem accessErr_other {s : State} {pf : Pf} {x kind a : Nat} (h : a ≠ 0x60040) : regGet (accessErr s pf x kind) a = regGet s a :=
  logAt_other h

theorem raise_other {s : State} {fn b i j a : Nat} (h : a ≠ regA fn 0x40) (h2 : a ≠ 0x60040) :
    regGet (raise s fn b i j) a = regGet s a := by
  unfold raise
  dsimp only
  split
  · rw [logNow_other h2, setFlag_other h]
  · rw [setFlag_other h]

/-- An event sets its flag. -/
theorem raise_reg {s : State} {fn b i j : Nat} (w : Regs.wf s.regs = true) (h : regA fn 0x40 ≠ 0x60040) :
    regGet (raise s fn b i j) (regA fn 0x40) = regGet s (regA fn 0x40) ||| at_ 1 b := by
  unfold raise
  dsimp only
  split
  · rw [logNow_other h, setFlag_reg w]
  · rw [setFlag_reg w]

end Sys2Proof.Machine
end

