-- ==== Sys2Proof/Laws/State.lean ====
section
/-!
SUPPORT. What every setter of one part of the state leaves alone, and what it puts into its part: one lemma per setter and field.
-/
namespace Sys2Proof.Machine
set_option Elab.async false

/-! ### sysSet -/

section
variable (s : State) (f : Sys → Sys)

@[simp] theorem sysSet_pending : (sysSet s f).pending = s.pending := rfl
@[simp] theorem sysSet_free : (sysSet s f).free = s.free := rfl
@[simp] theorem sysSet_out : (sysSet s f).out = s.out := rfl
@[simp] theorem sysSet_rdata : (sysSet s f).rdata = s.rdata := rfl
@[simp] theorem sysSet_regs : (sysSet s f).regs = s.regs := rfl
@[simp] theorem sysSet_hold64 : (sysSet s f).hold64 = s.hold64 := rfl
@[simp] theorem sysSet_latch64 : (sysSet s f).latch64 = s.latch64 := rfl
@[simp] theorem sysSet_sys : (sysSet s f).sys = f s.sys := rfl
@[simp] theorem sysSet_sa : (sysSet s f).sa = s.sa := rfl
@[simp] theorem sysSet_frst : (sysSet s f).frst = s.frst := rfl
@[simp] theorem sysSet_tmr : (sysSet s f).tmr = s.tmr := rfl
@[simp] theorem sysSet_log : (sysSet s f).log = s.log := rfl
@[simp] theorem sysSet_img : (sysSet s f).img = s.img := rfl
@[simp] theorem sysSet_fab : (sysSet s f).fab = s.fab := rfl
@[simp] theorem sysSet_swg : (sysSet s f).swg = s.swg := rfl
@[simp] theorem sysSet_swgOld : (sysSet s f).swgOld = s.swgOld := rfl
@[simp] theorem sysSet_rdl : (sysSet s f).rdl = s.rdl := rfl
@[simp] theorem sysSet_rdlOld : (sysSet s f).rdlOld = s.rdlOld := rfl
@[simp] theorem sysSet_crd : (sysSet s f).crd = s.crd := rfl
@[simp] theorem sysSet_txRd : (sysSet s f).txRd = s.txRd := rfl
@[simp] theorem sysSet_ggd : (sysSet s f).ggd = s.ggd := rfl
@[simp] theorem sysSet_adc : (sysSet s f).adc = s.adc := rfl
@[simp] theorem sysSet_rcd : (sysSet s f).rcd = s.rcd := rfl
@[simp] theorem sysSet_clk : (sysSet s f).clk = s.clk := rfl
@[simp] theorem sysSet_tim : (sysSet s f).tim = s.tim := rfl
@[simp] theorem sysSet_fio : (sysSet s f).fio = s.fio := rfl
@[simp] theorem sysSet_mon : (sysSet s f).mon = s.mon := rfl
@[simp] theorem sysSet_hif : (sysSet s f).hif = s.hif := rfl
@[simp] theorem sysSet_stk : (sysSet s f).stk = s.stk := rfl
@[simp] theorem sysSet_red : (sysSet s f).red = s.red := rfl
@[simp] theorem sysSet_saf : (sysSet s f).saf = s.saf := rfl
@[simp] theorem sysSet_mem : (sysSet s f).mem = s.mem := rfl
@[simp] theorem sysSet_sec : (sysSet s f).sec = s.sec := rfl
@[simp] theorem sysSet_peat : (sysSet s f).peat = s.peat := rfl

end

/-! ### memSet -/

section
variable (s : State) (f : Mem → Mem)

@[simp] theorem memSet_pending : (memSet s f).pending = s.pending := rfl
@[simp] theorem memSet_free : (memSet s f).free = s.free := rfl
@[simp] theorem memSet_out : (memSet s f).out = s.out := rfl
@[simp] theorem memSet_rdata : (memSet s f).rdata = s.rdata := rfl
@[simp] theorem memSet_regs : (memSet s f).regs = s.regs := rfl
@[simp] theorem memSet_hold64 : (memSet s f).hold64 = s.hold64 := rfl
@[simp] theorem memSet_latch64 : (memSet s f).latch64 = s.latch64 := rfl
@[simp] theorem memSet_sys : (memSet s f).sys = s.sys := rfl
@[simp] theorem memSet_sa : (memSet s f).sa = s.sa := rfl
@[simp] theorem memSet_frst : (memSet s f).frst = s.frst := rfl
@[simp] theorem memSet_tmr : (memSet s f).tmr = s.tmr := rfl
@[simp] theorem memSet_log : (memSet s f).log = s.log := rfl
@[simp] theorem memSet_img : (memSet s f).img = s.img := rfl
@[simp] theorem memSet_fab : (memSet s f).fab = s.fab := rfl
@[simp] theorem memSet_swg : (memSet s f).swg = s.swg := rfl
@[simp] theorem memSet_swgOld : (memSet s f).swgOld = s.swgOld := rfl
@[simp] theorem memSet_rdl : (memSet s f).rdl = s.rdl := rfl
@[simp] theorem memSet_rdlOld : (memSet s f).rdlOld = s.rdlOld := rfl
@[simp] theorem memSet_crd : (memSet s f).crd = s.crd := rfl
@[simp] theorem memSet_txRd : (memSet s f).txRd = s.txRd := rfl
@[simp] theorem memSet_ggd : (memSet s f).ggd = s.ggd := rfl
@[simp] theorem memSet_adc : (memSet s f).adc = s.adc := rfl
@[simp] theorem memSet_rcd : (memSet s f).rcd = s.rcd := rfl
@[simp] theorem memSet_clk : (memSet s f).clk = s.clk := rfl
@[simp] theorem memSet_tim : (memSet s f).tim = s.tim := rfl
@[simp] theorem memSet_fio : (memSet s f).fio = s.fio := rfl
@[simp] theorem memSet_mon : (memSet s f).mon = s.mon := rfl
@[simp] theorem memSet_hif : (memSet s f).hif = s.hif := rfl
@[simp] theorem memSet_stk : (memSet s f).stk = s.stk := rfl
@[simp] theorem memSet_red : (memSet s f).red = s.red := rfl
@[simp] theorem memSet_saf : (memSet s f).saf = s.saf := rfl
@[simp] theorem memSet_mem : (memSet s f).mem = f s.mem := rfl
@[simp] theorem memSet_sec : (memSet s f).sec = s.sec := rfl
@[simp] theorem memSet_peat : (memSet s f).peat = s.peat := rfl

end

/-! ### secSet -/

section
variable (s : State) (f : Sec → Sec)

@[simp] theorem secSet_pending : (secSet s f).pending = s.pending := rfl
@[simp] theorem secSet_free : (secSet s f).free = s.free := rfl
@[simp] theorem secSet_out : (secSet s f).out = s.out := rfl
@[simp] theorem secSet_rdata : (secSet s f).rdata = s.rdata := rfl
@[simp] theorem secSet_regs : (secSet s f).regs = s.regs := rfl
@[simp] theorem secSet_hold64 : (secSet s f).hold64 = s.hold64 := rfl
@[simp] theorem secSet_latch64 : (secSet s f).latch64 = s.latch64 := rfl
@[simp] theorem secSet_sys : (secSet s f).sys = s.sys := rfl
@[simp] theorem secSet_sa : (secSet s f).sa = s.sa := rfl
@[simp] theorem secSet_frst : (secSet s f).frst = s.frst := rfl
@[simp] theorem secSet_tmr : (secSet s f).tmr = s.tmr := rfl
@[simp] theorem secSet_log : (secSet s f).log = s.log := rfl
@[simp] theorem secSet_img : (secSet s f).img = s.img := rfl
@[simp] theorem secSet_fab : (secSet s f).fab = s.fab := rfl
@[simp] theorem secSet_swg : (secSet s f).swg = s.swg := rfl
@[simp] theorem secSet_swgOld : (secSet s f).swgOld = s.swgOld := rfl
@[simp] theorem secSet_rdl : (secSet s f).rdl = s.rdl := rfl
@[simp] theorem secSet_rdlOld : (secSet s f).rdlOld = s.rdlOld := rfl
@[simp] theorem secSet_crd : (secSet s f).crd = s.crd := rfl
@[simp] theorem secSet_txRd : (secSet s f).txRd = s.txRd := rfl
@[simp] theorem secSet_ggd : (secSet s f).ggd = s.ggd := rfl
@[simp] theorem secSet_adc : (secSet s f).adc = s.adc := rfl
@[simp] theorem secSet_rcd : (secSet s f).rcd = s.rcd := rfl
@[simp] theorem secSet_clk : (secSet s f).clk = s.clk := rfl
@[simp] theorem secSet_tim : (secSet s f).tim = s.tim := rfl
@[simp] theorem secSet_fio : (secSet s f).fio = s.fio := rfl
@[simp] theorem secSet_mon : (secSet s f).mon = s.mon := rfl
@[simp] theorem secSet_hif : (secSet s f).hif = s.hif := rfl
@[simp] theorem secSet_stk : (secSet s f).stk = s.stk := rfl
@[simp] theorem secSet_red : (secSet s f).red = s.red := rfl
@[simp] theorem secSet_saf : (secSet s f).saf = s.saf := rfl
@[simp] theorem secSet_mem : (secSet s f).mem = s.mem := rfl
@[simp] theorem secSet_sec : (secSet s f).sec = f s.sec := rfl
@[simp] theorem secSet_peat : (secSet s f).peat = s.peat := rfl

end

/-! ### peatSet -/

section
variable (s : State) (f : Peat → Peat)

@[simp] theorem peatSet_pending : (peatSet s f).pending = s.pending := rfl
@[simp] theorem peatSet_free : (peatSet s f).free = s.free := rfl
@[simp] theorem peatSet_out : (peatSet s f).out = s.out := rfl
@[simp] theorem peatSet_rdata : (peatSet s f).rdata = s.rdata := rfl
@[simp] theorem peatSet_regs : (peatSet s f).regs = s.regs := rfl
@[simp] theorem peatSet_hold64 : (peatSet s f).hold64 = s.hold64 := rfl
@[simp] theorem peatSet_latch64 : (peatSet s f).latch64 = s.latch64 := rfl
@[simp] theorem peatSet_sys : (peatSet s f).sys = s.sys := rfl
@[simp] theorem peatSet_sa : (peatSet s f).sa = s.sa := rfl
@[simp] theorem peatSet_frst : (peatSet s f).frst = s.frst := rfl
@[simp] theorem peatSet_tmr : (peatSet s f).tmr = s.tmr := rfl
@[simp] theorem peatSet_log : (peatSet s f).log = s.log := rfl
@[simp] theorem peatSet_img : (peatSet s f).img = s.img := rfl
@[simp] theorem peatSet_fab : (peatSet s f).fab = s.fab := rfl
@[simp] theorem peatSet_swg : (peatSet s f).swg = s.swg := rfl
@[simp] theorem peatSet_swgOld : (peatSet s f).swgOld = s.swgOld := rfl
@[simp] theorem peatSet_rdl : (peatSet s f).rdl = s.rdl := rfl
@[simp] theorem peatSet_rdlOld : (peatSet s f).rdlOld = s.rdlOld := rfl
@[simp] theorem peatSet_crd : (peatSet s f).crd = s.crd := rfl
@[simp] theorem peatSet_txRd : (peatSet s f).txRd = s.txRd := rfl
@[simp] theorem peatSet_ggd : (peatSet s f).ggd = s.ggd := rfl
@[simp] theorem peatSet_adc : (peatSet s f).adc = s.adc := rfl
@[simp] theorem peatSet_rcd : (peatSet s f).rcd = s.rcd := rfl
@[simp] theorem peatSet_clk : (peatSet s f).clk = s.clk := rfl
@[simp] theorem peatSet_tim : (peatSet s f).tim = s.tim := rfl
@[simp] theorem peatSet_fio : (peatSet s f).fio = s.fio := rfl
@[simp] theorem peatSet_mon : (peatSet s f).mon = s.mon := rfl
@[simp] theorem peatSet_hif : (peatSet s f).hif = s.hif := rfl
@[simp] theorem peatSet_stk : (peatSet s f).stk = s.stk := rfl
@[simp] theorem peatSet_red : (peatSet s f).red = s.red := rfl
@[simp] theorem peatSet_saf : (peatSet s f).saf = s.saf := rfl
@[simp] theorem peatSet_mem : (peatSet s f).mem = s.mem := rfl
@[simp] theorem peatSet_sec : (peatSet s f).sec = s.sec := rfl
@[simp] theorem peatSet_peat : (peatSet s f).peat = f s.peat := rfl

end

/-! ### imgSet -/

section
variable (s : State) (f : FabImg → FabImg)

@[simp] theorem imgSet_pending : (imgSet s f).pending = s.pending := rfl
@[simp] theorem imgSet_free : (imgSet s f).free = s.free := rfl
@[simp] theorem imgSet_out : (imgSet s f).out = s.out := rfl
@[simp] theorem imgSet_rdata : (imgSet s f).rdata = s.rdata := rfl
@[simp] theorem imgSet_regs : (imgSet s f).regs = s.regs := rfl
@[simp] theorem imgSet_hold64 : (imgSet s f).hold64 = s.hold64 := rfl
@[simp] theorem imgSet_latch64 : (imgSet s f).latch64 = s.latch64 := rfl
@[simp] theorem imgSet_sys : (imgSet s f).sys = s.sys := rfl
@[simp] theorem imgSet_sa : (imgSet s f).sa = s.sa := rfl
@[simp] theorem imgSet_frst : (imgSet s f).frst = s.frst := rfl
@[simp] theorem imgSet_tmr : (imgSet s f).tmr = s.tmr := rfl
@[simp] theorem imgSet_log : (imgSet s f).log = s.log := rfl
@[simp] theorem imgSet_img : (imgSet s f).img = f s.img := rfl
@[simp] theorem imgSet_fab : (imgSet s f).fab = s.fab := rfl
@[simp] theorem imgSet_swg : (imgSet s f).swg = s.swg := rfl
@[simp] theorem imgSet_swgOld : (imgSet s f).swgOld = s.swgOld := rfl
@[simp] theorem imgSet_rdl : (imgSet s f).rdl = s.rdl := rfl
@[simp] theorem imgSet_rdlOld : (imgSet s f).rdlOld = s.rdlOld := rfl
@[simp] theorem imgSet_crd : (imgSet s f).crd = s.crd := rfl
@[simp] theorem imgSet_txRd : (imgSet s f).txRd = s.txRd := rfl
@[simp] theorem imgSet_ggd : (imgSet s f).ggd = s.ggd := rfl
@[simp] theorem imgSet_adc : (imgSet s f).adc = s.adc := rfl
@[simp] theorem imgSet_rcd : (imgSet s f).rcd = s.rcd := rfl
@[simp] theorem imgSet_clk : (imgSet s f).clk = s.clk := rfl
@[simp] theorem imgSet_tim : (imgSet s f).tim = s.tim := rfl
@[simp] theorem imgSet_fio : (imgSet s f).fio = s.fio := rfl
@[simp] theorem imgSet_mon : (imgSet s f).mon = s.mon := rfl
@[simp] theorem imgSet_hif : (imgSet s f).hif = s.hif := rfl
@[simp] theorem imgSet_stk : (imgSet s f).stk = s.stk := rfl
@[simp] theorem imgSet_red : (imgSet s f).red = s.red := rfl
@[simp] theorem imgSet_saf : (imgSet s f).saf = s.saf := rfl
@[simp] theorem imgSet_mem : (imgSet s f).mem = s.mem := rfl
@[simp] theorem imgSet_sec : (imgSet s f).sec = s.sec := rfl
@[simp] theorem imgSet_peat : (imgSet s f).peat = s.peat := rfl

end

/-! ### redSet -/

section
variable (s : State) (f : Red → Red)

@[simp] theorem redSet_pending : (redSet s f).pending = s.pending := rfl
@[simp] theorem redSet_free : (redSet s f).free = s.free := rfl
@[simp] theorem redSet_out : (redSet s f).out = s.out := rfl
@[simp] theorem redSet_rdata : (redSet s f).rdata = s.rdata := rfl
@[simp] theorem redSet_regs : (redSet s f).regs = s.regs := rfl
@[simp] theorem redSet_hold64 : (redSet s f).hold64 = s.hold64 := rfl
@[simp] theorem redSet_latch64 : (redSet s f).latch64 = s.latch64 := rfl
@[simp] theorem redSet_sys : (redSet s f).sys = s.sys := rfl
@[simp] theorem redSet_sa : (redSet s f).sa = s.sa := rfl
@[simp] theorem redSet_frst : (redSet s f).frst = s.frst := rfl
@[simp] theorem redSet_tmr : (redSet s f).tmr = s.tmr := rfl
@[simp] theorem redSet_log : (redSet s f).log = s.log := rfl
@[simp] theorem redSet_img : (redSet s f).img = s.img := rfl
@[simp] theorem redSet_fab : (redSet s f).fab = s.fab := rfl
@[simp] theorem redSet_swg : (redSet s f).swg = s.swg := rfl
@[simp] theorem redSet_swgOld : (redSet s f).swgOld = s.swgOld := rfl
@[simp] theorem redSet_rdl : (redSet s f).rdl = s.rdl := rfl
@[simp] theorem redSet_rdlOld : (redSet s f).rdlOld = s.rdlOld := rfl
@[simp] theorem redSet_crd : (redSet s f).crd = s.crd := rfl
@[simp] theorem redSet_txRd : (redSet s f).txRd = s.txRd := rfl
@[simp] theorem redSet_ggd : (redSet s f).ggd = s.ggd := rfl
@[simp] theorem redSet_adc : (redSet s f).adc = s.adc := rfl
@[simp] theorem redSet_rcd : (redSet s f).rcd = s.rcd := rfl
@[simp] theorem redSet_clk : (redSet s f).clk = s.clk := rfl
@[simp] theorem redSet_tim : (redSet s f).tim = s.tim := rfl
@[simp] theorem redSet_fio : (redSet s f).fio = s.fio := rfl
@[simp] theorem redSet_mon : (redSet s f).mon = s.mon := rfl
@[simp] theorem redSet_hif : (redSet s f).hif = s.hif := rfl
@[simp] theorem redSet_stk : (redSet s f).stk = s.stk := rfl
@[simp] theorem redSet_red : (redSet s f).red = f s.red := rfl
@[simp] theorem redSet_saf : (redSet s f).saf = s.saf := rfl
@[simp] theorem redSet_mem : (redSet s f).mem = s.mem := rfl
@[simp] theorem redSet_sec : (redSet s f).sec = s.sec := rfl
@[simp] theorem redSet_peat : (redSet s f).peat = s.peat := rfl

end

/-! ### recSet -/

section
variable (s : State) (f : Rec → Rec)

@[simp] theorem recSet_pending : (recSet s f).pending = s.pending := rfl
@[simp] theorem recSet_free : (recSet s f).free = s.free := rfl
@[simp] theorem recSet_out : (recSet s f).out = s.out := rfl
@[simp] theorem recSet_rdata : (recSet s f).rdata = s.rdata := rfl
@[simp] theorem recSet_regs : (recSet s f).regs = s.regs := rfl
@[simp] theorem recSet_hold64 : (recSet s f).hold64 = s.hold64 := rfl
@[simp] theorem recSet_latch64 : (recSet s f).latch64 = s.latch64 := rfl
@[simp] theorem recSet_sys : (recSet s f).sys = s.sys := rfl
@[simp] theorem recSet_sa : (recSet s f).sa = s.sa := rfl
@[simp] theorem recSet_frst : (recSet s f).frst = s.frst := rfl
@[simp] theorem recSet_tmr : (recSet s f).tmr = s.tmr := rfl
@[simp] theorem recSet_log : (recSet s f).log = s.log := rfl
@[simp] theorem recSet_img : (recSet s f).img = s.img := rfl
@[simp] theorem recSet_fab : (recSet s f).fab = s.fab := rfl
@[simp] theorem recSet_swg : (recSet s f).swg = s.swg := rfl
@[simp] theorem recSet_swgOld : (recSet s f).swgOld = s.swgOld := rfl
@[simp] theorem recSet_rdl : (recSet s f).rdl = s.rdl := rfl
@[simp] theorem recSet_rdlOld : (recSet s f).rdlOld = s.rdlOld := rfl
@[simp] theorem recSet_crd : (recSet s f).crd = s.crd := rfl
@[simp] theorem recSet_txRd : (recSet s f).txRd = s.txRd := rfl
@[simp] theorem recSet_ggd : (recSet s f).ggd = s.ggd := rfl
@[simp] theorem recSet_adc : (recSet s f).adc = s.adc := rfl
@[simp] theorem recSet_rcd : (recSet s f).rcd = f s.rcd := rfl
@[simp] theorem recSet_clk : (recSet s f).clk = s.clk := rfl
@[simp] theorem recSet_tim : (recSet s f).tim = s.tim := rfl
@[simp] theorem recSet_fio : (recSet s f).fio = s.fio := rfl
@[simp] theorem recSet_mon : (recSet s f).mon = s.mon := rfl
@[simp] theorem recSet_hif : (recSet s f).hif = s.hif := rfl
@[simp] theorem recSet_stk : (recSet s f).stk = s.stk := rfl
@[simp] theorem recSet_red : (recSet s f).red = s.red := rfl
@[simp] theorem recSet_saf : (recSet s f).saf = s.saf := rfl
@[simp] theorem recSet_mem : (recSet s f).mem = s.mem := rfl
@[simp] theorem recSet_sec : (recSet s f).sec = s.sec := rfl
@[simp] theorem recSet_peat : (recSet s f).peat = s.peat := rfl

end

/-! ### clkSet -/

section
variable (s : State) (f : Clk → Clk)

@[simp] theorem clkSet_pending : (clkSet s f).pending = s.pending := rfl
@[simp] theorem clkSet_free : (clkSet s f).free = s.free := rfl
@[simp] theorem clkSet_out : (clkSet s f).out = s.out := rfl
@[simp] theorem clkSet_rdata : (clkSet s f).rdata = s.rdata := rfl
@[simp] theorem clkSet_regs : (clkSet s f).regs = s.regs := rfl
@[simp] theorem clkSet_hold64 : (clkSet s f).hold64 = s.hold64 := rfl
@[simp] theorem clkSet_latch64 : (clkSet s f).latch64 = s.latch64 := rfl
@[simp] theorem clkSet_sys : (clkSet s f).sys = s.sys := rfl
@[simp] theorem clkSet_sa : (clkSet s f).sa = s.sa := rfl
@[simp] theorem clkSet_frst : (clkSet s f).frst = s.frst := rfl
@[simp] theorem clkSet_tmr : (clkSet s f).tmr = s.tmr := rfl
@[simp] theorem clkSet_log : (clkSet s f).log = s.log := rfl
@[simp] theorem clkSet_img : (clkSet s f).img = s.img := rfl
@[simp] theorem clkSet_fab : (clkSet s f).fab = s.fab := rfl
@[simp] theorem clkSet_swg : (clkSet s f).swg = s.swg := rfl
@[simp] theorem clkSet_swgOld : (clkSet s f).swgOld = s.swgOld := rfl
@[simp] theorem clkSet_rdl : (clkSet s f).rdl = s.rdl := rfl
@[simp] theorem clkSet_rdlOld : (clkSet s f).rdlOld = s.rdlOld := rfl
@[simp] theorem clkSet_crd : (clkSet s f).crd = s.crd := rfl
@[simp] theorem clkSet_txRd : (clkSet s f).txRd = s.txRd := rfl
@[simp] theorem clkSet_ggd : (clkSet s f).ggd = s.ggd := rfl
@[simp] theorem clkSet_adc : (clkSet s f).adc = s.adc := rfl
@[simp] theorem clkSet_rcd : (clkSet s f).rcd = s.rcd := rfl
@[simp] theorem clkSet_clk : (clkSet s f).clk = f s.clk := rfl
@[simp] theorem clkSet_tim : (clkSet s f).tim = s.tim := rfl
@[simp] theorem clkSet_fio : (clkSet s f).fio = s.fio := rfl
@[simp] theorem clkSet_mon : (clkSet s f).mon = s.mon := rfl
@[simp] theorem clkSet_hif : (clkSet s f).hif = s.hif := rfl
@[simp] theorem clkSet_stk : (clkSet s f).stk = s.stk := rfl
@[simp] theorem clkSet_red : (clkSet s f).red = s.red := rfl
@[simp] theorem clkSet_saf : (clkSet s f).saf = s.saf := rfl
@[simp] theorem clkSet_mem : (clkSet s f).mem = s.mem := rfl
@[simp] theorem clkSet_sec : (clkSet s f).sec = s.sec := rfl
@[simp] theorem clkSet_peat : (clkSet s f).peat = s.peat := rfl

end

/-! ### stkSet -/

section
variable (s : State) (f : Stk → Stk)

@[simp] theorem stkSet_pending : (stkSet s f).pending = s.pending := rfl
@[simp] theorem stkSet_free : (stkSet s f).free = s.free := rfl
@[simp] theorem stkSet_out : (stkSet s f).out = s.out := rfl
@[simp] theorem stkSet_rdata : (stkSet s f).rdata = s.rdata := rfl
@[simp] theorem stkSet_regs : (stkSet s f).regs = s.regs := rfl
@[simp] theorem stkSet_hold64 : (stkSet s f).hold64 = s.hold64 := rfl
@[simp] theorem stkSet_latch64 : (stkSet s f).latch64 = s.latch64 := rfl
@[simp] theorem stkSet_sys : (stkSet s f).sys = s.sys := rfl
@[simp] theorem stkSet_sa : (stkSet s f).sa = s.sa := rfl
@[simp] theorem stkSet_frst : (stkSet s f).frst = s.frst := rfl
@[simp] theorem stkSet_tmr : (stkSet s f).tmr = s.tmr := rfl
@[simp] theorem stkSet_log : (stkSet s f).log = s.log := rfl
@[simp] theorem stkSet_img : (stkSet s f).img = s.img := rfl
@[simp] theorem stkSet_fab : (stkSet s f).fab = s.fab := rfl
@[simp] theorem stkSet_swg : (stkSet s f).swg = s.swg := rfl
@[simp] theorem stkSet_swgOld : (stkSet s f).swgOld = s.swgOld := rfl
@[simp] theorem stkSet_rdl : (stkSet s f).rdl = s.rdl := rfl
@[simp] theorem stkSet_rdlOld : (stkSet s f).rdlOld = s.rdlOld := rfl
@[simp] theorem stkSet_crd : (stkSet s f).crd = s.crd := rfl
@[simp] theorem stkSet_txRd : (stkSet s f).txRd = s.txRd := rfl
@[simp] theorem stkSet_ggd : (stkSet s f).ggd = s.ggd := rfl
@[simp] theorem stkSet_adc : (stkSet s f).adc = s.adc := rfl
@[simp] theorem stkSet_rcd : (stkSet s f).rcd = s.rcd := rfl
@[simp] theorem stkSet_clk : (stkSet s f).clk = s.clk := rfl
@[simp] theorem stkSet_tim : (stkSet s f).tim = s.tim := rfl
@[simp] theorem stkSet_fio : (stkSet s f).fio = s.fio := rfl
@[simp] theorem stkSet_mon : (stkSet s f).mon = s.mon := rfl
@[simp] theorem stkSet_hif : (stkSet s f).hif = s.hif := rfl
@[simp] theorem stkSet_stk : (stkSet s f).stk = f s.stk := rfl
@[simp] theorem stkSet_red : (stkSet s f).red = s.red := rfl
@[simp] theorem stkSet_saf : (stkSet s f).saf = s.saf := rfl
@[simp] theorem stkSet_mem : (stkSet s f).mem = s.mem := rfl
@[simp] theorem stkSet_sec : (stkSet s f).sec = s.sec := rfl
@[simp] theorem stkSet_peat : (stkSet s f).peat = s.peat := rfl

end

/-! ### fioSet -/

section
variable (s : State) (f : Fio → Fio)

@[simp] theorem fioSet_pending : (fioSet s f).pending = s.pending := rfl
@[simp] theorem fioSet_free : (fioSet s f).free = s.free := rfl
@[simp] theorem fioSet_out : (fioSet s f).out = s.out := rfl
@[simp] theorem fioSet_rdata : (fioSet s f).rdata = s.rdata := rfl
@[simp] theorem fioSet_regs : (fioSet s f).regs = s.regs := rfl
@[simp] theorem fioSet_hold64 : (fioSet s f).hold64 = s.hold64 := rfl
@[simp] theorem fioSet_latch64 : (fioSet s f).latch64 = s.latch64 := rfl
@[simp] theorem fioSet_sys : (fioSet s f).sys = s.sys := rfl
@[simp] theorem fioSet_sa : (fioSet s f).sa = s.sa := rfl
@[simp] theorem fioSet_frst : (fioSet s f).frst = s.frst := rfl
@[simp] theorem fioSet_tmr : (fioSet s f).tmr = s.tmr := rfl
@[simp] theorem fioSet_log : (fioSet s f).log = s.log := rfl
@[simp] theorem fioSet_img : (fioSet s f).img = s.img := rfl
@[simp] theorem fioSet_fab : (fioSet s f).fab = s.fab := rfl
@[simp] theorem fioSet_swg : (fioSet s f).swg = s.swg := rfl
@[simp] theorem fioSet_swgOld : (fioSet s f).swgOld = s.swgOld := rfl
@[simp] theorem fioSet_rdl : (fioSet s f).rdl = s.rdl := rfl
@[simp] theorem fioSet_rdlOld : (fioSet s f).rdlOld = s.rdlOld := rfl
@[simp] theorem fioSet_crd : (fioSet s f).crd = s.crd := rfl
@[simp] theorem fioSet_txRd : (fioSet s f).txRd = s.txRd := rfl
@[simp] theorem fioSet_ggd : (fioSet s f).ggd = s.ggd := rfl
@[simp] theorem fioSet_adc : (fioSet s f).adc = s.adc := rfl
@[simp] theorem fioSet_rcd : (fioSet s f).rcd = s.rcd := rfl
@[simp] theorem fioSet_clk : (fioSet s f).clk = s.clk := rfl
@[simp] theorem fioSet_tim : (fioSet s f).tim = s.tim := rfl
@[simp] theorem fioSet_fio : (fioSet s f).fio = f s.fio := rfl
@[simp] theorem fioSet_mon : (fioSet s f).mon = s.mon := rfl
@[simp] theorem fioSet_hif : (fioSet s f).hif = s.hif := rfl
@[simp] theorem fioSet_stk : (fioSet s f).stk = s.stk := rfl
@[simp] theorem fioSet_red : (fioSet s f).red = s.red := rfl
@[simp] theorem fioSet_saf : (fioSet s f).saf = s.saf := rfl
@[simp] theorem fioSet_mem : (fioSet s f).mem = s.mem := rfl
@[simp] theorem fioSet_sec : (fioSet s f).sec = s.sec := rfl
@[simp] theorem fioSet_peat : (fioSet s f).peat = s.peat := rfl

end

/-! ### monSet -/

section
variable (s : State) (f : Mon → Mon)

@[simp] theorem monSet_pending : (monSet s f).pending = s.pending := rfl
@[simp] theorem monSet_free : (monSet s f).free = s.free := rfl
@[simp] theorem monSet_out : (monSet s f).out = s.out := rfl
@[simp] theorem monSet_rdata : (monSet s f).rdata = s.rdata := rfl
@[simp] theorem monSet_regs : (monSet s f).regs = s.regs := rfl
@[simp] theorem monSet_hold64 : (monSet s f).hold64 = s.hold64 := rfl
@[simp] theorem monSet_latch64 : (monSet s f).latch64 = s.latch64 := rfl
@[simp] theorem monSet_sys : (monSet s f).sys = s.sys := rfl
@[simp] theorem monSet_sa : (monSet s f).sa = s.sa := rfl
@[simp] theorem monSet_frst : (monSet s f).frst = s.frst := rfl
@[simp] theorem monSet_tmr : (monSet s f).tmr = s.tmr := rfl
@[simp] theorem monSet_log : (monSet s f).log = s.log := rfl
@[simp] theorem monSet_img : (monSet s f).img = s.img := rfl
@[simp] theorem monSet_fab : (monSet s f).fab = s.fab := rfl
@[simp] theorem monSet_swg : (monSet s f).swg = s.swg := rfl
@[simp] theorem monSet_swgOld : (monSet s f).swgOld = s.swgOld := rfl
@[simp] theorem monSet_rdl : (monSet s f).rdl = s.rdl := rfl
@[simp] theorem monSet_rdlOld : (monSet s f).rdlOld = s.rdlOld := rfl
@[simp] theorem monSet_crd : (monSet s f).crd = s.crd := rfl
@[simp] theorem monSet_txRd : (monSet s f).txRd = s.txRd := rfl
@[simp] theorem monSet_ggd : (monSet s f).ggd = s.ggd := rfl
@[simp] theorem monSet_adc : (monSet s f).adc = s.adc := rfl
@[simp] theorem monSet_rcd : (monSet s f).rcd = s.rcd := rfl
@[simp] theorem monSet_clk : (monSet s f).clk = s.clk := rfl
@[simp] theorem monSet_tim : (monSet s f).tim = s.tim := rfl
@[simp] theorem monSet_fio : (monSet s f).fio = s.fio := rfl
@[simp] theorem monSet_mon : (monSet s f).mon = f s.mon := rfl
@[simp] theorem monSet_hif : (monSet s f).hif = s.hif := rfl
@[simp] theorem monSet_stk : (monSet s f).stk = s.stk := rfl
@[simp] theorem monSet_red : (monSet s f).red = s.red := rfl
@[simp] theorem monSet_saf : (monSet s f).saf = s.saf := rfl
@[simp] theorem monSet_mem : (monSet s f).mem = s.mem := rfl
@[simp] theorem monSet_sec : (monSet s f).sec = s.sec := rfl
@[simp] theorem monSet_peat : (monSet s f).peat = s.peat := rfl

end

/-! ### hifSet -/

section
variable (s : State) (f : Hif → Hif)

@[simp] theorem hifSet_pending : (hifSet s f).pending = s.pending := rfl
@[simp] theorem hifSet_free : (hifSet s f).free = s.free := rfl
@[simp] theorem hifSet_out : (hifSet s f).out = s.out := rfl
@[simp] theorem hifSet_rdata : (hifSet s f).rdata = s.rdata := rfl
@[simp] theorem hifSet_regs : (hifSet s f).regs = s.regs := rfl
@[simp] theorem hifSet_hold64 : (hifSet s f).hold64 = s.hold64 := rfl
@[simp] theorem hifSet_latch64 : (hifSet s f).latch64 = s.latch64 := rfl
@[simp] theorem hifSet_sys : (hifSet s f).sys = s.sys := rfl
@[simp] theorem hifSet_sa : (hifSet s f).sa = s.sa := rfl
@[simp] theorem hifSet_frst : (hifSet s f).frst = s.frst := rfl
@[simp] theorem hifSet_tmr : (hifSet s f).tmr = s.tmr := rfl
@[simp] theorem hifSet_log : (hifSet s f).log = s.log := rfl
@[simp] theorem hifSet_img : (hifSet s f).img = s.img := rfl
@[simp] theorem hifSet_fab : (hifSet s f).fab = s.fab := rfl
@[simp] theorem hifSet_swg : (hifSet s f).swg = s.swg := rfl
@[simp] theorem hifSet_swgOld : (hifSet s f).swgOld = s.swgOld := rfl
@[simp] theorem hifSet_rdl : (hifSet s f).rdl = s.rdl := rfl
@[simp] theorem hifSet_rdlOld : (hifSet s f).rdlOld = s.rdlOld := rfl
@[simp] theorem hifSet_crd : (hifSet s f).crd = s.crd := rfl
@[simp] theorem hifSet_txRd : (hifSet s f).txRd = s.txRd := rfl
@[simp] theorem hifSet_ggd : (hifSet s f).ggd = s.ggd := rfl
@[simp] theorem hifSet_adc : (hifSet s f).adc = s.adc := rfl
@[simp] theorem hifSet_rcd : (hifSet s f).rcd = s.rcd := rfl
@[simp] theorem hifSet_clk : (hifSet s f).clk = s.clk := rfl
@[simp] theorem hifSet_tim : (hifSet s f).tim = s.tim := rfl
@[simp] theorem hifSet_fio : (hifSet s f).fio = s.fio := rfl
@[simp] theorem hifSet_mon : (hifSet s f).mon = s.mon := rfl
@[simp] theorem hifSet_hif : (hifSet s f).hif = f s.hif := rfl
@[simp] theorem hifSet_stk : (hifSet s f).stk = s.stk := rfl
@[simp] theorem hifSet_red : (hifSet s f).red = s.red := rfl
@[simp] theorem hifSet_saf : (hifSet s f).saf = s.saf := rfl
@[simp] theorem hifSet_mem : (hifSet s f).mem = s.mem := rfl
@[simp] theorem hifSet_sec : (hifSet s f).sec = s.sec := rfl
@[simp] theorem hifSet_peat : (hifSet s f).peat = s.peat := rfl

end

/-! ### safSet -/

section
variable (s : State) (f : Saf → Saf)

@[simp] theorem safSet_pending : (safSet s f).pending = s.pending := rfl
@[simp] theorem safSet_free : (safSet s f).free = s.free := rfl
@[simp] theorem safSet_out : (safSet s f).out = s.out := rfl
@[simp] theorem safSet_rdata : (safSet s f).rdata = s.rdata := rfl
@[simp] theorem safSet_regs : (safSet s f).regs = s.regs := rfl
@[simp] theorem safSet_hold64 : (safSet s f).hold64 = s.hold64 := rfl
@[simp] theorem safSet_latch64 : (safSet s f).latch64 = s.latch64 := rfl
@[simp] theorem safSet_sys : (safSet s f).sys = s.sys := rfl
@[simp] theorem safSet_sa : (safSet s f).sa = s.sa := rfl
@[simp] theorem safSet_frst : (safSet s f).frst = s.frst := rfl
@[simp] theorem safSet_tmr : (safSet s f).tmr = s.tmr := rfl
@[simp] theorem safSet_log : (safSet s f).log = s.log := rfl
@[simp] theorem safSet_img : (safSet s f).img = s.img := rfl
@[simp] theorem safSet_fab : (safSet s f).fab = s.fab := rfl
@[simp] theorem safSet_swg : (safSet s f).swg = s.swg := rfl
@[simp] theorem safSet_swgOld : (safSet s f).swgOld = s.swgOld := rfl
@[simp] theorem safSet_rdl : (safSet s f).rdl = s.rdl := rfl
@[simp] theorem safSet_rdlOld : (safSet s f).rdlOld = s.rdlOld := rfl
@[simp] theorem safSet_crd : (safSet s f).crd = s.crd := rfl
@[simp] theorem safSet_txRd : (safSet s f).txRd = s.txRd := rfl
@[simp] theorem safSet_ggd : (safSet s f).ggd = s.ggd := rfl
@[simp] theorem safSet_adc : (safSet s f).adc = s.adc := rfl
@[simp] theorem safSet_rcd : (safSet s f).rcd = s.rcd := rfl
@[simp] theorem safSet_clk : (safSet s f).clk = s.clk := rfl
@[simp] theorem safSet_tim : (safSet s f).tim = s.tim := rfl
@[simp] theorem safSet_fio : (safSet s f).fio = s.fio := rfl
@[simp] theorem safSet_mon : (safSet s f).mon = s.mon := rfl
@[simp] theorem safSet_hif : (safSet s f).hif = s.hif := rfl
@[simp] theorem safSet_stk : (safSet s f).stk = s.stk := rfl
@[simp] theorem safSet_red : (safSet s f).red = s.red := rfl
@[simp] theorem safSet_saf : (safSet s f).saf = f s.saf := rfl
@[simp] theorem safSet_mem : (safSet s f).mem = s.mem := rfl
@[simp] theorem safSet_sec : (safSet s f).sec = s.sec := rfl
@[simp] theorem safSet_peat : (safSet s f).peat = s.peat := rfl

end

/-! ### updChain -/

section
variable (s : State) (i : Nat) (f : Chain → Chain)

@[simp] theorem updChain_pending : (updChain s i f).pending = s.pending := rfl
@[simp] theorem updChain_free : (updChain s i f).free = s.free := rfl
@[simp] theorem updChain_out : (updChain s i f).out = s.out := rfl
@[simp] theorem updChain_rdata : (updChain s i f).rdata = s.rdata := rfl
@[simp] theorem updChain_regs : (updChain s i f).regs = s.regs := rfl
@[simp] theorem updChain_hold64 : (updChain s i f).hold64 = s.hold64 := rfl
@[simp] theorem updChain_latch64 : (updChain s i f).latch64 = s.latch64 := rfl
@[simp] theorem updChain_sys : (updChain s i f).sys = s.sys := rfl
@[simp] theorem updChain_sa : (updChain s i f).sa = s.sa := rfl
@[simp] theorem updChain_frst : (updChain s i f).frst = s.frst := rfl
@[simp] theorem updChain_tmr : (updChain s i f).tmr = s.tmr := rfl
@[simp] theorem updChain_log : (updChain s i f).log = s.log := rfl
@[simp] theorem updChain_img : (updChain s i f).img = s.img := rfl
@[simp] theorem updChain_fab : (updChain s i f).fab = s.fab := rfl
@[simp] theorem updChain_swg : (updChain s i f).swg = s.swg := rfl
@[simp] theorem updChain_swgOld : (updChain s i f).swgOld = s.swgOld := rfl
@[simp] theorem updChain_rdl : (updChain s i f).rdl = s.rdl := rfl
@[simp] theorem updChain_rdlOld : (updChain s i f).rdlOld = s.rdlOld := rfl
@[simp] theorem updChain_crd : (updChain s i f).crd = s.crd := rfl
@[simp] theorem updChain_txRd : (updChain s i f).txRd = s.txRd := rfl
@[simp] theorem updChain_ggd : (updChain s i f).ggd = s.ggd := rfl
@[simp] theorem updChain_adc : (updChain s i f).adc = { s.adc with chains := updNth s.adc.chains i f } := rfl
@[simp] theorem updChain_rcd : (updChain s i f).rcd = s.rcd := rfl
@[simp] theorem updChain_clk : (updChain s i f).clk = s.clk := rfl
@[simp] theorem updChain_tim : (updChain s i f).tim = s.tim := rfl
@[simp] theorem updChain_fio : (updChain s i f).fio = s.fio := rfl
@[simp] theorem updChain_mon : (updChain s i f).mon = s.mon := rfl
@[simp] theorem updChain_hif : (updChain s i f).hif = s.hif := rfl
@[simp] theorem updChain_stk : (updChain s i f).stk = s.stk := rfl
@[simp] theorem updChain_red : (updChain s i f).red = s.red := rfl
@[simp] theorem updChain_saf : (updChain s i f).saf = s.saf := rfl
@[simp] theorem updChain_mem : (updChain s i f).mem = s.mem := rfl
@[simp] theorem updChain_sec : (updChain s i f).sec = s.sec := rfl
@[simp] theorem updChain_peat : (updChain s i f).peat = s.peat := rfl

end

/-! ### updPls -/

section
variable (s : State) (i : Nat) (f : Pls → Pls)

@[simp] theorem updPls_pending : (updPls s i f).pending = s.pending := rfl
@[simp] theorem updPls_free : (updPls s i f).free = s.free := rfl
@[simp] theorem updPls_out : (updPls s i f).out = s.out := rfl
@[simp] theorem updPls_rdata : (updPls s i f).rdata = s.rdata := rfl
@[simp] theorem updPls_regs : (updPls s i f).regs = s.regs := rfl
@[simp] theorem updPls_hold64 : (updPls s i f).hold64 = s.hold64 := rfl
@[simp] theorem updPls_latch64 : (updPls s i f).latch64 = s.latch64 := rfl
@[simp] theorem updPls_sys : (updPls s i f).sys = s.sys := rfl
@[simp] theorem updPls_sa : (updPls s i f).sa = s.sa := rfl
@[simp] theorem updPls_frst : (updPls s i f).frst = s.frst := rfl
@[simp] theorem updPls_tmr : (updPls s i f).tmr = s.tmr := rfl
@[simp] theorem updPls_log : (updPls s i f).log = s.log := rfl
@[simp] theorem updPls_img : (updPls s i f).img = s.img := rfl
@[simp] theorem updPls_fab : (updPls s i f).fab = s.fab := rfl
@[simp] theorem updPls_swg : (updPls s i f).swg = s.swg := rfl
@[simp] theorem updPls_swgOld : (updPls s i f).swgOld = s.swgOld := rfl
@[simp] theorem updPls_rdl : (updPls s i f).rdl = s.rdl := rfl
@[simp] theorem updPls_rdlOld : (updPls s i f).rdlOld = s.rdlOld := rfl
@[simp] theorem updPls_crd : (updPls s i f).crd = s.crd := rfl
@[simp] theorem updPls_txRd : (updPls s i f).txRd = s.txRd := rfl
@[simp] theorem updPls_ggd : (updPls s i f).ggd = s.ggd := rfl
@[simp] theorem updPls_adc : (updPls s i f).adc = { s.adc with pls := updNth s.adc.pls i f } := rfl
@[simp] theorem updPls_rcd : (updPls s i f).rcd = s.rcd := rfl
@[simp] theorem updPls_clk : (updPls s i f).clk = s.clk := rfl
@[simp] theorem updPls_tim : (updPls s i f).tim = s.tim := rfl
@[simp] theorem updPls_fio : (updPls s i f).fio = s.fio := rfl
@[simp] theorem updPls_mon : (updPls s i f).mon = s.mon := rfl
@[simp] theorem updPls_hif : (updPls s i f).hif = s.hif := rfl
@[simp] theorem updPls_stk : (updPls s i f).stk = s.stk := rfl
@[simp] theorem updPls_red : (updPls s i f).red = s.red := rfl
@[simp] theorem updPls_saf : (updPls s i f).saf = s.saf := rfl
@[simp] theorem updPls_mem : (updPls s i f).mem = s.mem := rfl
@[simp] theorem updPls_sec : (updPls s i f).sec = s.sec := rfl
@[simp] theorem updPls_peat : (updPls s i f).peat = s.peat := rfl

end

/-! ### updLane -/

section
variable (s : State) (i : Nat) (f : Lane → Lane)

@[simp] theorem updLane_pending : (updLane s i f).pending = s.pending := rfl
@[simp] theorem updLane_free : (updLane s i f).free = s.free := rfl
@[simp] theorem updLane_out : (updLane s i f).out = s.out := rfl
@[simp] theorem updLane_rdata : (updLane s i f).rdata = s.rdata := rfl
@[simp] theorem updLane_regs : (updLane s i f).regs = s.regs := rfl
@[simp] theorem updLane_hold64 : (updLane s i f).hold64 = s.hold64 := rfl
@[simp] theorem updLane_latch64 : (updLane s i f).latch64 = s.latch64 := rfl
@[simp] theorem updLane_sys : (updLane s i f).sys = s.sys := rfl
@[simp] theorem updLane_sa : (updLane s i f).sa = s.sa := rfl
@[simp] theorem updLane_frst : (updLane s i f).frst = s.frst := rfl
@[simp] theorem updLane_tmr : (updLane s i f).tmr = s.tmr := rfl
@[simp] theorem updLane_log : (updLane s i f).log = s.log := rfl
@[simp] theorem updLane_img : (updLane s i f).img = s.img := rfl
@[simp] theorem updLane_fab : (updLane s i f).fab = s.fab := rfl
@[simp] theorem updLane_swg : (updLane s i f).swg = s.swg := rfl
@[simp] theorem updLane_swgOld : (updLane s i f).swgOld = s.swgOld := rfl
@[simp] theorem updLane_rdl : (updLane s i f).rdl = s.rdl := rfl
@[simp] theorem updLane_rdlOld : (updLane s i f).rdlOld = s.rdlOld := rfl
@[simp] theorem updLane_crd : (updLane s i f).crd = { s.crd with lanes := updNth s.crd.lanes i f } := rfl
@[simp] theorem updLane_txRd : (updLane s i f).txRd = s.txRd := rfl
@[simp] theorem updLane_ggd : (updLane s i f).ggd = s.ggd := rfl
@[simp] theorem updLane_adc : (updLane s i f).adc = s.adc := rfl
@[simp] theorem updLane_rcd : (updLane s i f).rcd = s.rcd := rfl
@[simp] theorem updLane_clk : (updLane s i f).clk = s.clk := rfl
@[simp] theorem updLane_tim : (updLane s i f).tim = s.tim := rfl
@[simp] theorem updLane_fio : (updLane s i f).fio = s.fio := rfl
@[simp] theorem updLane_mon : (updLane s i f).mon = s.mon := rfl
@[simp] theorem updLane_hif : (updLane s i f).hif = s.hif := rfl
@[simp] theorem updLane_stk : (updLane s i f).stk = s.stk := rfl
@[simp] theorem updLane_red : (updLane s i f).red = s.red := rfl
@[simp] theorem updLane_saf : (updLane s i f).saf = s.saf := rfl
@[simp] theorem updLane_mem : (updLane s i f).mem = s.mem := rfl
@[simp] theorem updLane_sec : (updLane s i f).sec = s.sec := rfl
@[simp] theorem updLane_peat : (updLane s i f).peat = s.peat := rfl

end

/-! ### updPort -/

section
variable (s : State) (i : Nat) (f : Port → Port)

@[simp] theorem updPort_pending : (updPort s i f).pending = s.pending := rfl
@[simp] theorem updPort_free : (updPort s i f).free = s.free := rfl
@[simp] theorem updPort_out : (updPort s i f).out = s.out := rfl
@[simp] theorem updPort_rdata : (updPort s i f).rdata = s.rdata := rfl
@[simp] theorem updPort_regs : (updPort s i f).regs = s.regs := rfl
@[simp] theorem updPort_hold64 : (updPort s i f).hold64 = s.hold64 := rfl
@[simp] theorem updPort_latch64 : (updPort s i f).latch64 = s.latch64 := rfl
@[simp] theorem updPort_sys : (updPort s i f).sys = s.sys := rfl
@[simp] theorem updPort_sa : (updPort s i f).sa = s.sa := rfl
@[simp] theorem updPort_frst : (updPort s i f).frst = s.frst := rfl
@[simp] theorem updPort_tmr : (updPort s i f).tmr = s.tmr := rfl
@[simp] theorem updPort_log : (updPort s i f).log = s.log := rfl
@[simp] theorem updPort_img : (updPort s i f).img = s.img := rfl
@[simp] theorem updPort_fab : (updPort s i f).fab = s.fab := rfl
@[simp] theorem updPort_swg : (updPort s i f).swg = s.swg := rfl
@[simp] theorem updPort_swgOld : (updPort s i f).swgOld = s.swgOld := rfl
@[simp] theorem updPort_rdl : (updPort s i f).rdl = s.rdl := rfl
@[simp] theorem updPort_rdlOld : (updPort s i f).rdlOld = s.rdlOld := rfl
@[simp] theorem updPort_crd : (updPort s i f).crd = { s.crd with ports := updNth s.crd.ports i f } := rfl
@[simp] theorem updPort_txRd : (updPort s i f).txRd = s.txRd := rfl
@[simp] theorem updPort_ggd : (updPort s i f).ggd = s.ggd := rfl
@[simp] theorem updPort_adc : (updPort s i f).adc = s.adc := rfl
@[simp] theorem updPort_rcd : (updPort s i f).rcd = s.rcd := rfl
@[simp] theorem updPort_clk : (updPort s i f).clk = s.clk := rfl
@[simp] theorem updPort_tim : (updPort s i f).tim = s.tim := rfl
@[simp] theorem updPort_fio : (updPort s i f).fio = s.fio := rfl
@[simp] theorem updPort_mon : (updPort s i f).mon = s.mon := rfl
@[simp] theorem updPort_hif : (updPort s i f).hif = s.hif := rfl
@[simp] theorem updPort_stk : (updPort s i f).stk = s.stk := rfl
@[simp] theorem updPort_red : (updPort s i f).red = s.red := rfl
@[simp] theorem updPort_saf : (updPort s i f).saf = s.saf := rfl
@[simp] theorem updPort_mem : (updPort s i f).mem = s.mem := rfl
@[simp] theorem updPort_sec : (updPort s i f).sec = s.sec := rfl
@[simp] theorem updPort_peat : (updPort s i f).peat = s.peat := rfl

end

/-! ### updChan -/

section
variable (s : State) (i : Nat) (f : Chan → Chan)

@[simp] theorem updChan_pending : (updChan s i f).pending = s.pending := rfl
@[simp] theorem updChan_free : (updChan s i f).free = s.free := rfl
@[simp] theorem updChan_out : (updChan s i f).out = s.out := rfl
@[simp] theorem updChan_rdata : (updChan s i f).rdata = s.rdata := rfl
@[simp] theorem updChan_regs : (updChan s i f).regs = s.regs := rfl
@[simp] theorem updChan_hold64 : (updChan s i f).hold64 = s.hold64 := rfl
@[simp] theorem updChan_latch64 : (updChan s i f).latch64 = s.latch64 := rfl
@[simp] theorem updChan_sys : (updChan s i f).sys = s.sys := rfl
@[simp] theorem updChan_sa : (updChan s i f).sa = s.sa := rfl
@[simp] theorem updChan_frst : (updChan s i f).frst = s.frst := rfl
@[simp] theorem updChan_tmr : (updChan s i f).tmr = s.tmr := rfl
@[simp] theorem updChan_log : (updChan s i f).log = s.log := rfl
@[simp] theorem updChan_img : (updChan s i f).img = s.img := rfl
@[simp] theorem updChan_fab : (updChan s i f).fab = s.fab := rfl
@[simp] theorem updChan_swg : (updChan s i f).swg = s.swg := rfl
@[simp] theorem updChan_swgOld : (updChan s i f).swgOld = s.swgOld := rfl
@[simp] theorem updChan_rdl : (updChan s i f).rdl = s.rdl := rfl
@[simp] theorem updChan_rdlOld : (updChan s i f).rdlOld = s.rdlOld := rfl
@[simp] theorem updChan_crd : (updChan s i f).crd = s.crd := rfl
@[simp] theorem updChan_txRd : (updChan s i f).txRd = s.txRd := rfl
@[simp] theorem updChan_ggd : (updChan s i f).ggd = { s.ggd with chans := updNth s.ggd.chans i f } := rfl
@[simp] theorem updChan_adc : (updChan s i f).adc = s.adc := rfl
@[simp] theorem updChan_rcd : (updChan s i f).rcd = s.rcd := rfl
@[simp] theorem updChan_clk : (updChan s i f).clk = s.clk := rfl
@[simp] theorem updChan_tim : (updChan s i f).tim = s.tim := rfl
@[simp] theorem updChan_fio : (updChan s i f).fio = s.fio := rfl
@[simp] theorem updChan_mon : (updChan s i f).mon = s.mon := rfl
@[simp] theorem updChan_hif : (updChan s i f).hif = s.hif := rfl
@[simp] theorem updChan_stk : (updChan s i f).stk = s.stk := rfl
@[simp] theorem updChan_red : (updChan s i f).red = s.red := rfl
@[simp] theorem updChan_saf : (updChan s i f).saf = s.saf := rfl
@[simp] theorem updChan_mem : (updChan s i f).mem = s.mem := rfl
@[simp] theorem updChan_sec : (updChan s i f).sec = s.sec := rfl
@[simp] theorem updChan_peat : (updChan s i f).peat = s.peat := rfl

end

/-! ### updTb -/

section
variable (s : State) (i : Nat) (f : Tb → Tb)

@[simp] theorem updTb_pending : (updTb s i f).pending = s.pending := rfl
@[simp] theorem updTb_free : (updTb s i f).free = s.free := rfl
@[simp] theorem updTb_out : (updTb s i f).out = s.out := rfl
@[simp] theorem updTb_rdata : (updTb s i f).rdata = s.rdata := rfl
@[simp] theorem updTb_regs : (updTb s i f).regs = s.regs := rfl
@[simp] theorem updTb_hold64 : (updTb s i f).hold64 = s.hold64 := rfl
@[simp] theorem updTb_latch64 : (updTb s i f).latch64 = s.latch64 := rfl
@[simp] theorem updTb_sys : (updTb s i f).sys = s.sys := rfl
@[simp] theorem updTb_sa : (updTb s i f).sa = s.sa := rfl
@[simp] theorem updTb_frst : (updTb s i f).frst = s.frst := rfl
@[simp] theorem updTb_tmr : (updTb s i f).tmr = s.tmr := rfl
@[simp] theorem updTb_log : (updTb s i f).log = s.log := rfl
@[simp] theorem updTb_img : (updTb s i f).img = s.img := rfl
@[simp] theorem updTb_fab : (updTb s i f).fab = s.fab := rfl
@[simp] theorem updTb_swg : (updTb s i f).swg = s.swg := rfl
@[simp] theorem updTb_swgOld : (updTb s i f).swgOld = s.swgOld := rfl
@[simp] theorem updTb_rdl : (updTb s i f).rdl = s.rdl := rfl
@[simp] theorem updTb_rdlOld : (updTb s i f).rdlOld = s.rdlOld := rfl
@[simp] theorem updTb_crd : (updTb s i f).crd = s.crd := rfl
@[simp] theorem updTb_txRd : (updTb s i f).txRd = s.txRd := rfl
@[simp] theorem updTb_ggd : (updTb s i f).ggd = s.ggd := rfl
@[simp] theorem updTb_adc : (updTb s i f).adc = s.adc := rfl
@[simp] theorem updTb_rcd : (updTb s i f).rcd = s.rcd := rfl
@[simp] theorem updTb_clk : (updTb s i f).clk = s.clk := rfl
@[simp] theorem updTb_tim : (updTb s i f).tim = { s.tim with tbs := updNth s.tim.tbs i f } := rfl
@[simp] theorem updTb_fio : (updTb s i f).fio = s.fio := rfl
@[simp] theorem updTb_mon : (updTb s i f).mon = s.mon := rfl
@[simp] theorem updTb_hif : (updTb s i f).hif = s.hif := rfl
@[simp] theorem updTb_stk : (updTb s i f).stk = s.stk := rfl
@[simp] theorem updTb_red : (updTb s i f).red = s.red := rfl
@[simp] theorem updTb_saf : (updTb s i f).saf = s.saf := rfl
@[simp] theorem updTb_mem : (updTb s i f).mem = s.mem := rfl
@[simp] theorem updTb_sec : (updTb s i f).sec = s.sec := rfl
@[simp] theorem updTb_peat : (updTb s i f).peat = s.peat := rfl

end

/-! ### updDom -/

section
variable (s : State) (i : Nat) (f : Dom → Dom)

@[simp] theorem updDom_pending : (updDom s i f).pending = s.pending := rfl
@[simp] theorem updDom_free : (updDom s i f).free = s.free := rfl
@[simp] theorem updDom_out : (updDom s i f).out = s.out := rfl
@[simp] theorem updDom_rdata : (updDom s i f).rdata = s.rdata := rfl
@[simp] theorem updDom_regs : (updDom s i f).regs = s.regs := rfl
@[simp] theorem updDom_hold64 : (updDom s i f).hold64 = s.hold64 := rfl
@[simp] theorem updDom_latch64 : (updDom s i f).latch64 = s.latch64 := rfl
@[simp] theorem updDom_sys : (updDom s i f).sys = s.sys := rfl
@[simp] theorem updDom_sa : (updDom s i f).sa = s.sa := rfl
@[simp] theorem updDom_frst : (updDom s i f).frst = s.frst := rfl
@[simp] theorem updDom_tmr : (updDom s i f).tmr = s.tmr := rfl
@[simp] theorem updDom_log : (updDom s i f).log = s.log := rfl
@[simp] theorem updDom_img : (updDom s i f).img = s.img := rfl
@[simp] theorem updDom_fab : (updDom s i f).fab = s.fab := rfl
@[simp] theorem updDom_swg : (updDom s i f).swg = s.swg := rfl
@[simp] theorem updDom_swgOld : (updDom s i f).swgOld = s.swgOld := rfl
@[simp] theorem updDom_rdl : (updDom s i f).rdl = s.rdl := rfl
@[simp] theorem updDom_rdlOld : (updDom s i f).rdlOld = s.rdlOld := rfl
@[simp] theorem updDom_crd : (updDom s i f).crd = s.crd := rfl
@[simp] theorem updDom_txRd : (updDom s i f).txRd = s.txRd := rfl
@[simp] theorem updDom_ggd : (updDom s i f).ggd = s.ggd := rfl
@[simp] theorem updDom_adc : (updDom s i f).adc = s.adc := rfl
@[simp] theorem updDom_rcd : (updDom s i f).rcd = s.rcd := rfl
@[simp] theorem updDom_clk : (updDom s i f).clk = s.clk := rfl
@[simp] theorem updDom_tim : (updDom s i f).tim = { s.tim with doms := updNth s.tim.doms i f } := rfl
@[simp] theorem updDom_fio : (updDom s i f).fio = s.fio := rfl
@[simp] theorem updDom_mon : (updDom s i f).mon = s.mon := rfl
@[simp] theorem updDom_hif : (updDom s i f).hif = s.hif := rfl
@[simp] theorem updDom_stk : (updDom s i f).stk = s.stk := rfl
@[simp] theorem updDom_red : (updDom s i f).red = s.red := rfl
@[simp] theorem updDom_saf : (updDom s i f).saf = s.saf := rfl
@[simp] theorem updDom_mem : (updDom s i f).mem = s.mem := rfl
@[simp] theorem updDom_sec : (updDom s i f).sec = s.sec := rfl
@[simp] theorem updDom_peat : (updDom s i f).peat = s.peat := rfl

end

/-! ### cellSet -/

section
variable (s : State) (i : Nat) (f : Cell)

@[simp] theorem cellSet_pending : (cellSet s i f).pending = s.pending := rfl
@[simp] theorem cellSet_free : (cellSet s i f).free = s.free := rfl
@[simp] theorem cellSet_out : (cellSet s i f).out = s.out := rfl
@[simp] theorem cellSet_rdata : (cellSet s i f).rdata = s.rdata := rfl
@[simp] theorem cellSet_regs : (cellSet s i f).regs = s.regs := rfl
@[simp] theorem cellSet_hold64 : (cellSet s i f).hold64 = s.hold64 := rfl
@[simp] theorem cellSet_latch64 : (cellSet s i f).latch64 = s.latch64 := rfl
@[simp] theorem cellSet_sys : (cellSet s i f).sys = s.sys := rfl
@[simp] theorem cellSet_sa : (cellSet s i f).sa = s.sa := rfl
@[simp] theorem cellSet_frst : (cellSet s i f).frst = s.frst := rfl
@[simp] theorem cellSet_tmr : (cellSet s i f).tmr = s.tmr := rfl
@[simp] theorem cellSet_log : (cellSet s i f).log = s.log := rfl
@[simp] theorem cellSet_img : (cellSet s i f).img = s.img := rfl
@[simp] theorem cellSet_fab : (cellSet s i f).fab = { s.fab with cells := tabSet Cell.fresh s.fab.cells i f } := rfl
@[simp] theorem cellSet_swg : (cellSet s i f).swg = s.swg := rfl
@[simp] theorem cellSet_swgOld : (cellSet s i f).swgOld = s.swgOld := rfl
@[simp] theorem cellSet_rdl : (cellSet s i f).rdl = s.rdl := rfl
@[simp] theorem cellSet_rdlOld : (cellSet s i f).rdlOld = s.rdlOld := rfl
@[simp] theorem cellSet_crd : (cellSet s i f).crd = s.crd := rfl
@[simp] theorem cellSet_txRd : (cellSet s i f).txRd = s.txRd := rfl
@[simp] theorem cellSet_ggd : (cellSet s i f).ggd = s.ggd := rfl
@[simp] theorem cellSet_adc : (cellSet s i f).adc = s.adc := rfl
@[simp] theorem cellSet_rcd : (cellSet s i f).rcd = s.rcd := rfl
@[simp] theorem cellSet_clk : (cellSet s i f).clk = s.clk := rfl
@[simp] theorem cellSet_tim : (cellSet s i f).tim = s.tim := rfl
@[simp] theorem cellSet_fio : (cellSet s i f).fio = s.fio := rfl
@[simp] theorem cellSet_mon : (cellSet s i f).mon = s.mon := rfl
@[simp] theorem cellSet_hif : (cellSet s i f).hif = s.hif := rfl
@[simp] theorem cellSet_stk : (cellSet s i f).stk = s.stk := rfl
@[simp] theorem cellSet_red : (cellSet s i f).red = s.red := rfl
@[simp] theorem cellSet_saf : (cellSet s i f).saf = s.saf := rfl
@[simp] theorem cellSet_mem : (cellSet s i f).mem = s.mem := rfl
@[simp] theorem cellSet_sec : (cellSet s i f).sec = s.sec := rfl
@[simp] theorem cellSet_peat : (cellSet s i f).peat = s.peat := rfl

end

/-! ### updRing -/

section
variable (s : State) (i : Nat) (f : Ring → Ring)

@[simp] theorem updRing_pending : (updRing s i f).pending = s.pending := rfl
@[simp] theorem updRing_free : (updRing s i f).free = s.free := rfl
@[simp] theorem updRing_out : (updRing s i f).out = s.out := rfl
@[simp] theorem updRing_rdata : (updRing s i f).rdata = s.rdata := rfl
@[simp] theorem updRing_regs : (updRing s i f).regs = s.regs := rfl
@[simp] theorem updRing_hold64 : (updRing s i f).hold64 = s.hold64 := rfl
@[simp] theorem updRing_latch64 : (updRing s i f).latch64 = s.latch64 := rfl
@[simp] theorem updRing_sys : (updRing s i f).sys = s.sys := rfl
@[simp] theorem updRing_sa : (updRing s i f).sa = s.sa := rfl
@[simp] theorem updRing_frst : (updRing s i f).frst = s.frst := rfl
@[simp] theorem updRing_tmr : (updRing s i f).tmr = s.tmr := rfl
@[simp] theorem updRing_log : (updRing s i f).log = s.log := rfl
@[simp] theorem updRing_img : (updRing s i f).img = s.img := rfl
@[simp] theorem updRing_fab : (updRing s i f).fab = s.fab := rfl
@[simp] theorem updRing_swg : (updRing s i f).swg = s.swg := rfl
@[simp] theorem updRing_swgOld : (updRing s i f).swgOld = s.swgOld := rfl
@[simp] theorem updRing_rdl : (updRing s i f).rdl = s.rdl := rfl
@[simp] theorem updRing_rdlOld : (updRing s i f).rdlOld = s.rdlOld := rfl
@[simp] theorem updRing_crd : (updRing s i f).crd = s.crd := rfl
@[simp] theorem updRing_txRd : (updRing s i f).txRd = s.txRd := rfl
@[simp] theorem updRing_ggd : (updRing s i f).ggd = s.ggd := rfl
@[simp] theorem updRing_adc : (updRing s i f).adc = s.adc := rfl
@[simp] theorem updRing_rcd : (updRing s i f).rcd = s.rcd := rfl
@[simp] theorem updRing_clk : (updRing s i f).clk = s.clk := rfl
@[simp] theorem updRing_tim : (updRing s i f).tim = s.tim := rfl
@[simp] theorem updRing_fio : (updRing s i f).fio = s.fio := rfl
@[simp] theorem updRing_mon : (updRing s i f).mon = s.mon := rfl
@[simp] theorem updRing_hif : (updRing s i f).hif = s.hif := rfl
@[simp] theorem updRing_red : (updRing s i f).red = s.red := rfl
@[simp] theorem updRing_saf : (updRing s i f).saf = s.saf := rfl
@[simp] theorem updRing_mem : (updRing s i f).mem = s.mem := rfl
@[simp] theorem updRing_sec : (updRing s i f).sec = s.sec := rfl
@[simp] theorem updRing_peat : (updRing s i f).peat = s.peat := rfl

end

/-! ### updWorker -/

section
variable (s : State) (i : Nat) (f : Worker → Worker)

@[simp] theorem updWorker_pending : (updWorker s i f).pending = s.pending := rfl
@[simp] theorem updWorker_free : (updWorker s i f).free = s.free := rfl
@[simp] theorem updWorker_out : (updWorker s i f).out = s.out := rfl
@[simp] theorem updWorker_rdata : (updWorker s i f).rdata = s.rdata := rfl
@[simp] theorem updWorker_regs : (updWorker s i f).regs = s.regs := rfl
@[simp] theorem updWorker_hold64 : (updWorker s i f).hold64 = s.hold64 := rfl
@[simp] theorem updWorker_latch64 : (updWorker s i f).latch64 = s.latch64 := rfl
@[simp] theorem updWorker_sys : (updWorker s i f).sys = s.sys := rfl
@[simp] theorem updWorker_sa : (updWorker s i f).sa = s.sa := rfl
@[simp] theorem updWorker_frst : (updWorker s i f).frst = s.frst := rfl
@[simp] theorem updWorker_tmr : (updWorker s i f).tmr = s.tmr := rfl
@[simp] theorem updWorker_log : (updWorker s i f).log = s.log := rfl
@[simp] theorem updWorker_img : (updWorker s i f).img = s.img := rfl
@[simp] theorem updWorker_fab : (updWorker s i f).fab = s.fab := rfl
@[simp] theorem updWorker_swg : (updWorker s i f).swg = s.swg := rfl
@[simp] theorem updWorker_swgOld : (updWorker s i f).swgOld = s.swgOld := rfl
@[simp] theorem updWorker_rdl : (updWorker s i f).rdl = s.rdl := rfl
@[simp] theorem updWorker_rdlOld : (updWorker s i f).rdlOld = s.rdlOld := rfl
@[simp] theorem updWorker_crd : (updWorker s i f).crd = s.crd := rfl
@[simp] theorem updWorker_txRd : (updWorker s i f).txRd = s.txRd := rfl
@[simp] theorem updWorker_ggd : (updWorker s i f).ggd = s.ggd := rfl
@[simp] theorem updWorker_adc : (updWorker s i f).adc = s.adc := rfl
@[simp] theorem updWorker_rcd : (updWorker s i f).rcd = s.rcd := rfl
@[simp] theorem updWorker_clk : (updWorker s i f).clk = s.clk := rfl
@[simp] theorem updWorker_tim : (updWorker s i f).tim = s.tim := rfl
@[simp] theorem updWorker_fio : (updWorker s i f).fio = s.fio := rfl
@[simp] theorem updWorker_mon : (updWorker s i f).mon = s.mon := rfl
@[simp] theorem updWorker_hif : (updWorker s i f).hif = s.hif := rfl
@[simp] theorem updWorker_red : (updWorker s i f).red = s.red := rfl
@[simp] theorem updWorker_saf : (updWorker s i f).saf = s.saf := rfl
@[simp] theorem updWorker_mem : (updWorker s i f).mem = s.mem := rfl
@[simp] theorem updWorker_sec : (updWorker s i f).sec = s.sec := rfl
@[simp] theorem updWorker_peat : (updWorker s i f).peat = s.peat := rfl

end

/-! ### updReady -/

section
variable (s : State) (i : Nat) (f : List Item → List Item)

@[simp] theorem updReady_pending : (updReady s i f).pending = s.pending := rfl
@[simp] theorem updReady_free : (updReady s i f).free = s.free := rfl
@[simp] theorem updReady_out : (updReady s i f).out = s.out := rfl
@[simp] theorem updReady_rdata : (updReady s i f).rdata = s.rdata := rfl
@[simp] theorem updReady_regs : (updReady s i f).regs = s.regs := rfl
@[simp] theorem updReady_hold64 : (updReady s i f).hold64 = s.hold64 := rfl
@[simp] theorem updReady_latch64 : (updReady s i f).latch64 = s.latch64 := rfl
@[simp] theorem updReady_sys : (updReady s i f).sys = s.sys := rfl
@[simp] theorem updReady_sa : (updReady s i f).sa = s.sa := rfl
@[simp] theorem updReady_frst : (updReady s i f).frst = s.frst := rfl
@[simp] theorem updReady_tmr : (updReady s i f).tmr = s.tmr := rfl
@[simp] theorem updReady_log : (updReady s i f).log = s.log := rfl
@[simp] theorem updReady_img : (updReady s i f).img = s.img := rfl
@[simp] theorem updReady_fab : (updReady s i f).fab = s.fab := rfl
@[simp] theorem updReady_swg : (updReady s i f).swg = s.swg := rfl
@[simp] theorem updReady_swgOld : (updReady s i f).swgOld = s.swgOld := rfl
@[simp] theorem updReady_rdl : (updReady s i f).rdl = s.rdl := rfl
@[simp] theorem updReady_rdlOld : (updReady s i f).rdlOld = s.rdlOld := rfl
@[simp] theorem updReady_crd : (updReady s i f).crd = s.crd := rfl
@[simp] theorem updReady_txRd : (updReady s i f).txRd = s.txRd := rfl
@[simp] theorem updReady_ggd : (updReady s i f).ggd = s.ggd := rfl
@[simp] theorem updReady_adc : (updReady s i f).adc = s.adc := rfl
@[simp] theorem updReady_rcd : (updReady s i f).rcd = s.rcd := rfl
@[simp] theorem updReady_clk : (updReady s i f).clk = s.clk := rfl
@[simp] theorem updReady_tim : (updReady s i f).tim = s.tim := rfl
@[simp] theorem updReady_fio : (updReady s i f).fio = s.fio := rfl
@[simp] theorem updReady_mon : (updReady s i f).mon = s.mon := rfl
@[simp] theorem updReady_hif : (updReady s i f).hif = s.hif := rfl
@[simp] theorem updReady_red : (updReady s i f).red = s.red := rfl
@[simp] theorem updReady_saf : (updReady s i f).saf = s.saf := rfl
@[simp] theorem updReady_mem : (updReady s i f).mem = s.mem := rfl
@[simp] theorem updReady_sec : (updReady s i f).sec = s.sec := rfl
@[simp] theorem updReady_peat : (updReady s i f).peat = s.peat := rfl

end

end Sys2Proof.Machine
end

