-- ==== Sys2Proof/Laws/Reports.lean ====
section
/-!
SUPPORT. How a change that only reports is recognised part by part, and what the shared operations do to the stored bits of registers.
-/
namespace Sys2Proof.Machine
set_option Elab.async false

/-- The host interface without its pending interrupt bits. -/
def Hif.bare (h : Hif) : Hif := { h with pf0 := { h.pf0 with pend := 0 }, pf1 := { h.pf1 with pend := 0 } }

/-- The stores without the count of denied accesses. -/
def Mem.bare (m : Mem) : Mem := { m with deny := 0 }

theorem Reported.of_parts {s t : State}
    (h_pending : t.pending = s.pending)
    (h_rdata : t.rdata = s.rdata)
    (h_hold64 : t.hold64 = s.hold64)
    (h_latch64 : t.latch64 = s.latch64)
    (h_sys : t.sys = s.sys)
    (h_sa : t.sa = s.sa)
    (h_frst : t.frst = s.frst)
    (h_tmr : t.tmr = s.tmr)
    (h_img : t.img = s.img)
    (h_fab : t.fab = s.fab)
    (h_swg : t.swg = s.swg)
    (h_swgOld : t.swgOld = s.swgOld)
    (h_rdl : t.rdl = s.rdl)
    (h_rdlOld : t.rdlOld = s.rdlOld)
    (h_crd : t.crd = s.crd)
    (h_txRd : t.txRd = s.txRd)
    (h_ggd : t.ggd = s.ggd)
    (h_adc : t.adc = s.adc)
    (h_rcd : t.rcd = s.rcd)
    (h_clk : t.clk = s.clk)
    (h_tim : t.tim = s.tim)
    (h_fio : t.fio = s.fio)
    (h_mon : t.mon = s.mon)
    (h_stk : t.stk = s.stk)
    (h_red : t.red = s.red)
    (h_saf : t.saf = s.saf)
    (h_sec : t.sec = s.sec)
    (h_peat : t.peat = s.peat)
    (h_hif : t.hif.bare = s.hif.bare) (h_mem : t.mem.bare = s.mem.bare) : Reported s t := by
  obtain ⟨a_pending, a_free, a_out, a_rdata, a_regs, a_hold64, a_latch64, a_sys, a_sa, a_frst, a_tmr, a_log, a_img, a_fab, a_swg, a_swgOld, a_rdl, a_rdlOld, a_crd, a_txRd, a_ggd, a_adc, a_rcd, a_clk, a_tim, a_fio, a_mon, a_hif, a_stk, a_red, a_saf, a_mem, a_sec, a_peat⟩ := s
  obtain ⟨b_pending, b_free, b_out, b_rdata, b_regs, b_hold64, b_latch64, b_sys, b_sa, b_frst, b_tmr, b_log, b_img, b_fab, b_swg, b_swgOld, b_rdl, b_rdlOld, b_crd, b_txRd, b_ggd, b_adc, b_rcd, b_clk, b_tim, b_fio, b_mon, b_hif, b_stk, b_red, b_saf, b_mem, b_sec, b_peat⟩ := t
  simp only at h_pending h_rdata h_hold64 h_latch64 h_sys h_sa h_frst h_tmr h_img h_fab h_swg h_swgOld h_rdl h_rdlOld h_crd h_txRd h_ggd h_adc h_rcd h_clk h_tim h_fio h_mon h_stk h_red h_saf h_sec h_peat
  subst h_pending h_rdata h_hold64 h_latch64 h_sys h_sa h_frst h_tmr h_img h_fab h_swg h_swgOld h_rdl h_rdlOld h_crd h_txRd h_ggd h_adc h_rcd h_clk h_tim h_fio h_mon h_stk h_red h_saf h_sec h_peat
  unfold Reported
  obtain ⟨u1, u2, u3, ⟨p1, p2, p3, p4, p5, p6, p7⟩, ⟨q1, q2, q3, q4, q5, q6, q7⟩⟩ := a_hif
  obtain ⟨v1, v2, v3, ⟨r1, r2, r3, r4, r5, r6, r7⟩, ⟨w1, w2, w3, w4, w5, w6, w7⟩⟩ := b_hif
  cases a_mem
  cases b_mem
  simp_all [Hif.bare, Mem.bare]

theorem Reported.parts {s t : State} (h : Reported s t) : t.hif.bare = s.hif.bare ∧ t.mem.bare = s.mem.bare := by
  unfold Reported at h
  rw [h]
  exact ⟨rfl, rfl⟩

@[simp] theorem begin_hif_bare (s : State) : (begin s).hif.bare = s.hif.bare := (begin_reported _).parts.1

@[simp] theorem begin_mem_bare (s : State) : (begin s).mem.bare = s.mem.bare := (begin_reported _).parts.2

@[simp] theorem send_hif_bare (s : State) (o : Out) : (send s o).hif.bare = s.hif.bare := (send_reported _ _).parts.1

@[simp] theorem send_mem_bare (s : State) (o : Out) : (send s o).mem.bare = s.mem.bare := (send_reported _ _).parts.2

@[simp] theorem regSet_hif_bare (s : State) (a : Nat) (v : Word) : (regSet s a v).hif.bare = s.hif.bare := (regSet_reported _ _ _).parts.1

@[simp] theorem regSet_mem_bare (s : State) (a : Nat) (v : Word) : (regSet s a v).mem.bare = s.mem.bare := (regSet_reported _ _ _).parts.2

@[simp] theorem regPut_hif_bare (s : State) (a hi lo v : Nat) : (regPut s a hi lo v).hif.bare = s.hif.bare := (regPut_reported _ _ _ _ _).parts.1

@[simp] theorem regPut_mem_bare (s : State) (a hi lo v : Nat) : (regPut s a hi lo v).mem.bare = s.mem.bare := (regPut_reported _ _ _ _ _).parts.2

@[simp] theorem regInc_hif_bare (s : State) (a hi lo : Nat) : (regInc s a hi lo).hif.bare = s.hif.bare := (regInc_reported _ _ _ _).parts.1

@[simp] theorem regInc_mem_bare (s : State) (a hi lo : Nat) : (regInc s a hi lo).mem.bare = s.mem.bare := (regInc_reported _ _ _ _).parts.2

@[simp] theorem msix_hif_bare (s : State) (pf : Pf) (vec : Nat) : (msix s pf vec).hif.bare = s.hif.bare := (msix_reported _ _ _).parts.1

@[simp] theorem msix_mem_bare (s : State) (pf : Pf) (vec : Nat) : (msix s pf vec).mem.bare = s.mem.bare := (msix_reported _ _ _).parts.2

@[simp] theorem msixBoth_hif_bare (s : State) (vec : Nat) : (msixBoth s vec).hif.bare = s.hif.bare := (msixBoth_reported _ _).parts.1

@[simp] theorem msixBoth_mem_bare (s : State) (vec : Nat) : (msixBoth s vec).mem.bare = s.mem.bare := (msixBoth_reported _ _).parts.2

@[simp] theorem setFlag_hif_bare (s : State) (fn b : Nat) : (setFlag s fn b).hif.bare = s.hif.bare := (setFlag_reported _ _ _).parts.1

@[simp] theorem setFlag_mem_bare (s : State) (fn b : Nat) : (setFlag s fn b).mem.bare = s.mem.bare := (setFlag_reported _ _ _).parts.2

@[simp] theorem countDeny_hif_bare (s : State) : (countDeny s).hif.bare = s.hif.bare := (countDeny_reported _).parts.1

@[simp] theorem countDeny_mem_bare (s : State) : (countDeny s).mem.bare = s.mem.bare := (countDeny_reported _).parts.2

@[simp] theorem logAt_hif_bare (s : State) (u fn code arg : Nat) : (logAt s u fn code arg).hif.bare = s.hif.bare := (logAt_reported _ _ _ _ _).parts.1

@[simp] theorem logAt_mem_bare (s : State) (u fn code arg : Nat) : (logAt s u fn code arg).mem.bare = s.mem.bare := (logAt_reported _ _ _ _ _).parts.2

@[simp] theorem logBound_hif_bare (s : State) (fn code arg : Nat) : (logBound s fn code arg).hif.bare = s.hif.bare := (logBound_reported _ _ _ _).parts.1

@[simp] theorem logBound_mem_bare (s : State) (fn code arg : Nat) : (logBound s fn code arg).mem.bare = s.mem.bare := (logBound_reported _ _ _ _).parts.2

@[simp] theorem logNow_hif_bare (s : State) (fn code arg : Nat) : (logNow s fn code arg).hif.bare = s.hif.bare := (logNow_reported _ _ _ _).parts.1

@[simp] theorem logNow_mem_bare (s : State) (fn code arg : Nat) : (logNow s fn code arg).mem.bare = s.mem.bare := (logNow_reported _ _ _ _).parts.2

@[simp] theorem raise_hif_bare (s : State) (fn b i j : Nat) : (raise s fn b i j).hif.bare = s.hif.bare := (raise_reported _ _ _ _ _).parts.1

@[simp] theorem raise_mem_bare (s : State) (fn b i j : Nat) : (raise s fn b i j).mem.bare = s.mem.bare := (raise_reported _ _ _ _ _).parts.2

@[simp] theorem accessErr_hif_bare (s : State) (pf : Pf) (a kind : Nat) : (accessErr s pf a kind).hif.bare = s.hif.bare := (accessErr_reported _ _ _ _).parts.1

@[simp] theorem accessErr_mem_bare (s : State) (pf : Pf) (a kind : Nat) : (accessErr s pf a kind).mem.bare = s.mem.bare := (accessErr_reported _ _ _ _).parts.2

@[simp] theorem denyAccess_hif_bare (s : State) : (denyAccess s).hif.bare = s.hif.bare := (denyAccess_reported _).parts.1

@[simp] theorem denyAccess_mem_bare (s : State) : (denyAccess s).mem.bare = s.mem.bare := (denyAccess_reported _).parts.2

/-! ### Stored bits of registers under the setters -/

@[simp] theorem regGet_sysSet (s : State) (f : Sys → Sys) (a : Nat) : regGet (sysSet s f) a = regGet s a := rfl

@[simp] theorem regGet_memSet (s : State) (f : Mem → Mem) (a : Nat) : regGet (memSet s f) a = regGet s a := rfl

@[simp] theorem regGet_secSet (s : State) (f : Sec → Sec) (a : Nat) : regGet (secSet s f) a = regGet s a := rfl

@[simp] theorem regGet_peatSet (s : State) (f : Peat → Peat) (a : Nat) : regGet (peatSet s f) a = regGet s a := rfl

@[simp] theorem regGet_imgSet (s : State) (f : FabImg → FabImg) (a : Nat) : regGet (imgSet s f) a = regGet s a := rfl

@[simp] theorem regGet_redSet (s : State) (f : Red → Red) (a : Nat) : regGet (redSet s f) a = regGet s a := rfl

@[simp] theorem regGet_recSet (s : State) (f : Rec → Rec) (a : Nat) : regGet (recSet s f) a = regGet s a := rfl

@[simp] theorem regGet_clkSet (s : State) (f : Clk → Clk) (a : Nat) : regGet (clkSet s f) a = regGet s a := rfl

@[simp] theorem regGet_stkSet (s : State) (f : Stk → Stk) (a : Nat) : regGet (stkSet s f) a = regGet s a := rfl

@[simp] theorem regGet_fioSet (s : State) (f : Fio → Fio) (a : Nat) : regGet (fioSet s f) a = regGet s a := rfl

@[simp] theorem regGet_monSet (s : State) (f : Mon → Mon) (a : Nat) : regGet (monSet s f) a = regGet s a := rfl

@[simp] theorem regGet_hifSet (s : State) (f : Hif → Hif) (a : Nat) : regGet (hifSet s f) a = regGet s a := rfl

@[simp] theorem regGet_safSet (s : State) (f : Saf → Saf) (a : Nat) : regGet (safSet s f) a = regGet s a := rfl

@[simp] theorem regGet_updChain (s : State) (i : Nat) (f : Chain → Chain) (a : Nat) : regGet (updChain s i f) a = regGet s a := rfl

@[simp] theorem regGet_updPls (s : State) (i : Nat) (f : Pls → Pls) (a : Nat) : regGet (updPls s i f) a = regGet s a := rfl

@[simp] theorem regGet_updLane (s : State) (i : Nat) (f : Lane → Lane) (a : Nat) : regGet (updLane s i f) a = regGet s a := rfl

@[simp] theorem regGet_updPort (s : State) (i : Nat) (f : Port → Port) (a : Nat) : regGet (updPort s i f) a = regGet s a := rfl

@[simp] theorem regGet_updChan (s : State) (i : Nat) (f : Chan → Chan) (a : Nat) : regGet (updChan s i f) a = regGet s a := rfl

@[simp] theorem regGet_updTb (s : State) (i : Nat) (f : Tb → Tb) (a : Nat) : regGet (updTb s i f) a = regGet s a := rfl

@[simp] theorem regGet_updDom (s : State) (i : Nat) (f : Dom → Dom) (a : Nat) : regGet (updDom s i f) a = regGet s a := rfl

@[simp] theorem regGet_cellSet (s : State) (i : Nat) (f : Cell) (a : Nat) : regGet (cellSet s i f) a = regGet s a := rfl

@[simp] theorem regGet_updRing (s : State) (i : Nat) (f : Ring → Ring) (a : Nat) : regGet (updRing s i f) a = regGet s a := rfl

@[simp] theorem regGet_updWorker (s : State) (i : Nat) (f : Worker → Worker) (a : Nat) : regGet (updWorker s i f) a = regGet s a := rfl

@[simp] theorem regGet_updReady (s : State) (i : Nat) (f : List Item → List Item) (a : Nat) : regGet (updReady s i f) a = regGet s a := rfl

/-! ### Flags -/

theorem inv_regs {s : State} (h : s.Inv) : Regs.wf s.regs = true := h.2.1

theorem raise_flagged {s : State} {fn b i j : Nat} (w : s.Inv) (h : regA fn 0x40 ≠ regA fnRKS 0x40) :
    Flagged fn b [] s (raise s fn b i j) :=
  ⟨raise_reg w.2.1 h, fun a ha => raise_other (by simp_all) (by simp_all [regA, fnRKS])⟩

theorem RegsBut.refl (l : List Nat) (s : State) : RegsBut l s s := fun _ _ => rfl

theorem RegsBut.trans {l : List Nat} {s t u : State} (h : RegsBut l s t) (g : RegsBut l t u) : RegsBut l s u :=
  fun a ha => (g a ha).trans (h a ha)

theorem RegsBut.mono {l m : List Nat} {s t : State} (h : RegsBut l s t) (i : l ⊆ m) : RegsBut m s t := fun a ha => h a fun j => ha (i j)

theorem regSet_but (s : State) (a : Nat) (v : Word) : RegsBut [a] s (regSet s a v) := fun _ h => regGet_regSet_other (by simpa using h)

theorem raise_but (s : State) (fn b i j : Nat) : RegsBut [regA fn 0x40, regA fnRKS 0x40] s (raise s fn b i j) :=
  fun _ h => raise_other (by simp_all) (by simp_all [regA, fnRKS])

theorem logNow_but (s : State) (fn code arg : Nat) : RegsBut [regA fnRKS 0x40] s (logNow s fn code arg) :=
  fun _ h => logNow_other (by simp_all [regA, fnRKS])

end Sys2Proof.Machine
end

