-- ==== Sys2Proof/WellFormed.lean ====
section
/-!
DEFINITION. Which commands can be sent: the byte strings that a frame or a record of the manual has have its length, and an access
that names a kind of address has an address of that kind. Operands whose range the manual gives as a number are bounded in
their types.
-/
namespace Sys2Proof

open Machine (regDefOf)

/-- No lane is named twice. -/
def lanesDiffer {n : Nat} : List (Fin n) → Bool
  | [] => true
  | a :: l => !l.contains a && lanesDiffer l

/-- A lane receives no more characters in a tick than Cord-3 carries in 20 µs at +200 ppm (R200, R205). -/
def Uplink.wf (u : Uplink) : Bool := decide (u.chars.length + u.late.length ≤ 12503)

/-- A partner frame's payload with its CRC is no longer than a chunk frame's (R342, R349). -/
def partnerWf (bs : List Byte) : Bool := decide (bs.length ≤ 268)

/-- A billet has six argument words (R392). -/
def Billet.wf (b : Billet) : Bool := decide (b.args.length = 6)

/-- The live block's measurements are twelve rails, four currents and four temperatures (R452). -/
def Measured.wf (m : Measured) : Bool := decide (m.rails.length = 12) && decide (m.amps.length = 4) && decide (m.temps.length = 4)

/-- A word-aligned address of a register, and whether that register is 64 bits wide and the address its upper word. -/
def regKind (a : Nat) : Option (Bool × Bool) :=
  if a % 4 ≠ 0 then none else (regDefOf a).map (fun x => (x.1.wide, x.2.2))

/-- The operands of a malformed access are malformed in the way it says. -/
def BadAccess.wf (acc : BadAccess) (a : Nat) : Bool :=
  match acc with
  | .sizeRead | .sizeWrite => true
  | .reservedRead | .reservedWrite _ => decide (a % 4 = 0) && (regDefOf a).isNone

/-- The checks of a command. -/
def Instr.wf : Instr → Bool
  | .tickBoundary us build offs _ => us.all Uplink.wf && lanesDiffer (us.map (·.lane)) && lanesDiffer build && lanesDiffer offs
  | .heartbeatRx bs _ => partnerWf bs
  | .slotReportRx bs => partnerWf bs
  | .snapChunkRx c => partnerWf c.bytes
  | .billetFetch _ bs => bs.all Billet.wf
  | .capabilityRx _ r => decide (r.2.length = 64)
  | .delayTrainingDone _ xs => decide (xs.length ≤ 64)
  | .laneWakeDone w => decide (w.cap.length = 64) && decide (w.samples.length = 8)
  | .mgtResponseRx _ _ d => decide (d.2.length ≤ 52)
  | .mgtEventRx _ _ d => decide (d.length ≤ 52)
  | .monLiveRefresh m => m.wf
  | .reg64LowerRead _ a => regKind a.toNat = some (true, false)
  | .reg64LowerWrite _ a _ => regKind a.toNat = some (true, false)
  | .reg64UpperWrite _ a _ => regKind a.toNat = some (true, true)
  | .regWrite _ a _ => regKind a.toNat = some (false, false)
  | .regBadAccess _ a acc => acc.wf a.toNat
  | _ => true

end Sys2Proof
end

