-- ==== Sys2Proof/Tests/Slice0.lean ====
section
/-!
SUPPORT. Tests: the checks of WellFormed and the terms they refuse, values that the specification's own examples give, and for each
statement of Obligations.lean a state and operands that meet the hypotheses of its clauses.
-/
namespace Sys2Proof.Tests
open Sys2Proof Sys2Proof.Machine

/-! ### States to start from -/

/-- An integer parameter of the image. -/
def prm (pid idx v : Nat) : ParamRec := ⟨pid, 1, 0, idx, 0, BitVec.ofNat 64 v⟩

/-- An image with every section and these parameters. -/
def img (ps : List ParamRec) : Image :=
  { Image.empty with sects := (List.range 15).map (fun t => ⟨t + 1, 0, 0, 0, 0, 0⟩), params := ps }

/-- A function that answers and may send. -/
def pfUp : PfCfg := ⟨false, true, true, true, 0, 0, []⟩

/-- A unit in a mode, its link up, its clocks locked, with an image of these parameters in force. -/
def up (m : Mode) (ps : List ParamRec) : State :=
  { State.reset with
    sys := { Sys.reset with mode := m }, clk := { Clk.reset with state := 2 }, hif := ⟨true, 3, 8, pfUp, pfUp⟩
    img := { FabImg.reset with live := some (img ps) } }

set_option synthInstance.maxSize 1000
set_option Elab.async false

/-! ### Checks of WellFormed, and a term that each refuses -/

/-- A lane's characters of one tick. -/
def uplink (lane : Fin 50) (n : Nat) : Uplink := ⟨lane, 0, List.replicate n 0, []⟩

/-- Nothing passed unseen, and the partner commits nothing. -/
def plain : TickNote := ⟨0, false⟩

/-- A billet with n arguments. -/
def argued (n : Nat) : Billet := ⟨0, 0, 0, 0, 0, 0, 0, List.replicate n 0⟩

/-- Measurements of n rails, m currents and k temperatures. -/
def measured (n m k : Nat) : Measured := ⟨List.replicate n 0, List.replicate m 0, 0, List.replicate k 0⟩

theorem test_wf_tick : (Instr.tickBoundary [uplink 0 1, uplink 47 1] [1, 2] [3] plain).wf = true := by decide +kernel
theorem test_wf_uplinkCount : (Instr.tickBoundary [uplink 0 12503] [] [] plain).wf = true
    ∧ (Instr.tickBoundary [uplink 0 12504] [] [] plain).wf = false
    ∧ (Instr.tickBoundary [{ uplink 49 12503 with late := [0] }] [] [] plain).wf = false := by decide +kernel
theorem test_wf_uplinkTwice : (Instr.tickBoundary [uplink 5 1, uplink 5 1] [] [] plain).wf = false := by decide +kernel
theorem test_wf_buildTwice : (Instr.tickBoundary [] [7, 8, 7] [] plain).wf = false := by decide +kernel
theorem test_wf_offTwice : (Instr.tickBoundary [] [] [7, 7] plain).wf = false := by decide +kernel
theorem test_wf_partner : (Instr.heartbeatRx (List.replicate 268 0) 0).wf = true
    ∧ (Instr.heartbeatRx (List.replicate 269 0) 0).wf = false ∧ (Instr.slotReportRx (List.replicate 269 0)).wf = false
    ∧ (Instr.snapChunkRx ⟨0, 0, List.replicate 268 0⟩).wf = true ∧ (Instr.snapChunkRx ⟨0, 0, List.replicate 269 0⟩).wf = false := by
  decide +kernel
theorem test_wf_billet :
    (Instr.billetFetch 0 [argued 6]).wf = true ∧ (Instr.billetFetch 0 [argued 6, argued 5]).wf = false := by decide +kernel
theorem test_wf_capability : (Instr.capabilityRx 0 (⟨0, 0⟩, List.replicate 64 0)).wf = true
    ∧ (Instr.capabilityRx 0 (⟨0, 0⟩, List.replicate 63 0)).wf = false := by decide +kernel
theorem test_wf_delay : (Instr.delayTrainingDone 0 (List.replicate 64 (0, 0))).wf = true
    ∧ (Instr.delayTrainingDone 0 (List.replicate 65 (0, 0))).wf = false
    ∧ (Instr.laneWakeDone ⟨0, List.replicate 64 0, List.replicate 8 (0, 0)⟩).wf = true
    ∧ (Instr.laneWakeDone ⟨0, List.replicate 64 0, List.replicate 7 (0, 0)⟩).wf = false
    ∧ (Instr.laneWakeDone ⟨0, List.replicate 63 0, List.replicate 8 (0, 0)⟩).wf = false := by decide +kernel
theorem test_wf_mgt : (Instr.mgtResponseRx 0 0 (⟨0, 0⟩, List.replicate 52 0)).wf = true
    ∧ (Instr.mgtResponseRx 0 0 (⟨0, 0⟩, List.replicate 53 0)).wf = false ∧ (Instr.mgtEventRx 0 ⟨0, 0⟩ (List.replicate 53 0)).wf = false := by
  decide +kernel
theorem test_wf_measured : (Instr.monLiveRefresh (measured 12 4 4)).wf = true ∧ (Instr.monLiveRefresh (measured 11 4 4)).wf = false
    ∧ (Instr.monLiveRefresh (measured 12 5 4)).wf = false ∧ (Instr.monLiveRefresh (measured 12 4 3)).wf = false := by decide +kernel
theorem test_wf_lowerWord : (Instr.reg64LowerRead .pf0 0x20028).wf = true ∧ (Instr.reg64LowerRead .pf0 0x2002C).wf = false
    ∧ (Instr.reg64LowerWrite .pf0 0x24 0).wf = false := by decide +kernel
theorem test_wf_upperWord :
    (Instr.reg64UpperWrite .pf0 0x2002C 0).wf = true ∧ (Instr.reg64UpperWrite .pf0 0x20028 0).wf = false := by decide +kernel
theorem test_wf_word : (Instr.regWrite .pf0 0x24 0).wf = true ∧ (Instr.regWrite .pf0 0x26 0).wf = false
    ∧ (Instr.regWrite .pf0 0x16FFFC 0).wf = false := by decide +kernel
theorem test_wf_badAccess : (Instr.regBadAccess .pf0 0x16FFFC .reservedRead).wf = true
    ∧ (Instr.regBadAccess .pf0 0x24 .reservedRead).wf = false ∧ (Instr.regBadAccess .pf0 0x16FFFE (.reservedWrite 0)).wf = false := by
  decide +kernel

/-! ### Values that the manual's examples give -/

/-- R69: the CRC over the nine bytes "123456789". -/
theorem test_crc32c : crc32c (ascii "123456789") = 0xE3069283 := by decide +kernel
/-- The example of R17: CRD_ID. -/
theorem test_identification : regView State.reset 0xD0000 = 0x0D445243 := by decide +kernel
/-- R3 and R13: the first register of function 13. -/
theorem test_window : regA fnCRD 0x40 = 0xD0040 := by decide +kernel

/-- The code groups of Clause 36 that R202 names: K28.5, D0.0 and D21.5, bit a first. -/
theorem test_lineCode : encodeSym false .comma = 0b0101111100 ∧ encodeSym true .comma = 0b1010000011
    ∧ encodeSym false (.data 0) = 0b0010111001 ∧ encodeSym true (.data 0) = 0b1101000110
    ∧ encodeSym false (.data 0xB5) = 0b0101010101 := by decide +kernel
/-- R202: what is sent is received, from either disparity. -/
theorem test_lineDecode : ∀ (rd : Bool) (b : Fin 256),
    decodeGroup rd (encodeSym rd (.data (BitVec.ofFin b))) = some (.data (BitVec.ofFin b)) := by
  decide +kernel

/-- Channel HB_5 of the example of chapter 8, in RUN. -/
def hb5 (rise fall : Nat) (start last : Int) (c : Chan) : State :=
  let s := up .md9 [prm 0x0A01 0xFFFF 0xFFFFFF, prm 0x0A03 5 12800, prm 0x0A06 1 10240, prm 0x0A07 1 20480, prm 0x0A09 1 2000]
  { s with ggd := { Ggd.reset with
    chans := setNth Ggd.reset.chans 5 { c with state := 2, start := start, tLast := last, aRise := rise, aFall := fall } } }

/-- What a test reads of HB_5 after a command: its state, its scheduled edges, its deferred trip, and the counts of pulses. -/
def hb5After (x : Instr) (s : State) : Option (Nat × List (Int × Bool) × Option Int × Word) :=
  match exec x s with
  | .next t => some ((chanOf t 5).state, (chanOf t 5).edges, (chanOf t 5).deferred, regGet t 0xF0150)
  | _ => none

/-- The period from 0 to 10 µs: both edges are released, at 3.0 and 7.0 µs. -/
theorem test_hb5_pulse : hb5After (.periodBoundary 5) (hb5 61440 143360 (-204800) (-61440) Chan.reset)
    = some (2, [(61440, true), (143360, false)], none, 0) := by decide +kernel
/-- The period from 10 to 20 µs: both edges are dropped, and PULSE_SUP counts 1. -/
theorem test_hb5_suppressed : hb5After (.periodBoundary 5) (hb5 98304 106496 0 143360 Chan.reset) = some (2, [], none, 1) := by
  decide +kernel
/-- The period from 20 to 30 µs: the falling edge is dropped, and the rising edge stands at 29.7 µs. -/
theorem test_hb5_dropped : hb5After (.periodBoundary 5) (hb5 198656 4096 204800 143360 Chan.reset)
    = some (2, [(608256, true)], none, 0) := by decide +kernel
/-- The period from 30 to 40 µs: the falling edge moves from 30.2 to 30.7 µs, and PULSE_EXT counts 1. -/
theorem test_hb5_moved : hb5After (.periodBoundary 5) (hb5 198656 4096 409600 608256 { Chan.reset with pul := true })
    = some (2, [(628736, false), (813056, true)], none, 0x10000) := by decide +kernel
/-- The trip at 31.45 µs lies in the windows to 32.2 and 33.2 µs, and is deferred to the end of the first. -/
theorem test_hb5_deferred : hb5After (.tripFiltered 5 644096) (hb5 0 0 614400 813056
    { Chan.reset with blanks := [(618496, 659456), (638976, 679936)] })
    = some (2, [], some 659456, 0) := by decide +kernel
/-- At 32.2 µs it is accepted: the channel is TRIPPED. -/
theorem test_hb5_tripped : (hb5After (.blankEnd 5) (hb5 0 0 614400 813056
    { Chan.reset with trp := true, deferred := some 659456, blanks := [(618496, 659456), (638976, 679936)] })).map (·.1) = some 3 := by decide +kernel

/-- The arm of the example of R175: ten submodules, of which 9 is FAILED. -/
def exampleArm : Rdl := { Rdl.reset with
  failed := [(9, 1)]
  sms := (List.range 10).map (fun i => (i, { Sm.fresh with
    code := 16 * nth 0 [1012, 996, 999, 1003, 1018, 985, 1021, 979, 1009, 500] i, choice := if i ∈ [1, 3, 4, 6] then 2 else 1
    dwell := if i = 6 then 2 else if i = 7 then 3 else 65535 })) }

/-- The parameters of that example; a code is a tenth of a volt. -/
def exampleEnv : RdlEnv := { rdlEnv (up .md9 [prm 0x0103 0xFFFF 12800, prm 0x0105 0xFFFF 8, prm 0x0801 0 1, prm 0x0802 0 10]) with
  q := 40, arms := [⟨none, 1677722, true, SigW.none, SigW.none⟩] }

/-- The demand of 0.62 pu calls for five submodules. -/
theorem test_demandCount : demandCount exampleEnv exampleArm 0 ⟨1331439862, 0, true⟩ = 5 := by decide +kernel
/-- They are 1, 3, 4, 5 and 6, with 6 and 7 locked. -/
theorem test_selectSet : selectSet exampleEnv exampleArm 0 5 true = ([6, 1, 3, 5, 4], [6, 7]) := by decide +kernel

/-- An entry at a time in ns with a tolerance in µs, for the example of R60. -/
def entry (t tol : Nat) : SaEntry := { SaEntry.empty with ns := BitVec.ofNat 32 t, ctl := BitVec.ofNat 32 (tol * 4096) }

/-- Entries 3, 4, 7 at 70 µs, and 5 and 6 at 80 µs: EXPIRED, LATE, DONE, DONE and DONE, with their DELAY. -/
theorem test_saTiming : saTiming (entry 4000 50) 60000 70000 = 4 ∧ saDelay (entry 4000 50) 70000 = 66000
    ∧ saTiming (entry 20000 100) 60000 70000 = 3 ∧ saDelay (entry 20000 100) 70000 = 50000
    ∧ saTiming (entry 61000 0) 60000 70000 = 2 ∧ saDelay (entry 61000 0) 70000 = 9000
    ∧ saTiming (entry 75500 0) 70000 80000 = 2 ∧ saDelay (entry 75500 0) 80000 = 4500
    ∧ saTiming (entry 80000 0) 70000 80000 = 2 ∧ saDelay (entry 80000 0) 80000 = 0 := by decide +kernel

/-- The table gives no row bits, so no word spells a command (log entry 3). -/
theorem test_noWord : decodeTableWord 32 0 = none ∧ (State.reset.withFetchWord 32 0) = State.reset := by decide +kernel

/-- A command in front is run with the queue's rest. -/
theorem test_front : step { State.reset with pending := [.rstSafePress, .nop] } = exec .rstSafePress { State.reset with pending := [.nop] } :=
  rfl
/-- An empty queue idles (log entry 2). -/
theorem test_idle : step State.reset = .next State.reset := rfl
/-- The state after reset is well kept. -/
theorem test_resetInv : State.reset.Inv := by unfold State.Inv; decide +kernel
/-- The second function's Device ID and Revision ID (R382). -/
theorem test_configIdent : (configIdent .pf1).device = 0x0941 ∧ (configIdent .pf1).revision = 0x21 := by decide


/-! ### The statements' hypotheses: every command, registers and events -/

theorem test_met_stepKeepsInv : (up .md2 []).Inv ∧ ∃ t, step { up .md2 [] with pending := [.sysTbMismatch] } = .next t :=
  ⟨by unfold State.Inv; decide +kernel, _, rfl⟩

theorem test_met_everyCommandCompletes :
    entersMd0 .sysTbMismatch = false ∧ movesMode .sysTbMismatch = false ∧ (∀ ms, Instr.sysTbMismatch ≠ .rstSafeRelease ms)
    ∧ (∀ us b o k, Instr.sysTbMismatch ≠ .tickBoundary us b o k) ∧ { Saf.reset with lock := true }.lock = true
    ∧ entersMd0 (.regWrite .pf0 0x34 0) = false ∧ entersMd0 (.regWrite .pf0 0x30 0) = true := by
  refine ⟨rfl, rfl, ?_, ?_, rfl, rfl, rfl⟩ <;> intros <;> exact fun h => Instr.noConfusion h

/-- Vector 22 masked and then not, with the function's flag enabled; the log's place allowed, its last one among them. -/
def evtState (mask : DWord) (next : Nat) : State :=
  let s := up .md2 []
  { s with hif := ⟨true, 3, 8, { pfUp with mask := mask }, pfUp⟩, log := ⟨next, []⟩, regs := [(0xD0044, 0x80000000), (0x160044, 1)] }

theorem test_met_eventFlags :
    (evtState 0x2000 0xFFFFFFFF).Inv ∧ (evtState 0 0).Inv
    ∧ rgnAllows (evtState 0 0xFFFFFFFF) 5 (logBase + 32 * (0xFFFFFFFF % 32768)) 32 true = true
    ∧ regGet (evtState 0 0) (regA fnCRD 0x40) &&& regGet (evtState 0 0) (regA fnCRD 0x44) = 0
    ∧ (regGet (evtState 0 0) (regA fnCRD 0x44)).getLsbD 31 = true ∧ (regGet (evtState 0 0) (regA fnCRD 0x44)).getLsbD 0 = false
    ∧ (pfOf (evtState 0x2000 0) .pf0).mask.getLsbD fnCRD = true ∧ (pfOf (evtState 0 0) .pf0).mask.getLsbD fnCRD = false
    ∧ (pfOf (evtState 0 0) .pf1).msixEn = true ∧ (pfOf (evtState 0 0) .pf1).busM = true ∧ (pfOf (evtState 0 0) .pf1).d3hot = false := by
  unfold State.Inv; decide +kernel

theorem test_met_accessRules :
    (up .md2 []).Inv ∧ pfAnswers (up .md2 []) .pf1 = true ∧ windowOpen (up .md2 []) 0x16 = true ∧ windowOpen (up .md2 []) 0x12 = true
    ∧ (0x7FFFFF : BitVec 23).toNat % 4 ≠ 0 ∧ (regDefOf 0x61000).any (fun x => x.1.pf0) = true ∧ (0x61000 : Nat) % 4 = 0 := by
  unfold State.Inv; decide +kernel

/-- MD_10 with a check value in force and one to confirm. -/
def cvState (m : Mode) (v : Word) : State :=
  { up m [] with img := { FabImg.reset with live := some { img [] with cv := 0xFFFFFFFF } }, regs := [(0x14002C, v)] }

theorem test_met_checkValueConfirmation :
    (cvState .md10 0xFFFFFFFF).Inv ∧ (cvState .md10 1).Inv ∧ pfAnswers (cvState .md2 1) .pf0 = true
    ∧ (cvState .md10 0xFFFFFFFF).img.live.any (fun i => decide (i.cv = (regGet (cvState .md10 0xFFFFFFFF) 0x14002C).toNat)) = true
    ∧ (cvState .md10 1).img.live.any (fun i => decide (i.cv = (regGet (cvState .md10 1) 0x14002C).toNat)) = false := by
  unfold State.Inv; decide +kernel


/-! ### The statements' hypotheses: gate guard -/

/-- Every channel enabled by the image, the first four privileged where `pv`, as a host's; retries `rn`, BS_CUT where `bs` is 0. -/
def gParams (pv rn bs xp : Nat) : List ParamRec :=
  prm 0x010F 0xFFFF 0 :: prm 0x0A01 0xFFFF 0xFFFFFF :: (List.range 4).map (fun n => prm 0x0A05 n pv)
    ++ (List.range 6).flatMap (fun g => [prm 0x0A0D g rn, prm 0x0A0F g bs, prm 0x0A13 g xp])

/-- One channel of the port in MD_7. -/
def gate (pv rn bs xp n : Nat) (c : Chan) : State := updChan (up .md7 (gParams pv rn bs xp)) n (fun _ => c)

theorem test_met_periodBoundaryReloads :
    let g (pv n : Nat) (c : Chan) := gate pv 0 1 0 n c
    let c : Chan := { Chan.reset with wAt := nextPeriod (gate 0 0 1 0 0 Chan.reset) 23, pArmed := true }
    (g 1 0 Chan.reset).Inv ∧ (g 1 0 Chan.reset).sys.mode ≠ .md0 ∧ (g 1 0 Chan.reset).sys.mode ≠ .md1 ∧ chEn (g 1 0 Chan.reset) 23 = true
    ∧ chPriv (g 1 0 Chan.reset) 3 = true ∧ (chanOf (g 1 0 Chan.reset) 0).wAt ≠ nextPeriod (g 1 0 Chan.reset) 0
    ∧ chPriv (g 0 0 Chan.reset) 3 = false ∧ (chanOf (g 0 23 { Chan.reset with armed := true }) 23).armed = true
    ∧ (chanOf (g 0 23 c) 23).wAt = nextPeriod (g 0 23 c) 23 ∧ (chanOf (g 0 23 c) 23).pArmed = true
    ∧ chanEnabled { g 0 0 Chan.reset with regs := [(chCtlA 23, 0x11)] } 23 = true ∧ pfAnswers (g 0 0 Chan.reset) .pf1 = true
    ∧ windowOpen (g 0 0 Chan.reset) fnPWM = true ∧ bit (1 : Word) 0 = true ∧ bit (0xFFFFFFFE : Word) 0 = false
    ∧ chHost { g 1 0 Chan.reset with regs := [(chCtlA 23, 0x10)] } 23 = true := by
  unfold State.Inv; decide +kernel

theorem test_met_minimumPulse :
    (0 : Int) ≤ 0 ∧ (placeEdges 100 { Chan.reset with tLast := 50 } [(0, true), (160, false)]).1.edges = [(150, true), (250, false)] := by
  decide +kernel

theorem test_met_edgesAtThePins :
    let run : Chan := { Chan.reset with state := 2, ena := true, edges := [(100, true), (300, false)] }
    let g (bs xp : Nat) (c : Chan) := gate 0 0 bs xp 23 c
    let r : Chan := { Chan.reset with state := 1, aRise := 0, aFall := 0xFFFFFF }
    let h : Chan := { run with pul := true }
    let twin (p : Chan) := updChan (g 1 3 run) 22 (fun _ => p)
    (g 1 0 run).Inv ∧ (twin h).Inv ∧ (chanOf (g 1 0 run) 23).edges = (100, true) :: [(300, false)]
    ∧ (chanOf (g 1 0 { run with state := 5 }) 23).state ≠ 2 ∧ (chanOf (g 1 0 run) 23).state = 2 ∧ xPartner (g 1 0 run) 23 = none
    ∧ xPartner (twin h) 23 = some 22 ∧ chanHigh (chanOf (twin h) 22) = true ∧ chanHigh (chanOf (twin run) 22) = false
    ∧ (chanOf (g 1 0 run) 0).edges = [] ∧ (chanOf (g 1 0 run) 23).state ≠ 1 ∧ (chanOf (g 1 0 r) 23).state = 1
    ∧ levelAt r (r.refAt + gpFine (g 1 0 r) 0x0A11 23) = true
    ∧ levelAt { r with aFall := 0, lvl0 := false } (r.refAt + gpFine (g 1 0 r) 0x0A11 23) = false ∧ chanHigh (chanOf (g 0 0 h) 23) = true
    ∧ gp (g 0 0 h) 0x0A0F 23 = 0 ∧ (chanOf (g 0 0 { h with state := 0 }) 23).state ≠ 2 := by
  unfold State.Inv; decide +kernel

/-- Channels 22 and 23 as an exclusive pair, both HIGH, with ENA of 23 risen last and its window from then on. -/
def overlapped (t : Int) : State :=
  let h : Chan := { Chan.reset with state := 2, ena := true, pul := true }
  let s := updChan (gate 0 1 1 3 22 h) 23 (fun _ => { h with chgAt := t })
  updChan s 23 (fun c => { c with blanks := [(upAt s 23, upAt s 23 + 5000)] })

/-- R240: the overlap begins as the second ENA would rise; both are held, one OVERLAP is counted, and that window never opened. -/
theorem test_overlap :
    overlapAt (overlapped 100) 23 = some (upAt (overlapped 100) 23)
    ∧ (chanOf (pairMeet (overlapped 100) 23 (upAt (overlapped 100) 23)) 23).hold = false
    ∧ (chanOf (pairMeet (overlapped 100) 23 (upAt (overlapped 100) 23 + 1)) 22).hold = true
    ∧ (chanOf (pairMeet (overlapped 100) 23 (upAt (overlapped 100) 23 + 1)) 23).blanks = []
    ∧ regGet (pairMeet (overlapped 100) 23 (upAt (overlapped 100) 23 + 1)) 0xF0264 = 1 := by decide +kernel

theorem test_met_tripsAndRetries :
    let g (rn : Nat) (c : Chan) := gate 0 rn 1 0 23 c
    let run : Chan := { Chan.reset with state := 2, ena := true }
    let d : Chan := { run with blanks := [(-1000000, 5000)], deferred := some 5000, trp := true }
    let t : Chan := { Chan.reset with state := 3, retry := true, window := true }
    let now := boundFine (g 3 run)
    let w : Chan := { run with blanks := [(now, now + 5000)] }
    let trips (c : Chan) (o : Nat) := chanOf (pairMeet (g 3 c) 23 (now + o + 1)) 23
    let near := updChan (g 1 run) 20 (fun c => { c with lastTrip := some (boundFine (g 1 run) + 50000 - 40960) })
    let o := overlapped 100
    (g 3 run).Inv ∧ (g 3 run).sys.mode ≠ .md0 ∧ (up .md0 []).sys.mode = .md0
    ∧ windowAt (now + 4999) (trips w 4999).blanks = some (now + 5000) ∧ windowAt (now + 5000) (trips w 5000).blanks = none
    ∧ windowAt (now + 0) (trips { w with blanks := [(now + 1, now + 5000)] } 0).blanks = none ∧ (chanOf (g 3 Chan.reset) 23).state ≠ 1
    ∧ (chanOf (g 3 Chan.reset) 23).state ≠ 2 ∧ (List.range 24).all (fun m => (chanOf (g 3 run) m).lastTrip.isNone) = true
    ∧ (0 : Nat) < gp (g 1 run) 0x0A0D 23 ∧ gp (g 0 run) 0x0A0D 23 ≤ 0 ∧ near.Inv ∧ (20 : Nat) / 4 = 23 / 4
    ∧ (chanOf near 20).lastTrip = some (boundFine near + 50000 - 40960) ∧ (chanOf o 23).blanks = (upAt o 23, upAt o 23 + 5000) :: []
    ∧ (chanOf (pairMeet o 23 (upAt o 23 + 1)) 23).blanks ≠ (chanOf o 23).blanks ∧ (chanOf (g 1 d) 23).blanks = (-1000000, 5000) :: []
    ∧ (chanOf (pairMeet (g 1 d) 23 (-1000000 + 1)) 23).blanks = (chanOf (g 1 d) 23).blanks
    ∧ (chanOf (pairMeet (g 1 d) 23 (-1000000 + 1)) 23).deferred = some 5000 ∧ (chanOf (g 1 d) 23).trp = true
    ∧ (chanOf (g 1 { d with deferred := none }) 23).deferred ≠ some 5000 ∧ (chanOf (g 1 run) 23).blanks = [] ∧ (chanOf (g 1 t) 23).state = 3
    ∧ (chanOf (g 1 t) 23).retry = true ∧ (chanOf (g 1 t) 23).trp = false ∧ (chanOf (g 1 { t with trp := true }) 23).trp = true
    ∧ (chanOf (g 1 { t with retry := false }) 23).retry = false ∧ (chanOf (g 1 { t with waitTrp := true }) 23).waitTrp = true
    ∧ (chanOf (g 1 t) 23).window = true ∧ (chanOf (g 1 { t with window := false }) 23).window = false
    ∧ (chanOf (g 1 { t with state := 4 }) 23).state ≠ 3 := by
  unfold State.Inv; decide +kernel

theorem test_met_portFaults :
    let s := gate 0 1 1 0 23 { Chan.reset with state := 2 }
    let d := { up .md7 (prm 0x010F 0xFFFF 1 :: gParams 0 1 1 0) with
      ggd := { Ggd.reset with chans := List.replicate 24 { Chan.reset with state := 2, ena := true } } }
    s.Inv ∧ s.sys.mode ≠ .md0 ∧ (up .md0 []).sys.mode = .md0 ∧ (up .md0 []).Inv ∧ ddToken s = false ∧ (chanOf s 23).state < 4
    ∧ 4 ≤ (chanOf (gate 0 1 1 0 0 { Chan.reset with state := 6 }) 0).state ∧ d.Inv ∧ ddToken d = true ∧ switching d = true
    ∧ d.sys.mode.blockable = true ∧ chHost s 0 = false ∧ chEn s 0 = true ∧ (chanOf s 0).lost = false := by
  unfold State.Inv; decide +kernel

theorem test_met_lockoutsCleared :
    let s (n st : Nat) := gate 0 1 1 0 n { Chan.reset with state := st }
    (s 23 4).Inv ∧ pfAnswers (s 23 4) .pf0 = true ∧ windowOpen (s 23 4) fnGGD = true ∧ (chanOf (s 23 4) 23).state = 4
    ∧ (chanOf (s 23 4) 23).trp = false ∧ (23 : Nat) / 4 = 5 ∧ (chanOf (s 23 5) 23).state = 5
    ∧ (List.range 24).all (fun n => !(chanOf (s 23 5) n).trp) = true ∧ (chanOf (s 0 6) 0).state = 6 ∧ (s 0 6).ggd.ht = false
    ∧ (0x4742 : BitVec 16) ≠ 0x4743 := by
  unfold State.Inv; decide +kernel


/-! ### The statements' hypotheses: lanes, ports and the management channel -/

/-- One lane, and the port of it, of a unit in MD_7. -/
def link (n : Nat) (l : Lane) (p : Port) : State := updLane (updPort (up .md7 []) (n / 8) (fun _ => p)) n (fun _ => l)

/-- The capability record of a valve-base unit (kind 1) or a partner (kind 0), of the given UNIT_SEL. -/
def record (kind sel : Nat) : List Byte :=
  let r : List Byte := ([1, 0, kind, 3, 0, 0, 0, 1 + 4 * sel, 1, 0, 0, 0, 5, 0, 5, 0, 1, 0, 8, 0].map (BitVec.ofNat 8)) ++ List.replicate 40 0
  r ++ leBytes 4 (crc32c r)

theorem test_met_laneTraining :
    let l (n st : Nat) := link n { Lane.off with state := st } Port.off
    let q (st : Nat) := link 47 { Lane.off with state := st } { Port.off with state := 1 }
    let xs (t : Nat) : List (Nat × Nat) := List.replicate 63 (t, 0) ++ [(t + 4000, 0)]
    (laneOf (l 49 1) 49).state = 1 ∧ (laneOf (l 47 2) 47).state = 2 ∧ (laneOf (l 47 2) 47).rxSeq ≠ (5 : Byte).toNat
    ∧ (laneOf (l 47 2) 47).peer = none ∧ (l 49 1).Inv ∧ (l 47 2).Inv ∧ (laneOf (l 47 2) 47).calm = true ∧ (laneOf (l 48 2) 48).calm = true
    ∧ (laneOf (l 48 2) 48).peer = none ∧ (laneOf (l 48 2) 48).rxSeq ≠ (5 : Byte).toNat ∧ capabOk (l 47 2) 47 (record 1 0) = true
    ∧ (portOf (l 47 2) 5).cap = [] ∧ (portOf (link 47 { Lane.off with state := 2 } { Port.off with cap := record 1 0 }) 5).cap ≠ []
    ∧ leAt (portOf (link 47 { Lane.off with state := 2 } { Port.off with cap := record 1 0 }) 5).cap 0x3C 4 = leAt (record 1 0) 0x3C 4
    ∧ leAt (portOf (link 47 { Lane.off with state := 2 } { Port.off with cap := List.replicate 64 0 }) 5).cap 0x3C 4 ≠ leAt (record 1 0) 0x3C 4
    ∧ capabOk (l 47 2) 47 [] = false ∧ partnerOk (record 0 1) = true ∧ (leAt (record 0 1) 7 1).testBit 2 ≠ (l 48 2).red.unitSel
    ∧ partnerOk (record 1 0) = false ∧ (leAt (record 0 0) 7 1).testBit 2 = (l 48 2).red.unitSel
    ∧ pNat (imgOf (l 49 3)) 0x0907 ≤ (0xFF : Byte).toNat
    ∧ ¬ (pNat (imgOf (l 49 3)) 0x0907 ≤ (0 : Byte).toNat ∧ pNat (imgOf (l 49 3)) 0x0907 ≤ (0xFF : Byte).toNat)
    ∧ 1 < (laneOf (link 0 { Lane.off with state := 3, gen := 2 } Port.off) 0).gen
    ∧ (laneOf (link 0 { Lane.off with state := 3, gen := 1 } Port.off) 0).gen ≤ 1 ∧ (laneOf (l 47 4) 47).state = 4 ∧ (xs 0).length = 64
    ∧ ((xs 0).drop 1).length < 64 ∧ ∀ x ∈ xs 0, ∀ y ∈ xs 0, sample2 x - sample2 y ≤ 4000
    ∧ 5000000 < grid100 (sumInt ((xs 10000100).map sample2)) 128 ∧ grid100 (sumInt ((xs 100000).map sample2)) 128 ≤ 5000000
    ∧ (portOf (l 47 4) 5).state ≠ 1 ∧ (portOf (q 4) 5).state = 1 ∧ portPrbs (q 4) 5 = false ∧ (laneOf (l 0 6) 0).state = 6
    ∧ (laneOf (l 0 6) 0).rxSeq ≠ (5 : Byte).toNat ∧ (laneOf (l 0 6) 0).calm = true ∧ (0 : Byte).toNat = (portOf (l 0 6) 0).mapId := by
  unfold State.Inv; decide +kernel

theorem test_met_lanesFailAndRetry :
    let l (n st : Nat) := link n { Lane.off with state := st } Port.off
    let q (st st2 : Nat) := updLane (link 40 { Lane.off with state := st } { Port.off with state := 2 }) 41 (fun _ => { Lane.off with state := st2 })
    let w := link 47 { Lane.off with state := 10 } { Port.off with state := 6, cap := record 1 0 }
    let ys (t : Nat) : List (Nat × Nat) := List.replicate 8 (t, 0)
    (laneOf (l 0 1) 0).state = 1 ∧ (laneOf (l 49 4) 49).state = 4 ∧ (laneOf (l 47 6) 47).state = 6 ∧ (laneOf (l 49 8) 49).state = 8
    ∧ (laneOf (l 49 7) 49).state = 7 ∧ (laneOf (l 49 6) 49).state ≠ 7 ∧ (l 49 6).Inv ∧ w.Inv ∧ (l 0 1).Inv ∧ (q 5 7).Inv ∧ (q 5 11).Inv
    ∧ (laneOf w 47).state = 10 ∧ leAt (record 1 0) 0x3C 4 = leAt (portOf w 5).cap 0x3C 4
    ∧ crc32c ((record 1 0).take 60) = leAt (record 1 0) 0x3C 4
    ∧ (sumInt ((ys (2 * pNat (imgOf w) 0x090B)).map sample2) - 16 * (laneOf w 47).dlTrain).natAbs ≤ 16 * pNat (imgOf w) 0x090B
    ∧ 16 * pNat (imgOf w) 0x090B < (sumInt ((ys (2 * pNat (imgOf w) 0x090B + 1)).map sample2) - 16 * (laneOf w 47).dlTrain).natAbs
    ∧ (ys 0).length = 8 ∧ (portOf (q 5 7) 5).state = 2 ∧ readyLane (q 5 7) 5 = true ∧ portPrbs (q 5 7) 5 = false ∧ readyLane (q 7 7) 5 = false
    ∧ portPrbs (q 5 11) 5 = true := by
  unfold State.Inv; decide +kernel

theorem test_met_portRulesFrame :
    let s := link 47 { Lane.off with state := 7 } { Port.off with state := 1 }
    (portOf s 5).state ≤ 1 ∧ (6 : Nat) ≤ 6 ∧ (portOf s 5).carry = false ∧ 6 < (portOf (link 0 Lane.off { Port.off with state := 7 }) 0).state := by
  decide +kernel

theorem test_met_delayAndEye :
    let s := link 49 { Lane.off with state := 7, exchOut := true, exch := 255, eyeLow := false } Port.off
    (laneOf s 49).state = 7 ∧ (laneOf s 49).exchOut = true ∧ (laneOf s 49).exch = (255 : Byte).toNat
    ∧ 10000000 < ((10000001 : Nat) : Int) - 10 * (0 : Nat) ∧ ((10000010 : Nat) : Int) - 10 * (1 : Nat) ≤ 10000000 ∧ s.Inv
    ∧ decide ((0 : Byte).toNat < pNat (imgOf s) 0x0908) = true ∧ (laneOf s 49).eyeLow = false
    ∧ decide ((255 : Byte).toNat < pNat (imgOf s) 0x0908) = false ∧ ((47 : Fin 48).val) = (47 : Fin 50).val ∧ (laneOf s 49).eyeLowV = false
    ∧ (laneOf s 49).rxSeq ≠ (5 : Byte).toNat ∧ (laneOf s 47).calm = true := by
  unfold State.Inv; decide +kernel

theorem test_met_linkCommands :
    let l (st : Nat) (c : Bool) := link 47 { Lane.off with state := st } { Port.off with state := 4, carry := c }
    (l 7 true).Inv ∧ pfAnswers (l 7 true) .pf0 = true ∧ windowOpen (l 7 true) fnCRD = true ∧ (l 7 true).sys.mode ≠ .md11
    ∧ (laneOf (l 7 true) 47).state ≠ 11 ∧ bit (0xFFFFFFFE : Word) 0 = false ∧ (laneOf (l 7 true) 47).state ≠ 0 ∧ bit (1 : Word) 0 = true
    ∧ (portOf (l 7 true) 5).carry = true ∧ (portOf (l 7 false) 5).carry = false
    ∧ 1 ≤ (laneOf (l 8 false) 47).state ∧ (laneOf (l 8 false) 47).state ≤ 8
    ∧ 1 ≤ (portOf (l 8 false) 5).state ∧ (portOf (l 8 false) 5).state ≠ 6 ∧ (portOf (l 8 false) 5).state = 4 := by
  unfold State.Inv; decide +kernel

theorem test_met_linkCommandsPulse :
    let ps := (List.range 6).flatMap (fun a => [prm 0x0801 a 1, prm 0x0802 a 512, prm 0x0803 a 1])
    let v : State := updPort { up .md11 ps with
      red := { Red.reset false with lease := true }, regs := [(0xD0094, 1000)]
      fab := { Fab.reset with sink := [(sigKey 6 2 0, ⟨1, 0, true⟩)] } } 5 (fun p => { p with state := 4 })
    v.Inv ∧ v.sys.mode = .md11 ∧ v.red.lease = true ∧ (portOf v 5).state = 4 ∧ tabGet SigW.none v.fab.sink (sigKey 6 2 0) = ⟨1, 0, true⟩
    ∧ (511 : Fin 512).val < armSms (imgOf v) 5 ∧ smReason v.rdl 5 511 = 0 ∧ armFb (imgOf v) 5 = true ∧ v.rdl.run = none ∧ v.crd.svc = none
    ∧ (regGet v 0xD0094).toNat % 1024 = 1000 ∧ { v.crd with svc := some (5, 511, 3, 1) }.svc = some (5, 511, 3, 1) := by
  unfold State.Inv; decide +kernel

theorem test_met_managementChannel :
    let l (t r : Nat) : Lane := { Lane.off with state := 7, rxSeq := 3, mgt := [⟨t, 255, 63, [], r, false⟩] }
    let s := link 40 { Lane.off with state := 7 } { Port.off with state := 5 }
    let r := link 40 (l 4 0) { Port.off with state := 4, req := some 63 }
    s.Inv ∧ r.Inv ∧ pfAnswers s .pf0 = true ∧ windowOpen s fnCRD = true ∧ (portOf s 5).state = 5 ∧ (portOf r 5).state = 4
    ∧ (portOf s 5).req = none ∧ mgtLane s 5 = some 40 ∧ mgtLane r 5 = some 40 ∧ (List.replicate 52 (0 : Byte)).length ≤ 52
    ∧ (laneOf r 40).rxSeq ≠ (4 : Byte).toNat ∧ (laneOf r 40).mgt.head?.map (·.seq) ≠ some (0 : Byte).toNat
    ∧ (portOf r 5).req = some (63 : BitVec 16).toNat ∧ mgtLit (laneOf r 40) = true ∧ (laneOf r 40).peer = none
    ∧ (List.replicate 12 (0 : Byte)).length = 12 ∧ (List.replicate 52 (0 : Byte)).length ≠ 12 ∧ (laneOf r 40).rxSeq = (3 : Byte).toNat
    ∧ r.sys.mode ≠ .md0 ∧ rgnAllows r 5 (logBase + 32 * (r.log.next % 32768)) 32 true = true
    ∧ (laneOf r 40).mgt = ⟨4, 255, 63, [], 0, false⟩ :: [] ∧ (laneOf r 40).state ≠ 2 ∧ (laneOf r 40).calm = true
    ∧ (List.range 48).all (fun n => (laneOf r n).mgt.all (fun q => q.type = 4 || !q.again)) = true
    ∧ (255 : Byte).toNat = 255 ∧ (0 : Byte).toNat ≠ 255 ∧ 0 < pNat (imgOf r) 0x090C ∧ pNat (imgOf r) 0x090C ≤ 99
    ∧ (link 40 (l 2 99) Port.off).Inv ∧ (link 40 (l 4 99) Port.off).Inv
    ∧ r.crd.mgtFresh = false ∧ { r.crd with mgtFresh := true }.mgtFresh = true := by
  unfold State.Inv; decide +kernel


/-! ### The statements' hypotheses: converters and filter chains -/

/-- Parameters of the converters: every chain and pair enabled, two checks to a fault. -/
def adcParams : List ParamRec :=
  prm 0x0B01 0xFFFF 0xFFFFFFFF :: (List.range 2).flatMap (fun p => [prm 0x0B14 p 1, prm 0x0B17 p 2, prm 0x0B1A p 100, prm 0x0B16 p 100])

/-- Converters that run in MD_2, chain 31 and pair 1 as given. -/
def conv (c : Chain) (p : Pls) (k : Cal) : State :=
  let s := up .md2 adcParams
  { s with
    adc := { Adc.reset with
      refRdy := true, chains := List.replicate 31 Chain.reset ++ [c], pls := [⟨0, 0, 0, 0, false, false, false⟩, p], cal := k } }

/-- A pair with these counts. -/
def pair (fails oks : Nat) (fail : Bool) : Pls := ⟨0, 0, fails, oks, fail, false, fail⟩

theorem test_met_chainOutputs :
    let s (c : Chain) := conv c (pair 0 0 false) Cal.reset
    let c : Chain := { Chain.reset with seq := 15 }
    (s c).Inv ∧ adcOn (s c) = true ∧ chainEn (s c) 31 = true ∧ (s c).frst.inReset.testBit fnFLT = false ∧ (chainOf (s c) 31).rep = none
    ∧ (chainOf (s c) 31).want = none ∧ (chainOf (s c) 31).due = 0 ∧ (chainOf (s c) 31).mism = false ∧ (chainOf (s c) 31).fade = none
    ∧ (chainOf (s c) 31).cfg = regGet (s c) (fltA 31 0)
    ∧ cfgStages (chainOf (s c) 31).cfg = 0 ∧ bit (chainOf (s c) 31).cfg 20 = false ∧ bit (chainOf (s c) 31).cfg 21 = false
    ∧ (s c).adc.cal.chain ≠ some 31 ∧ ([0x8000, 0x7FFF] : List (BitVec 16)) ≠ []
    ∧ (chainOf (s { c with fade := some (256, 255) }) 31).fade ≠ none := by
  unfold State.Inv; decide +kernel

theorem test_met_referenceAndPlausibility :
    let s (p : Pls) := conv Chain.reset p Cal.reset
    let buf (rdy : Bool) : State := { s (pair 0 0 false) with regs := [(0x110010, 0)], adc := { Adc.reset with refRdy := rdy } }
    (s (pair 0 0 false)).Inv ∧ bit (regGet { up .md10 [] with regs := [] } 0x110010) 0 = true
    ∧ (up .md10 []).adc.refRdy = false ∧ (up .md10 []).sys.mode ≠ .md0 ∧ (s (pair 0 0 false)).adc.refFault = false
    ∧ { (s (pair 0 0 false)).adc with refFault := true }.refFault = true
    ∧ pfAnswers (s (pair 0 0 false)) .pf0 = true ∧ windowOpen (s (pair 0 0 false)) fnADC = true
    ∧ bit (1 : Word) 0 = true ∧ bit (0 : Word) 0 = false ∧ bit (regGet (buf true) 0x110010) 0 = false
    ∧ adcOn (s (pair 0 0 false)) = true ∧ hasSect (imgOf (s (pair 0 0 false))) 0x0B = true ∧ pNatAt (imgOf (s (pair 0 0 false))) 0x0B14 1 ≠ 0
    ∧ pNatAt (imgOf (s (pair 0 0 false))) 0x0B16 1 < (toSigned 16 (201 : BitVec 16).toNat - toSigned 16 (100 : BitVec 16).toNat).natAbs
    ∧ ¬ (pNatAt (imgOf (s (pair 0 0 false))) 0x0B16 1 < (toSigned 16 (100 : BitVec 16).toNat - toSigned 16 (0 : BitVec 16).toNat).natAbs)
    ∧ pNatAt (imgOf (s (pair 0 0 false))) 0x0B1A 1 < (toSigned 16 (201 : BitVec 16).toNat - pIntAt (imgOf (s (pair 0 0 false))) 0x0B19 1).natAbs
    ∧ (plsOf (s (pair 0 0 false)) 1).fails + 1 < pNatAt (imgOf (s (pair 0 0 false))) 0x0B17 1
    ∧ pNatAt (imgOf (s (pair 1 0 false))) 0x0B17 1 ≤ (plsOf (s (pair 1 0 false)) 1).fails + 1 ∧ (plsOf (s (pair 1 0 false)) 1).fail = false
    ∧ (plsOf (s (pair 0 0 true)) 1).oks + 1 < pNatAt (imgOf (s (pair 0 0 true))) 0x0B17 1
    ∧ pNatAt (imgOf (s (pair 0 1 true))) 0x0B17 1 ≤ (plsOf (s (pair 0 1 true)) 1).oks + 1 ∧ (plsOf (s (pair 0 1 true)) 1).fail = true
    ∧ pNatAt (imgOf (s (pair 0 1 false))) 0x0B17 1 ≤ (plsOf (s (pair 0 1 false)) 1).oks + 1 ∧ (plsOf (s (pair 0 1 false)) 1).fail = false := by
  unfold State.Inv; decide +kernel

theorem test_met_calibration :
    let k : Cal := { Cal.reset with chain := some 31, zero := some 451, full := some (451 + 209715) }
    let m : CalMeas := ⟨true, 0, 2, 100, 0, 64 * 65536⟩
    let s (k : Cal) := conv Chain.reset (pair 0 0 false) k
    let v : State := { s k with regs := [(0x110104, 1000)] }
    (s k).Inv ∧ pfAnswers (s k) .pf0 = true ∧ windowOpen (s k) fnADC = true ∧ (0 : BitVec 16) ≠ 0x434C ∧ calMode Mode.md7 = false
    ∧ calMode (s k).sys.mode = true ∧ (30 : Nat) ≠ 31 ∧ { k with chain := some 30 }.chain = some 30 ∧ k.chain = some 31 ∧ k.meas = none
    ∧ { k with full := none }.full = none ∧ v.Inv ∧ toSigned 32 (regGet v 0x110104).toNat = 1000 ∧ field (chainOf v 31).cfg 16 15 = 0
    ∧ (10240000 * (209715 : Int)).natAbs ≠ 0
    ∧ 9 * ((10240000 * (209715 : Int)).natAbs : Int) ≤ 10 * (1000 * 2 ^ 31) ∧ 10 * (1000 * 2 ^ 31) ≤ 11 * ((10240000 * (209715 : Int)).natAbs : Int)
    ∧ 100 * (451 : Int).natAbs ≤ 2 ^ 31 ∧ (10240000 * ((451 : Int) - 451)).natAbs = 0 ∧ { k with meas := some m }.meas = some m
    ∧ (s k).adc.refRdy = true ∧ (s k).adc.refFault = false ∧ plsHolds (s k) 31 = false ∧ ¬ (pInt (imgOf (s k)) 0x0B1C * 65536 < m.hi - m.lo)
    ∧ pInt (imgOf (s k)) 0x0B1C * 65536 < { m with hi := m.hi + 1 }.hi - m.lo ∧ plsHolds (conv Chain.reset (pair 0 0 true) k) 31 = true
    ∧ k.fresh = false ∧ { k with fresh := true, stat := 2 }.stat ≠ 1 := by
  unfold State.Inv; decide +kernel

theorem test_met_chainSettings :
    let s (c : Chain) := conv c (pair 0 0 false) Cal.reset
    let on : Chain := { Chain.reset with cfg := 0x100000 }
    (s on).Inv ∧ pfAnswers (s on) .pf0 = true ∧ windowOpen (s on) fnFLT = true ∧ fltMode (s on).sys.mode = true
    ∧ cfgBad ((0x08000000 : Word) &&& 0x1FFFE3FF) = false ∧ cfgBad ((0x19000000 : Word) &&& 0x1FFFE3FF) = true
    ∧ (up .md1 []).sys.mode.code < 2 ∧ (up .md1 []).Inv ∧ 2 ≤ (up .md7 []).sys.mode.code ∧ fltMode (up .md7 []).sys.mode = false
    ∧ (chainOf (s on) 31).fade = none ∧ ¬ (bit (chainOf (s on) 31).cfg 20 = true ∧ (chainOf (s on) 31).bank = true)
    ∧ (chainOf (s { on with fade := some (1, 0) }) 31).fade ≠ none ∧ bit (chainOf (s on) 31).cfg 20 = true ∧ (chainOf (s on) 31).bank = false
    ∧ bit (0x8101 : Word) 15 = true ∧ 256 < field (0x8101 : Word) 8 0 ∧ field (0x9100 : Word) 8 0 ≤ 256 ∧ bit (0x9100 : Word) 12 = true
    ∧ bit (chainOf (s Chain.reset) 31).cfg 20 = false ∧ (chainOf (s Chain.reset) 31).bank = bit (0x8000 : Word) 12
    ∧ (chainOf (s Chain.reset) 31).bank ≠ bit (0x9100 : Word) 12 ∧ (chainOf (s { on with fresh := true }) 31).fresh = true
    ∧ (chainOf (s on) 31).fresh = false := by
  unfold State.Inv; decide +kernel


/-! ### The statements' hypotheses: recorder, stores, clocks, time and field I/O -/

/-- A recorder in a running unit whose bulk store is ready. -/
def rcd (ps : List ParamRec) (c : Rec) : State :=
  let s := up .md2 ps
  { s with rcd := c, mem := { Mem.reset with blkReady := true } }

theorem test_met_recordingSets :
    let s (ps : List ParamRec) (c : Rec) := rcd ps c
    let f : Rec := { Rec.reset with state := 2, stage := 49151 }
    let ps := [prm 0x0C06 0xFFFF 1, prm 0x0C08 0xFFFF 0, prm 0x0C09 0xFFFF 1, prm 0x0C05 0xFFFF 0]
    let slow := [prm 0x0C05 0xFFFF 10]
    let ana := [prm 0x0B01 0xFFFF 0xFFFFFFFF, prm 0x0C04 0xFFFF 0xFFFFFFFF, prm 0x0C03 0xFFFF 64, prm 0x0C02 0xFFFF 1024]
    let shut (c : Rec) : State := { s ana c with regs := [(0x61208, 0)] }
    let grants (u : State) (n : Nat) (wr : Bool) (o : Nat) : Bool := rgnAllows u 2 (slotAddrOf (recImg u) u.rcd.slot + o) n wr
    let armed := { f with state := 3, soft := 0x8000 }
    let loud := { f with stage := 65536, high := true }
    let full := { armed with evts := List.replicate 31 ⟨0, 1, 0, 0, 0⟩ }
    (s ps f).Inv ∧ (shut f).Inv ∧ (s ps f).clk.state = 2 ∧ { s ps f with clk := Clk.reset }.clk.state ≠ 2 ∧ (s ps f).rcd.state ≠ 0
    ∧ (s ps { f with state := 0 }).rcd.state = 0
    ∧ onGrid (s slow { f with tick := 1 }) (recRate (recImg (s slow { f with tick := 1 }))) = false
    ∧ onGrid (s ps f) (recRate (recImg (s ps f))) = true ∧ onGrid (s ps f) (s ps f).rcd.rate = true
    ∧ (s ps f).rcd.stage - 1024 < 49152 ∧ (s ps f).rcd.stage - 1024 + setSize (recImg (s ps f)) ≤ 65536
    ∧ rgnAllows (s ps f) 2 (setAddrOf (s ps f) (recImg (s ps f))) (setSize (recImg (s ps f))) true = true
    ∧ rgnAllows (s ana f) 2 (setAddrOf (s ana f) (recImg (s ana f))) (setSize (recImg (s ana f))) true = true
    ∧ rgnAllows (shut f) 2 (setAddrOf (shut f) (recImg (shut f))) (setSize (recImg (shut f))) true = false
    ∧ onGrid (s ana loud) (recRate (recImg (s ana loud))) = true ∧ 65536 < loud.stage - 0 + setSize (recImg (s ana loud)) ∧ loud.high = true
    ∧ onGrid (s ana loud) loud.rate = true ∧ onGrid (shut f) (recRate (recImg (shut f))) = true ∧ loud.halve = false
    ∧ f.gap = 0 ∧ f.rateDue = false ∧ f.step = false ∧ f.halve = false ∧ f.trigs = []
    ∧ ((unitsStep (s ps f) (recImg (s ps f))).2 ||| f.soft % 65536) = 0
    ∧ ((unitsStep (s ps armed) (recImg (s ps armed))).2 ||| armed.soft % 65536) ≠ 0
    ∧ armed.evts.length < 31 ∧ 31 ≤ full.evts.length ∧ { full with post := 2 }.state = 3 ∧ 2 ≤ { f with state := 3, post := 2 }.post
    ∧ { f with stage := 49152 }.high = false ∧ 49152 ≤ { f with stage := 49152 }.stage - 0 ∧ f.rate < 10
    ∧ { f with state := 5 }.state = 5 ∧ pNat (recImg (s ps f)) 0x0C08 ≠ 1
    ∧ grants (s ps f) 4096 true 0 = true ∧ grants (shut f) 4096 true 0 = false ∧ f.state ≠ 5
    ∧ { f with state := 3 }.state = 3 ∧ pNat (recImg (s ps f)) 0x0C09 = 1 := by
  unfold State.Inv; decide +kernel

theorem test_met_recorderCommands :
    let s (ps : List ParamRec) (st : Nat) := rcd ps { Rec.reset with state := st }
    let held (k st : Nat) := rcd [prm 0x0C03 0xFFFF 64] { Rec.reset with state := 1, slots := [(k, ⟨st, 7, [], []⟩)], fetch := some (255, 31) }
    let shut (k st : Nat) : State := { held k st with regs := [(0x61208, 0)] }
    let full : State := rcd [prm 0x0C02 0xFFFF 16, prm 0x0C03 0xFFFF 16384, prm 0x0C0B 0xFFFF 0]
      { Rec.reset with slots := [(0, ⟨2, 7, [], []⟩)] }
    (s [] 0).Inv
    ∧ recMode (s [] 0).sys.mode = true ∧ hasSect (imgOf (s [] 0)) 0x0C = true ∧ (s [] 0).mem.blkReady = true ∧ (s [] 0).clk.state = 2
    ∧ pNat (imgOf (s [prm 0x0C01 0xFFFF 0] 0)) 0x0C01 ≠ 1 ∧ pNat (imgOf (s [] 0)) 0x0C01 = 1 ∧ slotPick (s [] 0) (imgOf (s [] 0)) = some 0
    ∧ slotPick full (imgOf full) = none ∧ full.Inv ∧ pfAnswers (s [] 0) .pf0 = true ∧ windowOpen (s [] 0) fnREC = true
    ∧ (0x5242 : BitVec 16) ≠ 0x5243 ∧ (0x5243 : BitVec 16) ≠ 0x5244 ∧ (s [] 1).rcd.state = 1 ∧ slotPick (s [] 1) (imgOf (s [] 1)) = some 0
    ∧ { (s [] 4).rcd with gap := 7 }.gap ≠ 0 ∧ (s [] 4).rcd.gap = 0
    ∧ (s [] 2).rcd.state = 2 ∧ (s [] 3).rcd.state = 3 ∧ (s [] 4).rcd.state = 4 ∧ (s [] 5).rcd.state = 5
    ∧ pNatAt (recImg (s [prm 0x0C10 15 1] 1)) 0x0C10 (15 : Fin 16) ≠ 0 ∧ pNatAt (recImg (s [prm 0x0C10 15 0] 1)) 0x0C10 (15 : Fin 16) = 0
    ∧ (held 255 2).Inv ∧ rdBusy (held 255 2) = false ∧ (slotOf (held 255 2) 255).state = 2
    ∧ rdBusy (held 0 3) = true ∧ rdOf (held 0 3) = some 0 ∧ (slotOf (held 255 2) 0).state = 0 ∧ (slotOf (held 255 1) 255).state ≠ 2
    ∧ (held 255 2).rcd.fetch = some (255, 31)
    ∧ rgnAllows (held 255 2) 2 (slotAddrOf (recImg (held 255 2)) 255) (4096 + (slotOf (held 255 2) 255).sets.length) false = true
    ∧ rgnAllows (shut 255 2) 2 (slotAddrOf (recImg (shut 255 2)) 255) (4096 + (slotOf (shut 255 2) 255).sets.length) false = false
    ∧ rgnAllows (held 255 2) 2 (slotAddrOf (recImg (held 255 2)) 255 + 0x4C0 + 16 * 31) 16 false = true
    ∧ rgnAllows (shut 255 2) 2 (slotAddrOf (recImg (shut 255 2)) 255 + 0x4C0 + 16 * 31) 16 false = false
    ∧ (shut 255 2).Inv ∧ pfAnswers (shut 255 2) .pf1 = true ∧ windowOpen (shut 255 2) fnREC = true := by
  unfold State.Inv; decide +kernel

theorem test_met_ricksAndBulkStore :
    let s := up .md2 []
    s.Inv ∧ pfAnswers s .pf0 = true ∧ windowOpen s fnRKS = true ∧ windowOpen s fnBLK = true ∧ blkUp (up .md3 []) = false
    ∧ { s.mem with blkReady := true }.blkReady = true ∧ blkUp s = true ∧ s.mem.blkReady = false
    ∧ (up .md3 []).sys.mode = .md3 ∧ s.sys.mode ≠ .md3 ∧ clocked s = true ∧ { s.mem with scrub := true }.scrub = true ∧ s.mem.scrub = false
    ∧ clocked { s with clk := Clk.reset } = false
    ∧ (0xBFFFFF : Nat) < 0xC00000 ∧ field (0xAA6AAAAA : Word) 23 22 = 1 ∧ field (0xAA2AAAAA : Word) (2 * (0xBFFFFF / 0x100000) + 1) (2 * (0xBFFFFF / 0x100000)) = 0 := by
  unfold State.Inv; decide +kernel

theorem test_met_synthesiser :
    let s (m : Mode) (st : Nat) : State := { up m [] with clk := { Clk.reset with state := st } }
    let r (rails : Nat) (n : Bool) : State := { s .md0 1 with mon := { Mon.reset with rails := rails, resetN := n } }
    (s .md2 2).Inv ∧ (s .md2 2).clk.state ≠ 1 ∧ (s .md2 1).clk.state = 1 ∧ (s .md2 1).clk.refOk = true
    ∧ (r 0x80 true).sys.mode = .md0 ∧ (r 0x80 true).mon.rails ≠ 0 ∧ (r 0 false).mon.resetN = false
    ∧ (r 0 true).mon.rails = 0 ∧ (r 0 true).mon.resetN = true ∧ (r 0 true).Inv ∧ (r 0 true).ggd.ht = false
    ∧ { (r 0 true).ggd with ht := true }.ht = true ∧ State.Inv { r 0 true with ggd := { Ggd.reset with ht := true } }
    ∧ (s .md2 2).crd.svc = none ∧ (s .md3 2).sys.mode = .md3 ∧ (0 : Fin 12).val = 0 ∧ (11 : Fin 12).val ≠ 0 ∧ (s .md2 3).clk.state ≠ 2
    ∧ (s .md7 2).clk.state = 2 ∧ (s .md7 2).sys.mode.blockable = true ∧ (s .md1 2).sys.mode = .md1 ∧ pfAnswers (s .md2 2) .pf0 = true
    ∧ (s .md7 2).sys.mode ∉ [Mode.md2, .md10, .md11] ∧ (s .md2 2).sys.mode ∈ [Mode.md2, .md10, .md11]
    ∧ field (0 : Word) 21 16 = field (regGet (s .md11 2) 0x1010C) 21 16 ∧ bit (0 : Word) 31 ≠ bit (regGet (s .md11 2) 0x1010C) 31
    ∧ field (0x10000 : Word) 21 16 ≠ field (regGet (s .md11 2) 0x1010C) 21 16 := by
  unfold State.Inv; decide +kernel

/-- A tracker and its heard masters, of a unit in MD_2 with both Ethernet links. -/
def tracked (d : Dom) : State :=
  let s := up .md2 [prm 0x0D08 1 3, prm 0x0D0E 1 1, prm 0x0D06 1 1]
  { s with tim := { Tim.reset with link := [true, true], doms := [Dom.reset, d] } }

theorem test_met_precisionTimeTrackers :
    let m (gm : Nat) : Master := ⟨1, 2, 3, 4, 5, gm, 7, 8, 37⟩
    let d (st gm : Nat) : Dom := { Dom.reset with state := st, port := 1, src := 8, gm := gm, sync := some (0xFFFF, 5, 6) }
    let put (st gm : Nat) := updDom (tracked (d st gm)) 1 (fun x => { x with heard := hear x.heard 1 (m 9) })
    let lost (st gm : Nat) (l : List (Nat × Master)) := updDom (tracked (d st gm)) 1 (fun x => { x with heard := l.filter (fun y => decide (y.1 ≠ 1)) })
    let both : List (Nat × Master) := [(1, m 9), (0, m 9)]
    (tracked (d 1 9)).Inv
    ∧ (domOf (tracked (d 1 9)) 1).state = 1 ∧ (domOf (tracked (d 4 9)) 1).state = 4 ∧ (domOf (tracked Dom.reset) 1).state = 0
    ∧ (pNatAt (imgOf (tracked (d 1 9))) 0x0D08 1).testBit 1 = true ∧ nth false (tracked (d 1 9)).tim.link 1 = true
    ∧ bestMaster (put 1 9) 1 = some (1, m 9) ∧ bestMaster (put 3 10) 1 = some (1, m 9) ∧ bestMaster (put 3 9) 1 = some (1, m 9)
    ∧ (domOf (tracked (d 3 10)) 1).state = 3 ∧ (domOf (tracked (d 3 10)) 1).gm ≠ (m 9).gm
    ∧ (domOf (tracked (d 3 9)) 1).state = 3 ∧ (domOf (tracked (d 3 9)) 1).gm = (m 9).gm
    ∧ bestMaster (lost 3 9 []) 1 = none ∧ bestMaster (lost 3 9 both) 1 = some (0, m 9)
    ∧ (domOf (tracked (d 2 9)) 1).state ≠ 3 ∧ (domOf (tracked (d 2 9)) 1).state = 2 ∧ (domOf (tracked (d 3 9)) 1).port = (1 : Fin 2).val
    ∧ (domOf (tracked (d 3 9)) 1).src = (8 : BitVec 80).toNat
    ∧ (domOf (tracked (d 3 9)) 1).sync = some (0xFFFF, 5, 6) ∧ (0xFFFF : BitVec 16).toNat = 0xFFFF
    ∧ (domOf (tracked { d 2 9 with seeded := false }) 1).seeded = false ∧ ethUp (tracked (d 3 9)) 1 = true
    ∧ pNatAt (imgOf (tracked (d 3 9))) 0x0D06 1 = 1 ∧ (tracked (d 3 9)).sys.mode ≠ .md3 ∧ (tracked (d 3 9)).sys.mode ≠ .md0
    ∧ bestMaster (let u := put 3 9; { u with tim := { u.tim with link := setNth u.tim.link 1 false } }) 1 = none
    ∧ bestMaster (let u := updDom (put 3 9) 1 (fun x => { x with heard := both }); { u with tim := { u.tim with link := setNth u.tim.link 1 false } }) 1
      = some (0, m 9) := by
  unfold State.Inv; decide +kernel

theorem test_met_timeCommands :
    let s (m : Mode) (tb : Tb) (st : Nat) : State := { up m [prm 0x0D02 3 1] with
      tim := { Tim.reset with sys := 3, tbs := List.replicate 3 Tb.reset ++ [tb], doms := [{ Dom.reset with state := st }, Dom.reset] } }
    let deb (ns : Word) (st : Nat) : State := { s .md7 Tb.reset st with
      ggd := { Ggd.reset with chans := List.replicate 24 { Chan.reset with state := 2 } }
      regs := if ns = 0 then [] else [(0x20028, ns)] }
    (s .md2 Tb.reset 1).Inv ∧ (tbOf (s .md2 { Tb.reset with hold := true, trace := true } 1) 3).hold = true
    ∧ (tbOf (s .md2 { Tb.reset with hold := true, trace := true } 1) 3).trace = true ∧ (tbOf (s .md2 Tb.reset 1) 3).hold = false
    ∧ (tbOf (s .md2 { Tb.reset with hold := true } 1) 3).trace = false
    ∧ pfAnswers (s .md2 Tb.reset 1) .pf0 = true ∧ windowOpen (s .md2 Tb.reset 1) fnTIM = true ∧ (0x5452 : BitVec 16) ≠ 0x5453
    ∧ (s .md1 Tb.reset 1).sys.mode.code < 2 ∧ 2 ≤ (s .md2 Tb.reset 1).sys.mode.code ∧ srcLocked (s .md2 Tb.reset 3) 3 = true
    ∧ srcLocked (s .md2 Tb.reset 1) 3 = false
    ∧ stepRange (deb 0 1) 3 (toSigned 64 (reg64 (deb 0 1) 0x20028) * 65536) = true ∧ srcLocked (deb 0 1) 3 = false
    ∧ stepRange (deb 1 1) 3 (toSigned 64 (reg64 (deb 1 1) 0x20028) * 65536) = false
    ∧ stepRange (deb 0 3) 3 (srcEst (deb 0 3) 3 - (tbOf (deb 0 3) 3).val) = true ∧ srcLocked (deb 0 3) 3 = true
    ∧ stepRange (s .md2 Tb.reset 3) 3 0 = false ∧ field (3 : Word) 1 0 = 3 ∧ field (2 : Word) 1 0 ≠ 3 := by
  unfold State.Inv; decide +kernel

theorem test_met_fieldInputsAndOutputs :
    let s (m : Mode) (f : Fio) : State := { up m [prm 0x0F06 15 1, prm 0x0F04 15 1, prm 0x072F 0xFFFF 15] with fio := f }
    (s .md2 Fio.reset).Inv ∧ pfAnswers (s .md2 Fio.reset) .pf0 = true ∧ windowOpen (s .md2 Fio.reset) fnFIO = true
    ∧ 2 ≤ (s .md2 Fio.reset).sys.mode.code ∧ hostMask (s .md2 Fio.reset) (field (0x00010001 : Word) 31 16) = true
    ∧ (s .md1 Fio.reset).sys.mode.code < 2 ∧ hostMask (s .md2 Fio.reset) (field (0x80008000 : Word) 31 16) = false
    ∧ brkOut (s .md2 Fio.reset) = some 15 ∧ (15 : Nat) < 16 ∧ fioRuns (s .md2 Fio.reset) = true
    ∧ fioRuns (s .md1 Fio.reset) = false ∧ (fioBreak (s .md2 Fio.reset)).testBit (0 : Fin 16) = false
    ∧ pNatAt (imgOf (s .md2 Fio.reset)) 0x0F04 (15 : Fin 16) = 1 ∧ (fioBreak (s .md2 Fio.reset)).testBit (15 : Fin 16) = false
    ∧ (fioBreak (s .md2 { Fio.reset with brk := 0x8000 })).testBit (15 : Fin 16) = true
    ∧ (s .md2 Fio.reset).img.live.isSome = true ∧ { (s .md2 Fio.reset) with img := FabImg.reset }.img.live = none
    ∧ { Fio.reset with config := true, link := true }.config = true ∧ Fio.reset.config = false ∧ Fio.reset.brk.testBit (15 : Fin 16) = false
    ∧ (17999 : BitVec 16).toNat < 18000 ∧ (14999 : BitVec 16).toNat < 15000 ∧ Fio.reset.uv = false ∧ Fio.reset.low = false
    ∧ Fio.reset.fault = false ∧ { Fio.reset with link := true }.link = true ∧ (s .md2 Fio.reset).sys.mode ≠ .md0 := by
  unfold State.Inv; decide +kernel

theorem test_met_managementPort :
    let s (p : Nat) (r : Nat) : State := { up .md2 [] with mon := { Mon.reset with ptr := p, served := true }, frst := ⟨r, 0⟩ }
    (s 0x200 0).Inv ∧ (s 0x200 0).frst.inReset.testBit 22 = false ∧ (s 0x200 0).mon.served = true ∧ Mon.reset.served = false
    ∧ (s 0x1FF 0).mon.ptr ≠ 0x200 ∧ (s 0x200 0).mon.ptr = 0x200 ∧ (s 0 0x400000).frst.inReset.testBit 22 = true
    ∧ pfAnswers (s 0 0) .pf1 = true ∧ windowOpen (s 0 0) fnMON = true ∧ (up .md0 []).sys.mode = .md0 := by
  unfold State.Inv; decide +kernel


/-! ### The statements' hypotheses: redundancy, the stoker and the images -/

/-- A unit of a pair, redundant since its image says so, in a mode. -/
def paired (m : Mode) (r : Red) : State :=
  { up m [prm 0x0E01 0xFFFF 1, prm 0x0E02 0xFFFF 0, prm 0x0E05 0xFFFF 16, prm 0x0E06 0xFFFF 3, prm 0x0E09 0xFFFF 1] with red := r }

/-- A partner payload with its CRC. -/
def sealed (bs : List Byte) : List Byte := bs ++ leBytes 4 (crc32c bs)

theorem leNat_leBytes : ∀ n v, v < 256 ^ n → leNat (leBytes n v) = v
  | 0, v, h => by simp at h; simp [leBytes, leNat, h]
  | n + 1, v, h => by
    have := leNat_leBytes n (v / 256) (by rw [Nat.div_lt_iff_lt_mul (by omega)]; rwa [Nat.pow_succ] at h)
    simp only [leBytes, leNat, this, BitVec.toNat_ofNat]; omega

/-- A sealed payload arrives. -/
theorem partnerPayload_sealed {type len : Nat} {bs : List Byte} (h : bs.length = len) (ht : leAt (sealed bs) 0 1 = type) :
    partnerPayload type len (sealed bs) = some bs := by
  have hc : leAt (sealed bs) len 4 = crc32c bs := by
    rw [← leNat_leBytes 4 (crc32c bs) (BitVec.isLt _)]
    simp only [leAt, sealed, sliceBytes, ← h, List.drop_left]
    rfl
  have hl : (sealed bs).length = len + 4 := by rw [← h]; exact List.length_append
  have ht' : (sealed bs).take len = bs := by rw [← h]; exact List.take_left
  simp [partnerPayload, hc, ht, hl, ht']

/-- The payload of chunk k of snapshot q. -/
def chunkBody (k q : Byte) (d : List Byte) : List Byte := 2 :: k :: 0 :: 0 :: q :: 0 :: 0 :: 0 :: d

/-- That chunk, announced as number 15. -/
def chunk (k q : Byte) (d : List Byte) : SnapChunk := ⟨15, q.setWidth 32, sealed (chunkBody k q d)⟩

theorem chunk_data {k q : Byte} {d : List Byte} (h : d.length = 256) :
    chunkData (chunk k q d) = if k = 15 then some d else none := by
  unfold chunkData
  rw [show (chunk k q d).bytes = sealed (chunkBody k q d) from rfl, partnerPayload_sealed (by simp [chunkBody, h])
    (by simp [leAt, sealed, chunkBody, sliceBytes, padTo, leNat, zeros])]
  have hk : k.toNat = 15 ↔ k = 15 := by bv_omega
  have hq : q.toNat < 4294967296 := by omega
  simp [chunk, leAt, chunkBody, sliceBytes, padTo, leNat, zeros, hk, Nat.mod_eq_of_lt hq, show ((15 : Fin 16) : Nat) = 15 from rfl]

theorem test_met_redundancyRulesFrame :
    let r (p : Nat) (tkn : Bool) : Red := { Red.reset true with state := .claiming, hbHere := true, pstate := p, tknIn := tkn }
    let s (p : Nat) (tkn : Bool) := paired .md3 (r p tkn)
    let lost := { s 2 false with red := { r 2 false with tknFault := true } }
    let down := { s 2 false with frst := ⟨2 ^ fnRED, 0⟩ }
    (s 3 false).Inv ∧ (s 4 true).Inv ∧ redUp (s 3 false) = true ∧ (s 3 false).red.state = .claiming
    ∧ partnerShows (s 3 false) 3 = true ∧ partnerShows (s 4 false) 4 = true ∧ (s 2 true).red.tknIn = true ∧ preferred (s 2 true) = false
    ∧ healthy lost = false
    ∧ healthy (s 2 false) = true ∧ partnerShows (s 2 false) 3 = false ∧ partnerShows (s 2 false) 4 = false ∧ (s 2 false).red.tknIn = false
    ∧ redUp down = false ∧ down.Inv ∧ (paired .md2 (r 2 false)).sys.mode ≠ .md3 := by
  unfold State.Inv; decide +kernel

theorem test_met_partnerFrames :
    let r (st : RedState) : Red := { Red.reset true with state := st, rxSeq := 7, rx := (List.range 15).map (fun k => (k, [])) }
    let s (st : RedState) := paired .md3 (r st)
    let put (rx : Tab (List Byte)) (k : Nat) := tabSet [] rx k (List.replicate 256 1)
    let st (k tries : Nat) : Stream := ⟨7, [], 16, true, 2 ^ k, List.replicate 16 tries, false⟩
    let sends (k tries : Nat) := paired .md2 { r .holder with stream := some (st k tries), hbHere := true }
    let lane (q : State) : State := { q with crd := { q.crd with lanes := List.replicate 48 Lane.off ++ List.replicate 2 { Lane.off with state := 7 } } }
    let hb : List Byte := 1 :: List.replicate 71 0
    let rep : List Byte := 3 :: List.replicate 51 0
    let heard := { s .standby with red := { r .standby with hbHere := true, hb := some (hbParse hb) } }
    (s .standby).Inv ∧ partnerIn (s .standby) = true
    ∧ partnerPayload 1 72 (sealed hb) = some hb ∧ partnerPayload 3 52 (sealed rep) = some rep ∧ hbAgain (s .standby) (hbParse hb) = false
    ∧ hbAgain heard (hbParse hb) = true ∧ heard.Inv ∧ partnerIn heard = true ∧ (s .standby).sys.mode = .md3 ∧ (sends 15 2).sys.mode ≠ .md3
    ∧ (chunk 14 7 []).seq.toNat = (r .standby).rxSeq ∧ (r .standby).rx.any (fun x => x.1 = (chunk 14 7 []).chunk.val) = false
    ∧ (chunk 15 8 []).seq.toNat ≠ (r .standby).rxSeq ∧ (put ((r .standby).rx.take 14) 15).length < 16
    ∧ (r .standby).state ≠ .holder ∧ (r .standby).snap.map (·.seq) ≠ some 7 ∧ (put [] 15).length < 16
    ∧ (sends 15 2).red.hbHere = true ∧ (sends 15 2).Inv
    ∧ (sends 15 2).red.stream = some (st 15 2) ∧ (st 15 2).nakd.testBit 15 = true ∧ nth 0 (st 15 2).tries 15 < rpar (sends 15 2) 0x0E06
    ∧ ppUp (lane (sends 0 0)) = true ∧ (st 0 0).nakd.testBit 0 = true ∧ tknOut (sends 0 0) = true ∧ (sends 0 0).red.tknFault = false := by
  unfold State.Inv; decide +kernel

theorem test_met_partnerFramesChunks : ∃ d : List Byte, chunkData (chunk 15 7 d) = some d ∧ chunkData (chunk 15 8 d) = some d
    ∧ chunkData (chunk 14 7 d) = none :=
  have h := List.length_replicate (n := 256) (a := (1 : Byte))
  ⟨_, (chunk_data h).trans (if_pos rfl), (chunk_data h).trans (if_pos rfl), (chunk_data h).trans (if_neg (by decide))⟩

theorem test_met_claimAndRelease :
    let snap (h : Word) : Snap := ⟨5, List.replicate 6 0 ++ [5] ++ List.replicate 21 0 ++ leBytes 4 h.toNat, 0⟩
    let r (st : RedState) (p : Nat) : Red := { Red.reset false with state := st, hbHere := true, pstate := p, copyOk := true }
    let s (m : Mode) (st : RedState) (p : Nat) := paired m (r st p)
    let sync : State := { s .md3 .standby 4 with
      red := { r .standby 4 with snap := some (snap (hash32 (s .md3 .standby 4))) }
      tim := { Tim.reset with tbs := List.replicate 4 { Tb.reset with trace := true } } }
    let silent : State := { s .md3 .standby 2 with red := { r .standby 2 with hbHere := false } }
    let pages : State := { s .md3 .standby 2 with red := { r .standby 2 with copyOk := false } }
    let leased : State := { s .md2 .holder 2 with red := { r .holder 2 with lease := true } }
    (s .md3 .standby 2).Inv
    ∧ redUp (s .md3 .standby 2) = true ∧ (s .md3 .standby 2).red.tknIn = false ∧ nextEpoch (s .md3 .standby 2) = some 1
    ∧ partnerShows (s .md3 .standby 2) 2 = true ∧ silent.red.hbHere = false ∧ nextEpoch silent = some 1
    ∧ (s .md2 .claiming 2).red.state = .claiming ∧ (s .md2 .claiming 2).sys.mode ≠ .md3
    ∧ (s .md3 .claiming 2).sys.mode = .md3 ∧ snapUsable (s .md3 .claiming 2) = false
    ∧ (s .md3 .claiming 2).red.snap = none ∧ (s .md3 .claiming 2).red.tknIn = false ∧ redUp (s .md3 .claiming 2) = true
    ∧ tokenHeld leased = true ∧ leased.red.lease = true ∧ (s .md7 .holder 2).sys.mode.blockable = true
    ∧ (s .md2 .released 2).red.state = .released ∧ { r .holder 2 with restored := true }.restored = true
    ∧ synced sync = true ∧ rpar sync 0x0E09 = 1 ∧ sync.Inv
    ∧ pages.red.copyOk = false ∧ rgnAllows pages 3 0xE00000 (planeCopy pages).length true = true
    ∧ pfAnswers (s .md2 .holder 2) .pf0 = true ∧ windowOpen (s .md2 .holder 2) fnRED = true ∧ pfAnswers (s .md2 .holder 2) .pf1 = true
    ∧ (0x5244 : BitVec 16) ≠ 0x5245 := by
  unfold State.Inv; decide +kernel

/-- A billet with an opcode, flags, a length and its first argument, of priority 7. -/
def billet (op flags : Byte) (len a : Word) : Billet := ⟨op, flags, 7, 0, 0, 0, len, [a, 0, 0, 0, 0, 0]⟩

/-- That billet in the stoker: the first of ring 63, fetched at index 1. -/
def item (b : Billet) : Item := ⟨63, 1, 7, 6, false, b⟩

/-- A unit in MD_2 whose ring 63 is enabled and has three of four billets to fetch. -/
def stoked (k : Ring) (ws : List Worker) : State :=
  let s := up .md2 []
  { s with
    regs := [(0x517F0, 1), (0x517FC, 2)], stk := { Stk.reset with rings := [(63, k)], workers := ws }
    mem := { Mem.reset with blkReady := true } }

/-- Every worker serves this billet. -/
def serving (b : Billet) : List Worker := List.replicate 12 { Worker.empty with service := some (item b) }

theorem test_met_ringsAndBillets :
    let k : Ring := { Ring.reset with ci := 1, pi := 4, fetch := 1 }
    let b := billet 0 0 0 0
    let next : List Worker := List.replicate 12 { Worker.empty with service := some (item b), next := some (item b) }
    let s := stoked k next
    let off : State := { s with regs := [] }
    let done (f : Option Item) (l : List Nat) := stoked { k with fence := f, done := l }
      (List.replicate 12 { Worker.empty with service := some (item b), result := some ⟨1, 0, 0, 0⟩ })
    s.Inv ∧ pfAnswers s .pf0 = true ∧ windowOpen s fnSTK = true
    ∧ ringOn off 63 = false ∧ bit (1 : Word) 0 = true ∧ bit (0xF90000 : Word) 0 = false ∧ ringOn s 63 = true
    ∧ pfAnswers s (ringPf s 63) = true ∧ ringSize s 63 = 4 ∧ (5 + 2 ^ 32 - k.ci) % 2 ^ 32 ≤ ringSize s 63
    ∧ (k.pi + 2 ^ 32 - k.ci) % 2 ^ 32 ≤ (5 + 2 ^ 32 - k.ci) % 2 ^ 32
    ∧ ¬ ((6 + 2 ^ 32 - k.ci) % 2 ^ 32 ≤ ringSize s 63) ∧ ¬ ((k.pi + 2 ^ 32 - k.ci) % 2 ^ 32 ≤ (3 + 2 ^ 32 - k.ci) % 2 ^ 32) ∧ k.halted = false
    ∧ mayFetch (stoked Ring.reset next) 63 = false ∧ mayFetch s 63 = true ∧ b.prio.toNat < 8
    ∧ billetCheck s 63 b = 0 ∧ b.flags.getLsbD 0 = false ∧ b.flags.getLsbD 2 = false
    ∧ (workerOf s (workerFor b)).service ≠ none ∧ (workerOf s (workerFor b)).next = some (item b) ∧ ¬ (b.prio.toNat ≤ (item b).prio)
    ∧ { b with prio := 6 }.prio.toNat ≤ (item b).prio ∧ billetCheck s 63 (billet 11 0 0 0) = 2
    ∧ (workerOf (done none []) 11).service = some (item b) ∧ (workerOf (done none []) 11).result = some ⟨1, 0, 0, 0⟩
    ∧ pfMaster (done none []) (ringPf (done none []) (item b).ring) = true
    ∧ (item b).idx = (ringOf (done none []) (item b).ring).ci ∧ (ringOf (done none []) (item b).ring).fence = none
    ∧ (ringOf (done none []) (item b).ring).done = [] ∧ (done none []).Inv := by
  unfold State.Inv; decide +kernel

theorem test_met_workerOperations :
    let k : Ring := { Ring.reset with ci := 1, pi := 4, fetch := 4 }
    let s (b : Billet) := stoked k (serving b)
    let idle (w op : Nat) (b : Billet) : Bool :=
      decide ((workerOf (s b) w).service = some (item b) ∧ (workerOf (s b) w).result = none ∧ opOf b = op ∧ (s b).clk.state = 2)
    let posts (x : Item) : State := { s (billet 3 0 64 1) with stk := { (s (billet 3 0 64 1)).stk with posts := [(0, x), (1, x)] } }
    let leaf (n w : Nat) : State := { s (billet 9 0 2608 0) with peat := { Peat.reset with leaf := n }, sec := { Sec.reset with attWait := w } }
    let gated (n : Nat) (b : Billet) : State := { s b with mem := { Mem.reset with pwr := setNth Mem.reset.pwr n 0, blkReady := true } }
    let shut : State := s (billet 4 0 1 0xC00000)
    let batch (want : List (BitVec 16)) : State := stoked k
      (List.replicate 12 { Worker.empty with service := some (item (billet 7 0 512 0)), want := want })
    (s (billet 0 0 0 0)).Inv ∧ (gated 11 (billet 4 0 1 0xBFFFFF)).Inv ∧ { s (billet 0 0 0 0) with clk := Clk.reset }.clk.state ≠ 2
    ∧ ethUp (s (billet 3 0 64 1)) 1 = false ∧ 1522 < (List.replicate 1523 (0 : Byte)).length ∧ (List.replicate 64 (0 : Byte)).length ≤ 1522
    ∧ idle 10 0x04 (billet 4 0 64 0x10000000) = true ∧ 0x10000000 ≤ argOf (billet 4 0 64 0x10000000) 0 ∧ argOf (billet 4 0 4096 0xFF000) 0 < 0x10000000
    ∧ rgnAllows (s (billet 4 0 64 0x10000000)) (stkMaster (ringPf (s (billet 4 0 64 0x10000000)) 63)) 0x10000000 64 false = true
    ∧ rickOff (s (billet 4 0 64 0x10000000)) 0x10000000 64 = false ∧ (s (billet 4 0 64 0x10000000)).mem.blkReady = true
    ∧ { s (billet 4 0 64 0x10000000) with mem := Mem.reset }.mem.blkReady = false
    ∧ argOf (billet 5 0 256 0x10FFFF00) 0 % 8 = 0 ∧ (billet 5 0 256 0x10FFFF00).len.toNat % 8 = 0
    ∧ rgnAllows (leaf 0 0) 4 0xD00000 0x100000 true = true ∧ rickOff (leaf 0 0) 0xD00000 0x100000 = false
    ∧ rickOff (gated 13 (billet 9 0 2608 0)) 0xD00000 0x100000 = true ∧ idle 10 0x00 (billet 0 0 0 0) = true
    ∧ idle 0 0x01 (billet 1 0 32 0) = true
    ∧ rickOff (s (billet 1 0 32 0)) logBase 0x100000 = false ∧ rgnAllows (s (billet 1 0 32 0)) 5 logBase 0x100000 false = true
    ∧ ((s (billet 1 0 32 0)).log.next + 2 ^ 32 - (2 ^ 31 + 1)) % 2 ^ 32 < 2 ^ 31
    ∧ idle (1 + 1) 0x02 (billet 2 0 64 1) = true ∧ ethUp { s (billet 2 0 64 1) with tim := { Tim.reset with link := [false, true] } } 1 = true
    ∧ idle (3 + 1) 0x03 (billet 3 0 64 1) = true ∧ (postTake 1 (s (billet 3 0 64 1)).stk.posts).1 = none
    ∧ (postTake 1 (posts (item (billet 3 0 64 1))).stk.posts).1 = some (item (billet 3 0 64 1))
    ∧ pfMaster (posts (item (billet 3 0 64 1))) (ringPf (posts (item (billet 3 0 64 1))) 63) = true
    ∧ idle 10 0x04 (billet 4 0 4096 0xFF000) = true
    ∧ rgnAllows (s (billet 4 0 4096 0xFF000)) (stkMaster (ringPf (s (billet 4 0 4096 0xFF000)) 63)) 0xFF000 4096 false = true
    ∧ rickOff (s (billet 4 0 4096 0xFF000)) 0xFF000 4096 = false ∧ rgnAllows shut (stkMaster (ringPf shut 63)) 0xC00000 1 false = false
    ∧ rickOff (gated 11 (billet 4 0 1 0xBFFFFF)) 0xBFFFFF 1 = true
    ∧ rgnAllows (gated 11 (billet 4 0 1 0xBFFFFF)) (stkMaster (ringPf (gated 11 (billet 4 0 1 0xBFFFFF)) 63)) 0xBFFFFF 1 false = true
    ∧ idle 10 0x05 (billet 5 0 256 0x10FFFF00) = true
    ∧ rgnAllows (s (billet 5 0 256 0x10FFFF00)) (stkMaster (ringPf (s (billet 5 0 256 0x10FFFF00)) 63)) 0x10FFFF00 256 true = true
    ∧ (s (billet 5 0 256 0x10FFFF00)).mem.blkReady = true ∧ rickOff (s (billet 5 0 256 0x10FFFF00)) 0x10FFFF00 256 = false
    ∧ 0xBFFF00 + 256 ≤ logBase ∧ logBase + 0x100000 ≤ 0xD00000 ∧ idle 6 0x06 (billet 6 0 4 0x40) = true
    ∧ idle 9 0x07 (billet 7 0 512 0) = true ∧ (workerOf (s (billet 7 0 512 0)) 9).want = []
    ∧ (workerOf (batch [5]) 9).want ≠ [] ∧ pfMaster (batch [5]) (ringPf (batch [5]) 63) = true
    ∧ idle 11 0x08 (billet 8 0 4 0) = true ∧ idle 11 0x08 (billet 8 0 4 1) = true ∧ argOf (billet 8 0 4 0) 0 = 0 ∧ argOf (billet 8 0 4 1) 0 ≠ 0
    ∧ idle 7 0x09 (billet 9 0 2608 0) = true
    ∧ (leaf (lmsLeaves - 1) 0).peat.leaf < lmsLeaves ∧ (leaf 0 0).sec.attWait = 0 ∧ (leaf 0 1).sec.attWait ≠ 0
    ∧ lmsLeaves ≤ (leaf lmsLeaves 0).peat.leaf ∧ idle 8 0x0A (billet 10 0 16 0) = true
    ∧ pfAnswers (s (billet 0 0 0 0)) .pf0 = true ∧ windowOpen (s (billet 0 0 0 0)) fnSTK = true := by
  unfold State.Inv; decide +kernel

theorem test_met_imageSlots :
    let s (m : Mode) (c : Sec) : State := { up m [] with sec := c, img := { FabImg.reset with live := some (img []), state := 1, stSlot := 1 } }
    let load (st : Nat) : State := s .md2 { Sec.reset with imgState := st, imgLen := 0x1000 }
    let bare : State := { s .md2 Sec.reset with img := FabImg.reset }
    pfAnswers (s .md2 Sec.reset) .pf0 = true ∧ windowOpen (s .md2 Sec.reset) fnSEC = true ∧ (0x494C : BitVec 16) ≠ 0x494D
    ∧ (load 3).sec.imgState ≠ 0 ∧ (s .md2 { Sec.reset with ucLoading := some 1 }).sec.ucLoading.isSome = true
    ∧ (s .md2 Sec.reset).sec.imgState = 0 ∧ (s .md2 Sec.reset).sec.ucLoading.isSome = false
    ∧ secMode (s .md3 Sec.reset).sys.mode = false ∧ secMode (s .md2 Sec.reset).sys.mode = true ∧ secMode (s .md4 Sec.reset).sys.mode = true
    ∧ slotActive (s .md2 Sec.reset) 0 = true ∧ slotStaged (s .md2 Sec.reset) 1 = true ∧ slotActive (s .md2 Sec.reset) 1 = false
    ∧ slotActive bare 1 = false ∧ slotStaged bare 1 = false ∧ (load 0).sec.imgState ≠ 1 ∧ (load 1).sec.imgState = 1
    ∧ (load 1).clk.state = 2 ∧ rgnAllows (load 1) 4 0xD00000 0x100000 true = true ∧ rickOff (load 1) 0xD00000 0x100000 = false
    ∧ rickOff { load 1 with mem := { Mem.reset with pwr := setNth Mem.reset.pwr 13 0 } } 0xD00000 0x100000 = true := by
  decide +kernel

theorem test_met_fabricImages :
    let s (st : Nat) (live : Option Image) : State := { up .md2 [] with img := { FabImg.reset with live := live, state := st } }
    pfAnswers (s 0 none) .pf0 = true ∧ windowOpen (s 0 none) fnFAB = true ∧ (0x5356 : BitVec 16) ≠ 0x5357
    ∧ (s 1 none).img.state = 1 ∧ (s 3 none).img.state = 3 ∧ (s 2 none).img.state ≠ 1 ∧ (s 2 none).img.state ≠ 3
    ∧ (s 0 none).img.live = none ∧ (s 0 (some (img []))).img.live = some (img []) ∧ (s 0 none).img.state ≠ 1 := by
  decide +kernel


/-! ### The statements' hypotheses: security, modes, the safe block function and function resets -/

theorem test_met_peatStoreAndKeys :
    let s (m : Mode) : State := { up m [] with
      sec := { Sec.reset with arcPend := some (63, 0xFFFFFFFF) }, peat := { Peat.reset with arc := [(63, 0xFFFFFFFE)] } }
    let l (k : PeatKind) (c : Nat) : State := { up .md2 [] with
      clk := { Clk.reset with state := c }, peat := { Peat.reset with recs := [], epochOk := true, banks := [⟨k, 0, 0, []⟩] } }
    let worn (n : Nat) : State := { l .epoch 2 with peat := { (l .epoch 2).peat with wears := [(lineNum (l .epoch 2).peat ⟨.epoch, 0, 0, []⟩, n)] } }
    let off : State := { s .md2 with mem := { Mem.reset with pwr := Mem.reset.pwr.map (fun _ => 0) } }
    (s .md2).Inv ∧ (s .md2).sys.mode ≠ .md0 ∧ (s .md2).sec.arcPend = some (63, 0xFFFFFFFF) ∧ tabGet 0 (s .md2).peat.arc 63 < 0xFFFFFFFF
    ∧ PeatKind.imageLine ∉ [PeatKind.epoch, .calibration, .arc]
    ∧ (l .epoch 2).peat.banks.find? (fun x => x.kind = .epoch) = some ⟨.epoch, 0, 0, []⟩
    ∧ (l .imageLine 2).peat.banks.find? (fun x => x.kind = .epoch) = none
    ∧ (l .arc 2).peat.banks.find? (fun x => x.kind = .arc) = some ⟨.arc, 0, 0, []⟩
    ∧ (l .calibration 2).peat.banks.find? (fun x => x.kind = .calibration) = some ⟨.calibration, 0, 0, []⟩
    ∧ (l .imageLine 2).peat.banks.find? (fun x => x.kind = .imageLine) = some ⟨.imageLine, 0, 0, []⟩ ∧ (l .epoch 2).Inv
    ∧ (l .epoch 2).sys.mode ≠ .md0 ∧ (l .epoch 2).clk.state = 2 ∧ (l .epoch 1).clk.state ≠ 2
    ∧ (l .epoch 2).peat.epochOk = true ∧ (recRead (groupUpd (l .epoch 2).peat .epoch 0 (fun x => x.retire)) .epoch).isNone = true
    ∧ (recRead (groupUpd (recPut (l .epoch 2).peat .epoch) .epoch 0 (fun x => x.retire)) .epoch).isNone = false
    ∧ tabGet 0 (worn 900000000).peat.wears (lineNum (worn 900000000).peat ⟨.epoch, 0, 0, []⟩) + 1 = 900000001
    ∧ rgnAllows (s .md2) 4 0xD00000 0x100000 true = true ∧ rickOff (s .md2) 0xD00000 0x100000 = false ∧ rickOff off 0xD00000 0x100000 = true
    ∧ pfAnswers (s .md2) .pf0 = true ∧ windowOpen (s .md2) fnSEC = true ∧ (0x4B58 : BitVec 16) ≠ 0x4B59
    ∧ (s .md7).sys.mode ∉ [Mode.md2, .md10, .md11] ∧ (s .md11).sys.mode ∈ [Mode.md2, .md10, .md11] := by
  unfold State.Inv; decide +kernel

theorem test_met_microcodeAndRecovery :
    let s (m : Mode) (halt : Bool) (c : Sec) : State := { up m [] with sec := c, sys := { Sys.reset with mode := m, halt := halt } }
    let c := Sec.reset
    let off : State := { s .md1 true c with mem := { Mem.reset with pwr := Mem.reset.pwr.map (fun _ => 0) } }
    pfAnswers (s .md2 false c) .pf0 = true ∧ windowOpen (s .md2 false c) fnSEC = true
    ∧ pfAnswers (s .md1 true c) .pf0 = true ∧ windowOpen (s .md1 true c) fnSEC = true
    ∧ (0x5542 : BitVec 16) ≠ 0x5543 ∧ (0x5257 : BitVec 16) ≠ 0x5256
    ∧ { c with ucLoading := some 1 }.ucLoading.isSome = true ∧ { c with ucLoading := some 1 }.ucLoading = some 1 ∧ c.ucLoading = none
    ∧ { c with rcv := some (false, 1) }.rcv.isSome = true ∧ { c with rcv := some (true, 1) }.rcv = some (true, 1) ∧ c.rcv = none
    ∧ rgnAllows (s .md1 true c) 4 0xD00000 0x100000 true = true ∧ rickOff (s .md1 true c) 0xD00000 0x100000 = false
    ∧ rickOff off 0xD00000 0x100000 = true ∧ (s .md1 true c).clk.state = 2 ∧ { s .md1 true c with clk := Clk.reset }.clk.state ≠ 2
    ∧ ¬ ((s .md1 false c).sys.mode = .md1 ∧ (s .md1 false c).sys.halt = true) ∧ ¬ ((s .md2 false c).sys.mode = .md1)
    ∧ (s .md1 true c).sys.mode = .md1 ∧ (s .md1 true c).sys.halt = true := by
  decide +kernel

theorem test_met_kindleEnds :
    let s (halt : Bool) (clk : Nat) : State := { State.reset with
      sys := { Sys.reset with mode := .md1, halt := halt }, clk := { Clk.reset with state := clk } }
    let off : State := { s false 2 with mem := { Mem.reset with pwr := Mem.reset.pwr.map (fun _ => 0) } }
    let e : Peat := { Peat.reset with recs := [] }
    let h : Peat := recAll { e with epoch := 7, bootSlot := 1 }
    let bad : Peat := groupUpd (groupUpd e .epoch 0 (fun g => g.put false [7])) .epoch 1 (fun g => g.put false [7])
    (s false 2).Inv ∧ (s false 2).sys.mode = .md1 ∧ (s false 2).sys.halt = false ∧ (s false 2).clk.state = 2
    ∧ ¬ ((s true 2).sys.halt = false) ∧ ¬ ((s false 1).clk.state = 2)
    ∧ rgnAllows (s false 2) 4 0xD00000 0x100000 true = true ∧ rickOff (s false 2) 0xD00000 0x100000 = false
    ∧ rickOff off 0xD00000 0x100000 = true ∧ recHeld e .epoch = false ∧ recHeld e .failedMap = false ∧ recHeld e .bootSel = false
    ∧ recHeld h .epoch = true ∧ recRead h .epoch = some [7] ∧ recHeld h .bootSel = true ∧ recRead h .bootSel = some [1, 0]
    ∧ recHeld bad .epoch = true ∧ recRead bad .epoch = none ∧ PeatKind.epoch ∈ recKinds := by
  unfold State.Inv; decide +kernel

theorem test_met_modeRequestsAndCauses :
    let h : Req := ⟨4, 15, .pf1, 9⟩
    let e : Req := ⟨4, 15, .entry 63, 9⟩
    let s (m : Mode) (t : Option Trans) (held : Option Req) (rs : List Req) : State := { up m [] with
      sys := { Sys.reset with mode := m, trans := t, held := held, requests := rs, reqNum := 9 } }
    (s .md5 (some .stopRamp) (some h) []).Inv ∧ pfAnswers (s .md5 none none []) .pf0 = true ∧ pfAnswers (s .md5 none none []) .pf1 = true
    ∧ field (0x4D43FFFF : Word) 31 16 ≠ 0x4D44 ∧ field (0x4D440004 : Word) 31 16 = 0x4D44
    ∧ ¬ (field (0x4D44000A : Word) 3 0 ∈ [4, 5, 6, 7, 8, 9] ∨ (field (0x4D44000A : Word) 3 0 = 2 ∧ Mode.md5.forms = true))
    ∧ ¬ (field (0x4D440002 : Word) 3 0 ∈ [4, 5, 6, 7, 8, 9] ∨ (field (0x4D440002 : Word) 3 0 = 2 ∧ Mode.md11.forms = true))
    ∧ field (0x4D440002 : Word) 3 0 = 2 ∧ Mode.md5.forms = true ∧ field (0x4D440009 : Word) 3 0 ∈ [4, 5, 6, 7, 8, 9]
    ∧ (s .md1 none none []).sys.mode = .md1 ∧ pfAnswers { s .md1 none none [] with sys := { Sys.reset with mode := .md1, halt := true } } .pf0 = true
    ∧ (s .md5 (some .stopRamp) none []).sys.trans.isSome = true ∧ (s .md5 (some .stopRamp) none []).sys.held = none
    ∧ (s .md5 (some .stopRamp) (some e) []).sys.held = some e ∧ e.num ≤ (s .md5 (some .stopRamp) (some e) []).sys.reqNum
    ∧ (s .md5 none none [h, e]).sys.trans = none ∧ (∀ q ∈ (s .md5 none none [h, e]).sys.requests, q.num ≤ 9) := by
  unfold State.Inv; decide +kernel

theorem test_met_moduleReset :
    let s (m : Mode) (halt : Bool) : State := { up m [] with sys := { Sys.reset with mode := m, halt := halt } }
    let deb : State := { s .md2 false with ggd := { Ggd.reset with chans := List.replicate 24 { Chan.reset with state := 2 } } }
    (s .md2 false).Inv ∧ deb.Inv ∧ pfAnswers (s .md2 false) .pf1 = true ∧ pfAnswers (s .md2 false) .pf0 = true
    ∧ field (0x4D530001 : Word) 31 16 ≠ 0x4D52 ∧ field (0x4D520001 : Word) 31 16 = 0x4D52
    ∧ bit (0x4D520000 : Word) 0 = false ∧ bit (0x4D520001 : Word) 0 = true
    ∧ switching (s .md2 false) = false ∧ (s .md2 false).sys.mode ∈ [Mode.md2, .md3, .md10, .md11]
    ∧ (s .md1 true).sys.mode = .md1 ∧ (s .md1 true).sys.halt = true ∧ switching (s .md1 true) = false ∧ pfAnswers (s .md1 true) .pf0 = true
    ∧ (s .md4 false).sys.mode ∉ [Mode.md2, .md3, .md10, .md11] ∧ (s .md4 false).sys.mode ≠ .md1 := by
  unfold State.Inv; decide +kernel

theorem test_met_replicasDiffer :
    let s (n : Nat) (t : Tmr) : State := { up .md2 [] with sys := { Sys.reset with mode := .md2, tickCnt := n }, tmr := t }
    let t (m f : Option (Fin 3)) (dead : Bool) : Tmr := ⟨m, f, [none, none, some 7], dead⟩
    (s 0 (t none none false)).Inv ∧ (s 0 (t none none false)).sys.mode ≠ .md0
    ∧ (t none (some 2) false).fenced = some 2 ∧ (t none none true).dead = true
    ∧ (t none (some 1) false).dead = false ∧ (t none (some 1) false).fenced ≠ some 2 ∧ (t none (some 1) false).fenced.isSome = true
    ∧ (t (some 1) none false).fenced = none ∧ (t (some 1) none false).masked = some 1 ∧ (1 : Fin 3) ≠ 2
    ∧ (t (some 2) none false).masked = some 2 ∧ (t none none false).masked = none
    ∧ (nth none (t none none false).resync (2 : Fin 3)).any (fun k => decide ((s 1007 (t none none false)).sys.tickCnt ≤ k + 1000)) = true
    ∧ ¬ ((nth none (t none none false).resync (2 : Fin 3)).any (fun k => decide ((s 1008 (t none none false)).sys.tickCnt ≤ k + 1000)) = true) := by
  unfold State.Inv; decide +kernel

theorem test_met_scheduledActions :
    let e (armed : Bool) (ns : Word) : SaEntry := { SaEntry.empty with armed := armed, ns := ns }
    let s (armed : Bool) (ns : Word) : State := { up .md2 [] with sa := List.replicate 60 (e armed ns) ++ List.replicate 4 SaEntry.empty }
    (s true 0).Inv ∧ pfAnswers (s true 0) .pf1 = true ∧ pfAnswers (s true 0) .pf0 = true ∧ 60 ≤ (60 : Fin 64).val ∧ (59 : Fin 64).val < 60
    ∧ (nth SaEntry.empty (s true 0).sa 59).armed = true ∧ (nth SaEntry.empty (s false 0).sa 59).armed = false
    ∧ bit (1 : Word) 0 = true ∧ bit (0 : Word) 0 = false
    ∧ (nth SaEntry.empty (s false 999999999).sa 59).ns.toNat ≤ 999999999 ∧ field (0xF4240061 : Word) 31 12 ≤ 1000000 ∧ field (0xF4240061 : Word) 7 4 ≤ 6
    ∧ ¬ ((nth SaEntry.empty (s false 1000000000).sa 59).ns.toNat ≤ 999999999)
    ∧ ¬ (field (0xF4241061 : Word) 31 12 ≤ 1000000) ∧ ¬ (field (0xF4240071 : Word) 7 4 ≤ 6) := by
  unfold State.Inv; decide +kernel

theorem test_met_safeBlockInputs :
    let s (m : Mode) (a b : Bool) : State := { up m [] with saf := { Saf.reset with sbA := a, sbB := b } }
    (s .md2 true false).Inv ∧ (s .md0 true false).sys.mode = .md0 ∧ (s .md2 true true).saf.sbA = (s .md2 true true).saf.sbB
    ∧ (s .md2 true false).sys.mode ≠ .md0 ∧ (s .md2 true false).saf.sbA ≠ (s .md2 true false).saf.sbB
    ∧ (s .md2 true false).saf.cplA = false ∧ (s .md2 true false).saf.cplB = false := by
  unfold State.Inv; decide +kernel

theorem test_met_deliberateReset :
    let s (r : RstState) : State := { up .md10 [] with saf := { Saf.reset with rstate := r } }
    (s .pressed).Inv ∧ pfAnswers (s .pressed) .pf0 = true ∧ (0x5353 : BitVec 16) ≠ 0x5352
    ∧ (s .released).saf.rstate ≠ .pressed ∧ (s .stuck).saf.rstate ≠ .pressed ∧ (s .pressed).saf.rstate = .pressed := by
  unfold State.Inv; decide +kernel

theorem test_met_functionResets :
    let s (m : Mode) (t : Option Trans) (r h : Nat) : State := { up m [] with
      sys := { Sys.reset with mode := m, trans := t }, frst := ⟨r, h⟩ }
    let deb (n : Nat) : State := { s .md2 none n 0 with ggd := { Ggd.reset with chans := List.replicate 24 { Chan.reset with state := 2 } } }
    (s .md2 none 0 0).Inv ∧ pfAnswers (s .md2 none 0 0) .pf0 = true ∧ (s .md2 (some .toBanked) 0 0).sys.trans.isSome = true
    ∧ (s .md2 none 0x400000 0).sys.trans = none ∧ (s .md2 none 0x400000 0).frst.inReset.testBit (22 : Fin 23) = true
    ∧ (s .md2 none 0 0).frst.inReset.testBit (0 : Fin 23) = false ∧ (s .md2 none 0 0).frst.inReset.testBit (22 : Fin 23) = false
    ∧ frstMay (s .md2 none 0x400000 0) (22 : Fin 23) = true ∧ frstMay (s .md2 none 0 0) fnBLK = false
    ∧ frstMay { s .md2 none 0 0 with mem := { Mem.reset with blkReady := true } } fnBLK = true
    ∧ frstOk (s .md2 none 0 0) (22 : Fin 23) = true ∧ frstOk (s .md2 none 0 0) (0 : Fin 23) = true
    ∧ (List.range 23).any (fun fn => !frstOk (deb 0) fn) = true ∧ (List.range 23).any (fun fn => !frstOk (s .md9 none 0 0) fn) = true
    ∧ (s .md2 (some .toBanked) 0 0).sys.trans = some .toBanked ∧ (s .md2 (some .fromBanked) 0 0).sys.trans = some .fromBanked
    ∧ ¬ ((s .md5 (some .stopRamp) 0 0).sys.trans = some .toBanked ∨ (s .md5 (some .stopRamp) 0 0).sys.trans = some .fromBanked)
    ∧ (s .md2 (some .fromBanked) 0 0).frst.held = 0 ∧ (s .md2 (some .fromBanked) 0 0).sys.live = none := by
  unfold State.Inv; decide +kernel


/-! ### The statements' hypotheses: fabric and engines -/

/-- A node of a type and subtype with 64 type-specific bytes. -/
def node (id type sub : Nat) (spec : List Byte) : NodeRec := ⟨id, type, sub, 0, 1, 0, 0, 0, 0, 1, 0, 0, 0, 0, 0, spec⟩

/-- A unit with these nodes and cells. -/
def wired (m : Mode) (ns : List NodeRec) (cs : Tab Cell) : State :=
  let s := up m []
  { s with img := { s.img with live := some { img [] with nodes := ns } }, fab := { Fab.reset with cells := cs } }

theorem test_met_fabricNodes :
    let zero : List Byte := List.replicate 64 0
    let frozen : List Byte := List.replicate 34 0 ++ [5] ++ List.replicate 29 0
    let c : Cell := { Cell.fresh with act := 0, evald := true }
    let s (t : Nat) (spec : List Byte) := wired .md2 [node 8191 t 0 spec] [(8191, c)]
    (s 1 zero).Inv ∧ nodeNormal (s 1 zero) 0 = none ∧ nodeNormal (s 3 zero) 8191 = none
    ∧ nodeNormal (s 1 zero) 8191 = some (node 8191 1 0 zero) ∧ nodeU (node 8191 1 0 zero) 0x42 2 = 0
    ∧ nodeNormal (s 1 frozen) 8191 = some (node 8191 1 0 frozen) ∧ nodeU (node 8191 1 0 frozen) 0x42 2 ≠ 0
    ∧ nodeIn (s 1 zero) 0 = none ∧ nodeIn (s 1 zero) 8191 = some (node 8191 1 0 zero) := by
  unfold State.Inv; decide +kernel

theorem test_met_fabricMismatchAndPeek :
    let s (x : Option Capture) : State :=
      let w := wired .md9 [node 8191 1 0 (List.replicate 64 0)] []
      { w with fab := { w.fab with capture := x } }
    (s none).Inv ∧ nodeIn (s none) 8191 = some (node 8191 1 0 (List.replicate 64 0))
    ∧ pfAnswers (s none) .pf1 = true ∧ windowOpen (s none) fnFAB = true
    ∧ (s none).fab.capture = none ∧ (s (some ⟨1, 2, 3, 4, []⟩)).fab.capture = some ⟨1, 2, 3, 4, []⟩ := by
  unfold State.Inv; decide +kernel

/-- The predicted time of R155 does not come where the frequencies agree and the angle is out of tolerance. -/
theorem predict_none {env : SwgEnv} {grd : Tracker} {m : SwgMach} (h : slip env grd m = 0)
    (hd : (sp env 0x0729).natAbs < 2 * m.dth.natAbs) : predict env grd m = none := by
  have z : ∀ n, fxTime 0 n = 0 := fun n => by simp [fxTime, roundDiv]
  simp only [predict, h, z, if_true, Int.add_zero]
  rw [if_neg (by omega)]

/-- A unit in MD_6 that waits for the close conditions. -/
def closing (wt dth : Int) : State :=
  let s := up .md6 [prm 0x0104 0xFFFF 1]
  { s with swg := { Swg.reset with
      cond := { Swg.reset.cond with brkState := 2 }, grd := { Tracker.reset with wt := wt }, mach := { Swg.reset.mach with w := 0, dth := dth } } }

/-- A witness of the clause of SwingEvents in which no close time is predicted. -/
theorem test_met_swingEventsNone : ∃ d, (closing 0 d).Inv ∧ (closing 0 d).sys.mode = .md6 ∧ (closing 0 d).swg.cond.brkState = 2
    ∧ predict (swgEnv (closing 0 d)) (closing 0 d).swg.grd (closing 0 d).swg.mach = none :=
  ⟨(sp (swgEnv (closing 0 0)) 0x0729).natAbs + 1, by unfold State.Inv; exact ⟨rfl, rfl, rfl, rfl, by decide +kernel⟩, rfl, rfl,
    predict_none rfl (by
      show (sp (swgEnv (closing 0 0)) 0x0729).natAbs < 2 * ((sp (swgEnv (closing 0 0)) 0x0729).natAbs + 1 : Int).natAbs
      omega)⟩

theorem test_met_swingEvents :
    let s := closing 1 (-1)
    s.Inv ∧ s.sys.mode = .md6 ∧ s.swg.cond.brkState = 2 ∧ (predict (swgEnv s) s.swg.grd s.swg.mach).isSome = true
    ∧ ¬ ((up .md7 []).sys.mode = .md6) ∧ ¬ ((up .md6 []).swg.cond.brkState = 2) := by
  unfold State.Inv; decide +kernel

theorem test_met_swingMismatchAndCapture :
    let s (m : Mode) (c : Option SwgCap) : State := { up m [] with swg := { Swg.reset with cap := c } }
    let r (n : Nat) : State := { s .md2 none with frst := ⟨n, 0⟩ }
    (s .md2 none).Inv
    ∧ (s .md2 none).clk.state = 2 ∧ 2 ≤ (s .md2 none).sys.mode.code ∧ (s .md2 none).sys.mode ≠ .md3 ∧ (s .md2 none).frst.inReset.testBit fnSWG = false
    ∧ ¬ (2 ≤ (s .md1 none).sys.mode.code) ∧ ¬ ((s .md3 none).sys.mode ≠ .md3) ∧ ¬ ((r (2 ^ fnSWG)).frst.inReset.testBit fnSWG = false)
    ∧ pfAnswers (s .md2 none) .pf1 = true ∧ windowOpen (s .md2 none) fnSWG = true
    ∧ (s .md2 none).swg.cap = none ∧ (s .md2 (some ⟨1, 2, [3]⟩)).swg.cap = some ⟨1, 2, [3]⟩ := by
  unfold State.Inv; decide +kernel

theorem test_met_failedMap :
    let ps := [prm 0x0801 5 1, prm 0x0802 5 512]
    let sms (c : Nat) (u : Bool) : Tab Sm := [(3071, { Sm.fresh with choice := c, unknown := u })]
    let s (m : Mode) (c : Nat) (u deb : Bool) : State := { up m ps with
      rdl := { Rdl.reset with sms := sms c u, arms := List.replicate 6 { Arm.reset with deb := deb } } }
    let q (m : Mode) (c : Nat) := s m c true true
    (q .md2 2).Inv
    ∧ rdlArm (q .md2 2) 5 = true ∧ 511 < armSms (imgOf (q .md2 2)) 5 ∧ (smOf (q .md2 2).rdl 5 511).unknown = true ∧ smReason (q .md2 2).rdl 5 511 = 0
    ∧ ¬ ((smOf (s .md2 2 false true).rdl 5 511).unknown = true) ∧ ¬ (510 < armSms (imgOf (up .md2 [prm 0x0801 5 1, prm 0x0802 5 510])) 5)
    ∧ (armOf (q .md2 2).rdl 5).deb = true ∧ (smOf (q .md2 2).rdl 5 511).choice ≠ 1 ∧ ¬ ((smOf (q .md2 1).rdl 5 511).choice ≠ 1)
    ∧ pfAnswers (q .md2 2) .pf0 = true ∧ windowOpen (q .md2 2) fnRDL = true ∧ (0x4642 : BitVec 16) ≠ 0x4643
    ∧ armOn (imgOf (q .md2 2)) 5 = true ∧ armOn (imgOf (q .md2 2)) 7 = false
    ∧ (q .md9 2).sys.mode ∉ [Mode.md2, .md10, .md11] ∧ 2 ≤ (q .md2 2).sys.mode.code ∧ (q .md11 2).sys.mode ∈ [Mode.md2, .md10, .md11]
    ∧ 511 < armSms (imgOf (q .md2 2)) 5 ∧ (smOf (q .md2 2).rdl 5 511).choice ≠ 0 := by
  unfold State.Inv; decide +kernel

theorem test_met_riddleLimits :
    let s (m : Mode) (on : Bool) : State := { up m [prm 0x0801 5 1, prm 0x080D 0xFFFF 3] with
      crd := { Crd.reset with ports := List.replicate 6 { Port.off with upset := on } } }
    (s .md4 false).Inv ∧ rdlArm (s .md4 false) 5 = true ∧ portSet (s .md4 false) 5 = none
    ∧ ¬ (portSet (s .md4 true) 5 = none) ∧ ¬ (rdlArm (s .md4 false) 4 = true)
    ∧ (armOf (s .md4 false).rdl 5).upBad ≤ pNat (imgOf (s .md4 false)) 0x080D ∧ (s .md4 false).rdl.acctInv = false
    ∧ (s .md4 false).clk.state = 2 ∧ rdlRuns (s .md4 false).sys.mode.code = true ∧ (s .md4 false).frst.inReset.testBit fnRDL = false
    ∧ rdlRuns (s .md3 false).sys.mode.code = false := by
  unfold State.Inv; decide +kernel

theorem test_met_identificationAndPrecharge :
    let run : IdRun := ⟨true, 0, 0, List.replicate 6 0, 0, 0, 0, 0, 0, 0, 0⟩
    let s (r : Rdl) : State := { up .md4 [] with rdl := r, rdlOld := r }
    let c : SmCap := ⟨1, 2, 3⟩
    (s Rdl.reset).Inv ∧ pfAnswers (s Rdl.reset) .pf0 = true ∧ windowOpen (s Rdl.reset) fnRDL = true ∧ pfAnswers (s Rdl.reset) .pf1 = true
    ∧ (0x4945 : BitVec 16) ≠ 0x4944 ∧ (s { Rdl.reset with run := some run }).rdl.run.isSome = true
    ∧ (s Rdl.reset).rdl.run = none ∧ (s Rdl.reset).rdlOld.run = none
    ∧ (s Rdl.reset).rdl.cap = none ∧ { Rdl.reset with cap := some c }.cap = some c
    ∧ (s Rdl.reset).rdl.idFresh = false ∧ { Rdl.reset with idFresh := true }.idFresh = true := by
  unfold State.Inv; decide +kernel


/-! ### The statements' hypotheses: the host's side and the tick -/

theorem test_met_pcieEndpoint :
    let s (c : Sec) : State := { up .md2 [] with sec := c }
    let down (m : Mode) : State := { up m [] with hif := { (up m []).hif with up := false } }
    let serve : State := stoked { Ring.reset with ci := 1, pi := 4, fetch := 1 } (serving (billet 0 0 0 0))
    let read : State := rcd [] { Rec.reset with slots := [(255, ⟨3, 7, [], []⟩)], rdPf := .pf1 }
    let asleep : State := { s Sec.reset with hif := { (s Sec.reset).hif with pf1 := { pfUp with d3hot := true } } }
    let masked : State := { s Sec.reset with hif := { (s Sec.reset).hif with pf1 := { pfUp with pend := BitVec.ofNat 64 (2 ^ 63) } } }
    (s Sec.reset).Inv ∧ serve.Inv ∧ (stoked { Ring.reset with ci := 1, pi := 4, fetch := 1 } (serving (billet 5 0 4 0))).Inv
    ∧ dmaBusy (s Sec.reset) .imageLoad = false ∧ dmaBusy (s { Sec.reset with imgState := 1 }) .imageLoad = true
    ∧ dmaBusy (s { Sec.reset with ucLoading := some 1 }) .ucodeLoad = true ∧ dmaBusy (s { Sec.reset with rcv := some (true, 1) }) .recovery = true
    ∧ dmaBusy (rcd [] { Rec.reset with slots := [(255, ⟨3, 7, [], []⟩)], fetch := some (255, 31) }) .recorderRead = true
    ∧ dmaBusy serve (.ringFetch 63) = true
    ∧ dmaBusy (stoked { Ring.reset with ci := 1, pi := 4, fetch := 1 } (serving (billet 5 0 4 0))) (.worker 10) = true
    ∧ (down .md2).hif.up = false ∧ (s Sec.reset).hif.up = true
    ∧ ringPf serve 63 = .pf0 ∧ ringPf { serve with regs := [(0x517F0, 0x10001), (0x517FC, 2)] } 63 = .pf1
    ∧ (down .md2).sys.mode ≠ .md0 ∧ (down .md2).sys.mode ≠ .md1 ∧ pfAnswers (s Sec.reset) .pf0 = true ∧ windowOpen (s Sec.reset) fnHIF = true
    ∧ rdOf read = some 255 ∧ read.rcd.rdPf = .pf1 ∧ read.hif.up = true ∧ read.Inv
    ∧ pfAnswers asleep .pf1 = false ∧ asleep.hif.up = true ∧ asleep.Inv ∧ (down .md2).Inv
    ∧ pfAnswers (down .md2) .pf1 = false ∧ pfAnswers masked .pf1 = true ∧ (pfOf masked .pf1).pend.getLsbD 63 = true := by
  unfold State.Inv; decide +kernel

theorem test_met_registerWrites :
    let s : State := { up .md2 [] with hold64 := [(0x517F8, some 5)] }
    let asleep : State := { s with hif := { s.hif with pf1 := { pfUp with d3hot := true } } }
    let plain (pf : Pf) (a : Nat) (v : Word) : Bool := (rowOf pf a v).isNone && decide (inRows a 0x51000 0x20 64 = none
      ∧ inRows a 0x100100 0x40 24 = none ∧ inRows a 0x120100 0x20 32 = none ∧ a ≠ 0x110018
      ∧ (hasEvt (a / 0x10000) = true → a % 0x10000 ≠ 0x40 ∧ a % 0x10000 ≠ 0x44))
    let kind (a : Nat) : Option (Bool × Bool × Bool) := (regDefOf a).map (fun x => (x.1.pf0, x.1.wide, x.2.2))
    s.Inv ∧ pfAnswers { s with hif := Hif.reset } .pf0 = false ∧ Hif.reset.up = false
    ∧ pfAnswers asleep .pf1 = false ∧ asleep.hif.up = true ∧ asleep.Inv
    ∧ inRows (0x10010C + 0x40 * 23 - 4) 0x100100 0x40 24 = some (23, 8) ∧ kind (0x10010C + 0x40 * 23) = some (false, true, true)
    ∧ (shadowBar s .pf1 23).isSome = true ∧ windowOpen s (0x10010C / 0x10000) = true ∧ pfAnswers s .pf0 = true ∧ (0x41 : Nat) % 4 ≠ 0
    ∧ windowOpen s (0x10 / 0x10000) = true ∧ windowOpen s (0x50000 / 0x10000) = true
    ∧ regDefOf 0x7FFFFC = none ∧ windowOpen s 22 = true ∧ regDefOf 0x16FFFC = none
    ∧ windowOpen { s with clk := Clk.reset } (0x150020 / 0x10000) = false ∧ kind 0x150020 ≠ none ∧ windowOpen s (0x150020 / 0x10000) = true
    ∧ kind 0x20028 = some (true, true, false) ∧ kind 0x2002C = some (true, true, true) ∧ plain .pf0 0x2002C 7 = true ∧ plain .pf0 0x20028 7 = true
    ∧ inRows (0x2002C - 4) 0x51000 0x20 64 = none ∧ inRows (0x2002C - 4) 0x100100 0x40 24 = none
    ∧ kind 0x10010 = some (true, false, false) ∧ pfAnswers s .pf1 = true ∧ (0x10010 : Nat) ≠ 0x30
    ∧ kind 0x40014 = some (true, false, false) ∧ plain .pf0 0x20024 7 = true ∧ (kind 0x20024).isSome = true
    ∧ hasEvt (1 : Fin 23) = true ∧ hasEvt (22 : Fin 23) = true ∧ windowOpen s (1 : Fin 23) = true ∧ windowOpen s (22 : Fin 23) = true
    ∧ regGet s (regA 22 0x40) &&& regGet s (regA 22 0x44) = 0 ∧ (0x24 : BitVec 23).toNat = 0x24 ∧ (0x150020 : BitVec 23).toNat = 0x150020 := by
  unfold State.Inv; decide +kernel

theorem test_met_registerReads :
    let s : State := { up .md2 [] with latch64 := [(0x2002C, some 5)] }
    let shut : State := { s with clk := Clk.reset }
    let kind (a : Nat) : Option (Bool × Bool) := (regDefOf a).map (fun x => (x.1.wide, x.2.2))
    pfAnswers { s with hif := Hif.reset } .pf1 = false
    ∧ pfAnswers { s with hif := { s.hif with pf0 := { pfUp with d3hot := true } } } .pf0 = false
    ∧ pfAnswers s .pf1 = true ∧ windowOpen s (0x160000 / 0x10000) = true ∧ (0x160003 : Nat) % 4 ≠ 0
    ∧ pfAnswers shut .pf0 = true ∧ (0x15FFFC : Nat) / 0x10000 < 23 ∧ windowOpen shut (0x15FFFC / 0x10000) = false ∧ regDefOf 0x16FFFC = none
    ∧ kind 0x4 = some (false, false) ∧ kind 0x20028 = some (true, false) ∧ kind 0x2002C = some (true, true)
    ∧ (readRowOf .pf0 0x4).isNone = true ∧ (readRowOf .pf0 0x20028).isNone = true ∧ (readRowOf .pf0 0x2002C).isNone = true := by
  decide +kernel

theorem test_met_ticksAndOverruns :
    let s (m : Mode) (c : Nat) (o : Option Nat) : State := { up m [] with
      sys := { Sys.reset with mode := m, tickCnt := 17, ovrAt := o }, clk := { Clk.reset with state := c } }
    (s .md2 2 none).Inv ∧ (s .md0 2 none).sys.mode = .md0 ∧ (s .md2 1 none).clk.state ≠ 2
    ∧ (s .md1 2 none).sys.mode ≠ .md0 ∧ (s .md1 2 none).clk.state = 2 ∧ (s .md1 2 none).frst.held = 0 ∧ (s .md1 2 none).clk.gap = false
    ∧ 2 ≤ (s .md2 2 none).sys.mode.code ∧ (s .md2 2 none).sys.mode ≠ .md3 ∧ (s .md2 2 none).sys.ovrAt ≠ some (s .md2 2 none).sys.tickCnt
    ∧ ¬ (2 ≤ (s .md1 2 none).sys.mode.code) ∧ ¬ ((s .md2 2 (some 17)).sys.ovrAt ≠ some (s .md2 2 (some 17)).sys.tickCnt)
    ∧ (s .md2 2 (some 1)).sys.ovrAt.any (fun c => decide ((s .md2 2 (some 1)).sys.tickCnt ≤ c + 16)) = true
    ∧ (s .md2 2 (some 1)).sys.mode.blockable = true := by
  unfold State.Inv; decide +kernel


end Sys2Proof.Tests
end

/-!
SUPPORT. Accesses of the host that are refused: one of a wrong size, and one from PF1 to a register of PF0 (R14, R19). Each leaves the
state as it was but for its entry in the event log, and that entry is said once, for `accessErr`.
-/
namespace Sys2Proof.Machine

/-! ### The entry of an access error -/

theorem pagesGranted_of_regs {s t : State} (h : t.regs = s.regs) (m : Nat) (wr : Bool) :
    ∀ n page, pagesGranted t m wr n page = pagesGranted s m wr n page := by
  have grants (k page : Nat) : rgnGrants t m k page wr = rgnGrants s m k page wr := by
    unfold rgnGrants regF regGet
    rw [h]
  intro n
  induction n with
  | zero => exact fun _ => rfl
  | succ n ih => exact fun page => by simp only [pagesGranted, grants, ih]

theorem rgnAllows_of_regs {s t : State} (h : t.regs = s.regs) (m addr len : Nat) (wr : Bool) :
    rgnAllows t m addr len wr = rgnAllows s m addr len wr := by
  simp only [rgnAllows, pagesGranted_of_regs h]

/-- The newest entry of the event log of `t` tells of an access error in `s` (R14, R19, R416); where `s` writes no entry, nothing is said. -/
def ErrorLogged (s : State) (pf : Pf) (a kind : Nat) (t : State) : Prop :=
  s.sys.mode ≠ .md0 → rgnAllows s 5 (logBase + 32 * (s.log.next % 32768)) 32 true = true →
    t.log = ⟨(s.log.next + 1) % 2 ^ 32, tabSet 0 s.log.ring (s.log.next % 32768)
      (logWord s.log.next (time96 (stamp s).1) fnSYS 0x85 (argAt 0 a + argAt 4 (if pf = .pf0 then 0 else 1) + argAt 5 kind))⟩

/-- The access from `s` ends in `t` with no effect but the entry of its access error. -/
def Refused (s : State) (pf : Pf) (a kind : Nat) (t : State) : Prop := Becomes s [] s t ∧ ErrorLogged s pf a kind t

theorem logAt_log {s : State} {u fn code arg : Nat} (hm : s.sys.mode ≠ .md0)
    (hr : rgnAllows s 5 (logBase + 32 * (s.log.next % 32768)) 32 true = true) :
    (logAt s u fn code arg).log = ⟨(s.log.next + 1) % 2 ^ 32, tabSet 0 s.log.ring (s.log.next % 32768)
      (logWord s.log.next (time96 u) fn code arg)⟩ := by
  unfold logAt
  rw [if_neg hm, if_pos hr]

theorem accessErr_logged (s : State) (pf : Pf) (a kind : Nat) : ErrorLogged s pf a kind (accessErr s pf a kind) :=
  fun hm hr => logAt_log (s := (stamp s).2) hm ((rgnAllows_of_regs (stamp_regs s) _ _ _ _).trans hr)

theorem Becomes.of_reported {x s t : State} (h : Reported x t) (hr : RegsBut [regA fnRKS 0x40] s t) : Becomes x [] s t := by
  have htx : t.txRd = x.txRd := congrArg (fun u => u.txRd) h
  exact ⟨by rw [htx]; exact h, hr⟩

theorem Reported.set_rdata {s t : State} (h : Reported s t) (r : Word) : Reported { s with rdata := r } { t with rdata := r } := by
  unfold Reported at *
  exact congrArg (fun u : State => { u with rdata := r }) h

theorem accessErr_begin_reported (s : State) (pf : Pf) (a kind : Nat) : Reported s (accessErr (begin s) pf a kind) :=
  (begin_reported s).trans (accessErr_reported _ _ _ _)

theorem accessErr_begin_but (s : State) (pf : Pf) (a kind : Nat) : RegsBut [regA fnRKS 0x40] s (accessErr (begin s) pf a kind) :=
  logNow_but (begin s) _ _ _

theorem accessErr_begin_logged (s : State) (pf : Pf) (a kind : Nat) : ErrorLogged s pf a kind (accessErr (begin s) pf a kind) :=
  fun hm hr => accessErr_logged (begin s) pf a kind hm ((rgnAllows_of_regs (begin_regs s) _ _ _ _).trans hr)

/-- A write that is an access error. -/
theorem accessErr_refused (s : State) (pf : Pf) (a kind : Nat) : Refused s pf a kind (accessErr (begin s) pf a kind) :=
  ⟨.of_reported (accessErr_begin_reported s pf a kind) (accessErr_begin_but s pf a kind), accessErr_begin_logged s pf a kind⟩

/-- A read that is an access error returns a word of its own. -/
theorem accessErr_refused_read (s : State) (pf : Pf) (a kind : Nat) (r : Word) :
    let t : State := { accessErr (begin s) pf a kind with rdata := r }
    Becomes { s with rdata := r } [] s t ∧ ErrorLogged s pf a kind t :=
  ⟨.of_reported ((accessErr_begin_reported s pf a kind).set_rdata r) (accessErr_begin_but s pf a kind), accessErr_begin_logged s pf a kind⟩

/-! ### Accesses of the bus -/

@[simp] theorem pfAnswers_begin (s : State) (pf : Pf) : pfAnswers (begin s) pf = pfAnswers s pf := rfl

@[simp] theorem windowOpen_begin (s : State) (fn : Nat) : windowOpen (begin s) fn = windowOpen s fn := rfl

theorem windowShut_of_open {s : State} {a : Nat} (h : windowOpen s (a / 0x10000) = true) : windowShut (begin s) a = false := by
  simp [windowShut, h]

section
variable {s : State} {pf : Pf} {a : Nat} (ha : pfAnswers s pf = true) (hw : windowOpen s (a / 0x10000) = true)
include ha hw

theorem busWrite_unaligned (h4 : a % 4 ≠ 0) (v : Word) : busWrite s pf a v = .next (accessErr (begin s) pf a 0) := by
  simp [busWrite, ha, windowShut_of_open hw, h4]

theorem busRead_unaligned (h4 : a % 4 ≠ 0) : busRead s pf a = .next { accessErr (begin s) pf a 0 with rdata := 0xFFFFFFFF } := by
  simp [busRead, ha, windowShut_of_open hw, h4]

theorem execRegBadAccess_sizeRead {addr : BitVec 23} (h : addr.toNat = a) :
    execRegBadAccess pf addr .sizeRead s = .next { accessErr (begin s) pf a 0 with rdata := 0xFFFFFFFF } := by
  simp [execRegBadAccess, ha, windowShut_of_open hw, h]

theorem execRegBadAccess_sizeWrite {addr : BitVec 23} (h : addr.toNat = a) :
    execRegBadAccess pf addr .sizeWrite s = .next (accessErr (begin s) pf a 0) := by
  simp [execRegBadAccess, ha, windowShut_of_open hw, h]

end

theorem busWrite_pf1 {s : State} {a : Nat} {d : RegDef} {i : Nat} {h : Bool} (hd : regDefOf a = some (d, i, h)) (hp : d.pf0 = true)
    (ha : pfAnswers s .pf1 = true) (hw : windowOpen s (a / 0x10000) = true) (h4 : a % 4 = 0) (hm : a ≠ 0x30) (v : Word) :
    busWrite s .pf1 a v = .next (accessErr (begin s) .pf1 a 1) := by
  simp [busWrite, ha, windowShut_of_open hw, h4, hd, hp, hm]

/-- Each write that names the register by its address is a write of the bus (R15, R18). -/
theorem exec_of_mem_busWrites (s : State) (pf : Pf) (addr : BitVec 23) (v : Word) :
    ∀ x ∈ [Instr.regWrite pf addr v, .reg64LowerWrite pf addr v, .reg64UpperWrite pf addr v], exec x s = busWrite s pf addr.toNat v := by
  simp only [List.forall_mem_cons]
  exact ⟨rfl, rfl, rfl, List.forall_mem_nil _⟩

/-! ### Reads of registers of PF0 -/

theorem ringNewest_begin (s : State) : ringNewest (begin s) = ringNewest s := by
  simp only [ringNewest, begin_peat]

theorem viewRed_begin (s : State) (o : Nat) : viewRed (begin s) o = viewRed s o := by
  unfold viewRed
  rw [ringNewest_begin]
  rfl

theorem viewOf_begin (s : State) (fn o : Nat) : viewOf (begin s) fn o = viewOf s fn o := by
  unfold viewOf
  rw [viewRed_begin]
  rfl

theorem regView_begin (s : State) (a : Nat) : regView (begin s) a = regView s a := by
  simp only [regView, regShown, viewOf_begin, regGet_begin]

/-- The register at the offset answers writes of PF0 only (R19). -/
def pf0Reg (a : Nat) : Bool := (regDefOf a).any (fun x => x.1.pf0)

theorem inRows_eq_some {o base stride n i w : Nat} (h : inRows o base stride n = some (i, w)) : i < n ∧ o = base + stride * i + w := by
  unfold inRows at h
  split at h
  · next hr =>
    simp only [Option.some.injEq, Prod.mk.injEq] at h
    obtain ⟨rfl, rfl⟩ := h
    have hlt : o - base < n * stride := by rw [Nat.mul_comm]; omega
    have hdm := Nat.div_add_mod (o - base) stride
    exact ⟨Nat.div_lt_of_lt_mul (by omega), by omega⟩
  · exact absurd h (by simp)

theorem pf0Reg_tbFrac : ∀ b < 4, pf0Reg (0x20100 + 0x40 * b + 0) = false := by decide

theorem pf0Reg_fltResStat : ∀ i < 32, pf0Reg (0x120100 + 0x20 * i + 12) = false := by decide

theorem pf0Reg_monLive : ∀ w < 32, pf0Reg (0x160200 + 4 * w + 0) = false := by decide

/-- Each read that is a row of its own returns a result which both functions may read, and no register of PF0 (R19). -/
theorem readRowOf_of_pf0Reg {a : Nat} (pf : Pf) (h : pf0Reg a = true) : readRowOf pf a = none := by
  unfold readRowOf
  split
  case h_8 =>
    split
    case h_1 hb =>
      obtain ⟨hlt, rfl⟩ := inRows_eq_some hb
      exact absurd ((pf0Reg_tbFrac _ hlt).symm.trans h) Bool.false_ne_true
    case h_2 hi _ =>
      obtain ⟨hlt, rfl⟩ := inRows_eq_some hi
      exact absurd ((pf0Reg_fltResStat _ hlt).symm.trans h) Bool.false_ne_true
    case h_3 hw _ _ =>
      obtain ⟨hlt, rfl⟩ := inRows_eq_some hw
      exact absurd ((pf0Reg_monLive _ hlt).symm.trans h) Bool.false_ne_true
    case h_4 => rfl
  all_goals exact absurd h (by decide)

/-- A read of a register of PF0 returns its value, whichever function reads (R15, R19). -/
theorem busRead_pf0Reg {s : State} {pf : Pf} {a : Nat} {d : RegDef} {i : Nat} {h : Bool} (hd : regDefOf a = some (d, i, h))
    (hp : d.pf0 = true) (ha : pfAnswers s pf = true) (hw : windowOpen s (a / 0x10000) = true) (h4 : a % 4 = 0) :
    ∃ t, busRead s pf a = .next t
      ∧ t.rdata = if d.wide ∧ h then (tabGet none s.latch64 a).getD (regView s a) else regView s a := by
  have hr : readRowOf pf a = none := readRowOf_of_pf0Reg pf (by simp [pf0Reg, hd, hp])
  have hs := windowShut_of_open hw
  cases hwide : d.wide with
  | false => simp [busRead, ha, hs, h4, hd, hr, hwide, regView_begin]
  | true => cases h <;> simp [busRead, ha, hs, h4, hd, hr, hwide, regView_begin]

/-! ### Writes that are rows of their own -/

theorem hostPf0_pf1 {s : State} {a : Nat} (ha : pfAnswers s .pf1 = true) (hw : windowOpen s (a / 0x10000) = true) (f : State → State) :
    hostPf0 (begin s) .pf1 a f = accessErr (begin s) .pf1 a 1 := by
  simp [hostPf0, hostAccess, pf0Only, ha, hw]

/-- The command of PF1 is a write of the PF0-only register at the offset: it meets the rule of R19 before its own. -/
def WritesPf0 (a : Nat) (c : Instr) : Prop := ∀ s, ∃ f, exec c s = .next (hostPf0 (begin s) .pf1 a f)

theorem WritesPf0.refused {a : Nat} {c : Instr} (h : WritesPf0 a c) {s : State} (ha : pfAnswers s .pf1 = true)
    (hw : windowOpen s (a / 0x10000) = true) : Gives c s (Refused s .pf1 a 1) := by
  obtain ⟨f, hf⟩ := h s
  exact ⟨_, hf.trans (congrArg _ (hostPf0_pf1 ha hw f)), accessErr_refused s .pf1 a 1⟩

theorem ringCtl_offset (k : Fin 32) : ringA (Fin.ofNat 64 k.val) + 0x10 = 0x51010 + 0x20 * k.val := by
  have hk : k.val % 64 = k.val := Nat.mod_eq_of_lt (by omega)
  simp only [ringA, Fin.ofNat, hk]
  omega

theorem ringEnable_writesPf0 (k : Fin 32) (v : Word) : WritesPf0 (0x51010 + 0x20 * k.val) (.ringEnable .pf1 (Fin.ofNat 64 k.val) v) :=
  ringCtl_offset k ▸ fun _ => ⟨_, rfl⟩

theorem ringDisable_writesPf0 (k : Fin 32) (v : Word) : WritesPf0 (0x51010 + 0x20 * k.val) (.ringDisable .pf1 (Fin.ofNat 64 k.val) v) :=
  ringCtl_offset k ▸ fun _ => ⟨_, rfl⟩

theorem shSwapRequest_writesPf0 (k : Fin 32) (v : Word) : WritesPf0 (0x12011C + 0x20 * k.val) (.shSwapRequest .pf1 k v) := by
  have hk : fltA k 0x1C = 0x12011C + 0x20 * k.val := by unfold fltA; omega
  exact hk ▸ fun _ => ⟨_, rfl⟩

/-! ### The obligation -/

/-- Settles O6: each access is followed to the one `accessErr` that it ends in, or to the value it reads. -/
theorem accessRules : Obligations.AccessRules := by
  unfold Obligations.AccessRules
  intro s pf addr v _ ha a seq writes error
  refine ⟨fun hw => ⟨?_, ?_⟩, fun h4 hw => ⟨?_, ?_⟩, fun d i h hd hp h4 hw hpf hm => ?_, fun hpf key w k x hx hw => ?_⟩
  · exact ⟨_, execRegBadAccess_sizeRead ha hw rfl, accessErr_refused_read s pf a 0 _⟩
  · exact ⟨_, execRegBadAccess_sizeWrite ha hw rfl, accessErr_refused s pf a 0⟩
  · exact ⟨_, busRead_unaligned ha hw h4, accessErr_refused_read s pf a 0 _⟩
  · exact fun x hx => ⟨_, (exec_of_mem_busWrites s pf addr v x hx).trans (busWrite_unaligned ha hw h4 v), accessErr_refused s pf a 0⟩
  · subst hpf
    refine ⟨fun x hx => ⟨_, ?_, accessErr_refused s .pf1 a 1⟩, busRead_pf0Reg hd hp ha hw h4⟩
    exact (exec_of_mem_busWrites s .pf1 addr v x hx).trans (busWrite_pf1 hd hp ha hw h4 hm v)
  · subst hpf
    suffices row : WritesPf0 x.1 x.2 from row.refused ha hw
    clear hw
    revert x
    simp only [List.forall_mem_cons, List.not_mem_nil, false_imp_iff, implies_true, and_true, ringEnable_writesPf0,
      ringDisable_writesPf0, shSwapRequest_writesPf0, true_and]
    -- every other row is `hostPf0` at its offset by definition
    and_intros <;> exact fun _ => ⟨_, rfl⟩

end Sys2Proof.Machine

/-!
SUPPORT. The confirmation of the check value (R377): what the command ends in, its checks taken in their order, and what each outcome in
SAF_RST_RES leaves behind (R380).
-/
namespace Sys2Proof.Machine

/-- The companion of `hostPf0_pf1`: a write of PF0 meets no rule before its own (R19, R383). -/
theorem hostPf0_pf0 {s : State} {a : Nat} (ha : pfAnswers s .pf0 = true) (hw : windowOpen s (a / 0x10000) = true) (f : State → State) :
    hostPf0 (begin s) .pf0 a f = f (begin s) := by
  simp [hostPf0, hostAccess, pf0Only, ha, hw]

theorem windowOpen_saf (s : State) : windowOpen s fnSAF = true := rfl

/-- An outcome in SAF_RST_RES changes nothing but SAF, its log entry aside (R380). -/
theorem rstRes_becomes (s : State) (f : Saf → Saf) (st : Nat) :
    Becomes { s with saf := { f s.saf with res := st } } [] s (rstRes (safSet (begin s) f) st) := by
  have saf : Reported { s with saf := { f s.saf with res := st } } (safSet (safSet (begin s) f) fun g => { g with res := st }) := rfl
  exact .of_reported (saf.trans (logNow_reported _ _ _ _)) (logNow_but (safSet _ _) _ _ _)

/-- The value in SAF_CV_VAL is the check value of the image in force (R376, R377). -/
def cvSame (s : State) : Bool := s.img.live.any (fun i => decide (i.cv = (regGet s 0x14002C).toNat))

/-- R377: CONFIRM by PF0. Its key, the mode and the value are checked in this order. -/
theorem exec_cvConfirm {s : State} (ha : pfAnswers s .pf0 = true) (key : BitVec 16) :
    exec (.cvConfirm .pf0 key) s = .next (
      if key ≠ 0x4356 then rstRes (begin s) 3
      else if s.sys.mode ≠ .md10 then rstRes (begin s) 4
      else if cvSame s = true then rstRes (safSet (begin s) (fun f => { f with confArm := true })) 1
      else rstRes (begin s) 10) := by
  have hdef : exec (.cvConfirm .pf0 key) s = execCvConfirm .pf0 key s := rfl
  rw [hdef, execCvConfirm, hostPf0_pf0 ha (windowOpen_saf s)]
  cases hl : s.img.live with
  | none => simp [cvSame, hl]
  | some i =>
    simp only [cvSame, hl, begin_img, Option.any_some, decide_eq_true_eq]
    rfl

/-- Settles O7: the command is accepted or refused by the check that it meets first, and each outcome is one in SAF_RST_RES. -/
theorem checkValueConfirmation : Obligations.CheckValueConfirmation := by
  unfold Obligations.CheckValueConfirmation
  intro s _ ha ends same
  have exec_eq := exec_cvConfirm ha 0x4356
  refine ⟨fun hm => ⟨_, ?_, rstRes_becomes s id 4⟩, fun hm (hv : cvSame s = false) => ⟨_, ?_, rstRes_becomes s id 10⟩,
    fun hm (hv : cvSame s = true) => ⟨_, ?_, rstRes_becomes s (fun f => { f with confArm := true }) 1⟩⟩
  · rw [exec_eq, if_neg (not_not_intro rfl), if_pos hm]; rfl
  · rw [exec_eq, if_neg (not_not_intro rfl), if_neg (not_not_intro hm), if_neg (ne_true_of_eq_false hv)]; rfl
  · rw [exec_eq, if_neg (not_not_intro rfl), if_neg (not_not_intro hm), if_pos hv]

end Sys2Proof.Machine
